-- ==== Sys2Proof/Word.lean ====
section
/-! DEFINITION. The word and byte types of the block: every message and register is made of 64-bit words (R5, R6). -/
namespace Sys2Proof

/-- A 64-bit word of a message (R5) or a register (R6). -/
abbrev Word := BitVec 64

/-- A byte of the configuration image (R266). -/
abbrev Byte := BitVec 8

end Sys2Proof
end

