-- ==== Sys2Proof/Syntax.lean ====
section
/-! DEFINITION. The commands of the block, one constructor per row of the opcode table, and the data they carry.
The table gives no operand fields; each constructor carries the fields of the message format its rule names, the value a
register write carries, or what names the event (a seat, a tag, a gate path, an engine group). `t` is the local-counter
instant at which the command happens (log entry 6). -/
namespace Sys2Proof

/-- The seven ports, in the order of R261. -/
inductive Port where
  | G | P | C | N | T | F | M
  deriving DecidableEq, Repr

/-- The three transfer gates of R220. -/
inductive Gate where
  | clink | tstream | nlink
  deriving DecidableEq, Repr

/-- A member of a split seat as OPEN carries it (R248). -/
structure Member where
  node  : BitVec 16
  start : BitVec 24
  len   : BitVec 22
  deriving DecidableEq, Repr

/-- OPEN, opcode 0x10 (R248). -/
structure OpenMsg where
  kind        : BitVec 4
  nstop       : BitVec 4
  lastMember  : BitVec 5
  reqid       : BitVec 64
  tenant      : BitVec 12
  cls         : BitVec 3
  promptLen   : BitVec 24
  maxTok      : BitVec 24
  model       : BitVec 6
  adapter     : BitVec 16
  lprefix     : BitVec 16
  draftM      : BitVec 6
  adapterOn   : Bool
  lprefixOn   : Bool
  draftOn     : Bool
  draftMax    : BitVec 4
  rseed       : BitVec 32
  temp        : BitVec 32
  topp        : BitVec 32
  minp        : BitVec 32
  thresh      : BitVec 32
  topk        : BitVec 20
  reppen      : BitVec 32
  freqpen     : BitVec 32
  prespen     : BitVec 32
  spillHandle : BitVec 32
  stops       : List (List (BitVec 20))
  members     : List Member
  deriving DecidableEq, Repr

/-- PROMPT, opcode 0x11 (R249). -/
structure PromptMsg where
  reqid    : BitVec 64
  firstPos : BitVec 24
  toks     : List (BitVec 20)
  deriving DecidableEq, Repr

/-- The tag words of a block carrier (R175 words W1 and W4 to W31, R246). -/
structure BlockTag where
  name   : BitVec 64
  toks   : List (BitVec 20)
  ctx    : BitVec 128
  depth  : BitVec 18
  parent : BitVec 64
  hash   : BitVec 128
  deriving DecidableEq, Repr

/-- One block entry of a seat image (R191, R255). -/
structure ImgBlock where
  key    : BitVec 128
  name   : BitVec 64
  handle : BitVec 32
  depth  : BitVec 18
  deriving DecidableEq, Repr

/-- A seat image: the 32 words of R255, its blocks, its count table and its stop record (R36). -/
structure Image where
  words  : List Word
  blocks : List ImgBlock
  pct    : List (BitVec 20 × BitVec 24)
  stops  : List (List (BitVec 20))
  deriving DecidableEq, Repr

/-- A directory entry of DIR_ADD or DIR_DROP (R255). -/
structure DirEntry where
  handle : BitVec 32
  depth  : BitVec 18
  key    : BitVec 128
  deriving DecidableEq, Repr

/-- SPLIT_OPEN, opcode 0x70 (R256). `reqid` is the request the lead opened; word 1 carries the tag. -/
structure SplitOpenMsg where
  tag        : BitVec 24
  reqid      : BitVec 64
  leadSeat   : BitVec 16
  leadGen    : BitVec 16
  self       : BitVec 5
  lastMember : BitVec 5
  fromPool   : Bool
  start      : BitVec 24
  len        : BitVec 22
  tenant     : BitVec 12
  cls        : BitVec 3
  model      : BitVec 6
  adapter    : BitVec 16
  lprefix    : BitVec 16
  adapterOn  : Bool
  lprefixOn  : Bool
  modelVer   : BitVec 16
  adapterVer : BitVec 16
  lprefixVer : BitVec 16
  rkey       : BitVec 64
  nodes      : List (BitVec 16)
  handles    : List (BitVec 32)
  deriving DecidableEq, Repr

/-- A candidate entry: token id and logit bits (R123); SHARD and FLAGS are set by the lane. -/
structure Cand where
  token : BitVec 20
  logit : BitVec 32
  deriving DecidableEq, Repr

/-- CAND_LIST, opcode 0x51 (R126). -/
structure CandMsg where
  seat      : BitVec 16
  gen       : BitVec 16
  round     : BitVec 12
  epoch     : BitVec 48
  row       : BitVec 4
  shard     : BitVec 6
  lastShard : BitVec 6
  base      : BitVec 20
  span      : BitVec 21
  exhausted : Bool
  nanSeen   : Bool
  nextVal   : BitVec 32
  nextId    : BitVec 20
  remLse    : BitVec 32
  remCnt    : BitVec 21
  entries   : List Cand
  deriving DecidableEq, Repr

/-- DRAFTS, opcode 0x52 (R148). -/
structure DraftsMsg where
  seat   : BitVec 16
  gen    : BitVec 16
  epoch  : BitVec 48
  drafts : List (BitVec 20)
  deriving DecidableEq, Repr

/-- The fields of a model-table slot that software writes (R205). -/
structure ModelFields where
  name      : BitVec 64
  version   : BitVec 16
  cls       : BitVec 1
  layers    : BitVec 12
  objFirst  : BitVec 32
  objCount  : BitVec 18
  endTok    : BitVec 20
  vocab     : BitVec 21
  lastShard : BitVec 6
  params    : BitVec 48
  secKind   : BitVec 2
  secNode   : BitVec 16
  deriving DecidableEq, Repr

/-- A weight object descriptor (R206). -/
structure Desc where
  layer     : BitVec 12
  place     : BitVec 2
  srcTier   : BitVec 2
  format    : BitVec 4
  noise     : Bool
  poisoned  : Bool
  secondary : Bool
  operator  : BitVec 16
  srcAddr   : BitVec 64
  bytes     : BitVec 32
  dstOff    : BitVec 32
  secHandle : BitVec 64
  deriving DecidableEq, Repr

/-- An operation record of a completion report (R287). -/
structure OpsRec where
  layer    : BitVec 12
  operator : BitVec 16
  optype   : BitVec 4
  format   : BitVec 3
  draft    : Bool
  draftM   : BitVec 6
  count    : BitVec 64
  deriving DecidableEq, Repr

/-- The payload of an exchange message: PAYBYTES, TAG and the payload's words (R246). -/
structure Payload where
  bytes : BitVec 40
  tag : BitVec 24
  pay : List Word
  deriving DecidableEq, Repr

/-- What the SECDED logic finds (log entry 12): in the seat word that the scrubber reads, or, on a read, in the request directory's
entry of a seat (R37), in the context-table record of a seat (R169) or in the hot-cache line of an index entry (R173). -/
inductive Ecc where
  | clean | corrected | uncorrectable
  | directory (seat : BitVec 16)
  | directoryCorrected (seat : BitVec 16)
  | context (seat : BitVec 16) (fixed : Bool)
  | hotLine (entry : BitVec 24) (fixed : Bool)
  deriving DecidableEq, Repr

/-- The commands: one constructor per row of the opcode table, in its order. -/
inductive Instr where
  | powerOnStart (keepReadable : Bool)
  | imageReadDone (t : BitVec 64) (bytes : List Byte)
  | mainPowerGood (t : BitVec 64)
  | startClearingDone (t : BitVec 64)
  | fabricReady (t : BitVec 64)
  | startWindowExpiry (t : BitVec 64)
  | sagWarning (t : BitVec 64)
  | sagRecordDone (t : BitVec 64)
  | busRecovered (t : BitVec 64)
  | fallowEntry (t : BitVec 64)
  | fallowPowerOff (t : BitVec 64)
  | wake (t : BitVec 64)
  | wakeholdExpiry (t : BitVec 64)
  | linkUp (t : BitVec 64) (p : Port) (peer : BitVec 6)
  | linkDown (t : BitVec 64) (p : Port) (peer : BitVec 6)
  | hello (t : BitVec 64) (p : Port) (peer : BitVec 6) (node era : BitVec 16) (opened : Bool)
  | credit (t : BitVec 64) (p : Port) (peer : BitVec 6) (opened : Bool) (beats : BitVec 40)
      (entries : List (BitVec 4 × BitVec 20))
  | unknownMessage (t : BitVec 64) (p : Port) (peer : BitVec 6) (badLen : Bool) (opcode : BitVec 8) (word1 : Word)
  | portOpen (t : BitVec 64) (p : Port)
  | portDrop (t : BitVec 64) (p : Port)
  | openReq (t : BitVec 64) (m : OpenMsg)
  | prompt (t : BitVec 64) (p : Port) (peer : BitVec 6) (m : PromptMsg)
  | promptwaitExpiry (t : BitVec 64) (seat : BitVec 16)
  | cancel (t : BitVec 64) (reqid : BitVec 64)
  | prefillShip (t : BitVec 64) (seat : BitVec 16)
  | prefillKv (t : BitVec 64) (seat gen : BitVec 16) (block : BitVec 18) (tag : BitVec 24) (carrier : BlockTag)
  | prefillFail (t : BitVec 64) (seat gen : BitVec 16) (code : BitVec 8)
  | shipwaitExpiry (t : BitVec 64) (seat : BitVec 16)
  | kvData (t : BitVec 64) (tag : BitVec 24) (handle : BitVec 32) (carrier : BlockTag)
  | kvMiss (t : BitVec 64) (tag : BitVec 24) (handle : BitVec 32)
  | putAck (t : BitVec 64) (tag : BitVec 24) (handle : BitVec 32)
  | putDecline (t : BitVec 64) (tag : BitVec 24)
  | imageData (t : BitVec 64) (tag : BitVec 24) (handle : BitVec 32) (image : Image)
  | dirAdd (t : BitVec 64) (entries : List DirEntry)
  | dirDrop (t : BitVec 64) (entries : List DirEntry)
  | replayEnd (t : BitVec 64) (count : Word)
  | fetchwaitExpiry (t : BitVec 64) (tag : BitVec 24)
  | splitOpen (t : BitVec 64) (peer : BitVec 6) (m : SplitOpenMsg)
  | splitOpened (t : BitVec 64) (peer : BitVec 6) (reqid : BitVec 64) (seat gen : BitVec 16) (self : BitVec 5)
      (refused : Bool) (hits : BitVec 18)
  | splitClose (t : BitVec 64) (peer : BitVec 6) (seat gen : BitVec 16) (reason : BitVec 8)
  | splitPause (t : BitVec 64) (peer : BitVec 6) (seat gen : BitVec 16)
  | splitResume (t : BitVec 64) (peer : BitVec 6) (seat gen : BitVec 16)
  | jointOffer (t : BitVec 64) (peer : BitVec 6) (el : BitVec 48) (seat gen : BitVec 16) (rows : BitVec 4)
  | jointBind (t : BitVec 64) (peer : BitVec 6) (el : BitVec 48) (seat gen : BitVec 16) (refused : Bool) (ef : BitVec 48)
  | jointGo (t : BitVec 64) (peer : BitVec 6) (el : BitVec 48) (seat gen : BitVec 16) (liveRows : BitVec 4)
      (firstPos : BitVec 24) (toks : List (BitVec 20))
  | query (t : BitVec 64) (peer : BitVec 6) (el : BitVec 48) (layer : BitVec 12) (rows : BitVec 4 × Payload)
      (seat gen : BitVec 16)
  | partialMsg (t : BitVec 64) (peer : BitVec 6) (el : BitVec 48) (layer : BitVec 12) (seat gen : BitVec 16)
      (self : BitVec 5 × Payload)
  | clusterExchangeOut (t : BitVec 64) (isQuery : Bool) (seat gen : BitVec 16) (el : BitVec 48) (layer : BitVec 12)
      (rows : BitVec 4) (bytes : BitVec 40 × List Word)
  | lease (t : BitVec 64) (peer : BitVec 6) (el : BitVec 48) (len : BitVec 8) (msgs : BitVec 16) (beats : BitVec 40)
  | peerwaitLeadExpiry (t : BitVec 64) (seat : BitVec 16)
  | peerwaitFollowerExpiry (t : BitVec 64) (seat : BitVec 16)
  | leaseIdleExpiry (t : BitVec 64) (peer : BitVec 6)
  | objFetch (t : BitVec 64) (peer : BitVec 6) (tag : BitVec 24) (handle : Word) (bytes : BitVec 32)
  | objData (t : BitVec 64) (p : Port) (tag : BitVec 24) (status : BitVec 4)
  | secwaitExpiry (t : BitVec 64) (tag : BitVec 24)
  | tfetch (t : BitVec 64)
  | tdone (t : BitVec 64) (tag : BitVec 24) (status : BitVec 4) (badAddr : Word)
  | terr (t : BitVec 64) (addr : Word)
  | tstatus (t : BitVec 64) (flashUp hbmUp : Bool)
  | candList (t : BitVec 64) (m : CandMsg)
  | refillRoomFreed (t : BitVec 64) (lane : BitVec 5)
  | drafts (t : BitVec 64) (m : DraftsMsg)
  | epochDone (t : BitVec 64) (epoch : BitVec 48) (abandoned : Bool) (ahead : BitVec 64) (recs : List OpsRec)
  | layerDone (t : BitVec 64) (layer : BitVec 12)
  | composeBegin (t : BitVec 64)
  | idleComposeStart (t : BitVec 64)
  | dealHandOff (t : BitVec 64)
  | dealComplete (t : BitVec 64)
  | launch (t : BitVec 64)
  | layerRelease (t : BitVec 64)
  | stopBoundary (t : BitVec 64) (epoch : BitVec 48)
  | stopImmediate (t : BitVec 64)
  | stopGo (t : BitVec 64)
  | blockHashDone (t : BitVec 64) (seat : BitVec 16)
  | indexProbeDone (t : BitVec 64) (seat : BitVec 16)
  | pkvRegister
  | pkvWithdraw
  | pkvRetirePop
  | modRegister (fields : ModelFields) (descs : List Desc)
  | modRegisterDone (t : BitVec 64)
  | modWithdraw
  | modHotload (t : BitVec 64)
  | modReobj (fix : Option Desc)
  | modRetirePop
  | gateRequest (t : BitVec 64) (g : Gate) (r : BitVec 4) (path : BitVec 1) (tag : BitVec 24) (moved : BitVec 32)
  | gateRequestDrop (t : BitVec 64) (g : Gate) (r : BitVec 4) (path : BitVec 1) (moved : BitVec 32) (lapsed : Bool)
  | gateBurstLimit (t : BitVec 64) (g : Gate) (path : BitVec 1)
  | gateWindowEdge (t : BitVec 64) (g : Gate) (moved0 moved1 : BitVec 32)
  | gateWatchdog (t : BitVec 64) (g : Gate) (path : BitVec 1) (moved : BitVec 32)
  | gateRevoke (t : BitVec 64) (g : Gate) (moved0 moved1 : BitVec 32)
  | windowEdge (t : BitVec 64)
  | scrubTick (t : BitVec 64) (found : Ecc)
  | lockAcquire (t : BitVec 64)
  | lockRelease (t : BitVec 64)
  | lockExpiry (t : BitVec 64)
  | bootBedrocknext
  | bootClear
  | obsSnapnow
  | obsSnap
  | obsClear
  | obsClearkeep
  | trcArm
  | trcFire (t : BitVec 64)
  | opsQueueRoom (t : BitVec 64)
  | tenantDataWrite (i : BitVec 2) (v : Word)
  | slotDataWrite (v : Word)
  | splitDataWrite (v : Word)
  | digDataWrite (v : Word)
  | registerWrite (t : BitVec 64) (off : BitVec 16) (v : Word)
  | traceStagingDrain
  | residentBlockVerified (t : BitVec 64) (seat : BitVec 16)
  | fabricEgressCredit (t : BitVec 64) (group : BitVec 6) (units : BitVec 32)
  deriving DecidableEq, Repr

end Sys2Proof
end

