-- ==== Sys2Proof/Config.lean ====
section
/-! DEFINITION. What the spec leaves to the part or leaves open: constants without a body, so that no proof can rest on a
value of them (log entries 1 and 4). -/
namespace Sys2Proof.Config

/-- A free value: the `n`-th value the spec leaves open. `State.free` says how many have been drawn (log entry 1). -/
opaque freeNat : Nat → Nat

/-- k0 of the deployment key held in mask ROM, used under factory defaults (R202, R269; log entry 4). -/
opaque romHashKey0 : Word

/-- k1 of the deployment key held in mask ROM, used under factory defaults (R202, R269; log entry 4). -/
opaque romHashKey1 : Word

end Sys2Proof.Config
end

