-- ==== Sys2Proof/Machine/Regs.lean ====
section
/-! DEFINITION. The register map of R324, field by field: for each register its offset, and for each field its bits, its
access code (R7) and its value at start, as the register tables of R38, R64 to R66, R95, R121, R145, R167, R202, R219, R237,
R262, R282, R283, R299, R300, R319 and R320 give them. Values a table gives in words (image, per start, default table) are
set by `regDefault` in Machine/Ops.lean or by the start commands. -/
namespace Sys2Proof.Machine

/-- The access codes of R7. -/
inductive Acc where
  | RO | RW | RL | RD | W1C | WO
  deriving DecidableEq, Repr

/-- A register field: the register's offset and the field's bits. -/
structure Fld where
  off : Nat
  hi  : Nat
  lo  : Nat
  deriving DecidableEq, Repr

/-- A field with its access code and its value at start. -/
structure FldDef where
  fld   : Fld
  acc   : Acc
  start : Nat
  deriving DecidableEq, Repr

/-- A register with the rule that gives its fields. -/
structure RegDef where
  name   : String
  off    : Nat
  rule   : Nat
  fields : List FldDef
  deriving DecidableEq, Repr

namespace F

def STAT_LEDGER_RETIRED : Fld := ⟨0x180, 63, 51⟩
def STAT_LEDGER_PAUSED : Fld := ⟨0x180, 50, 34⟩
def STAT_LEDGER_DEALT : Fld := ⟨0x180, 33, 17⟩
def STAT_LEDGER_FREE : Fld := ⟨0x180, 16, 0⟩
def STAT_LEDGERECC_LASTSEAT : Fld := ⟨0x188, 63, 48⟩
def STAT_LEDGERECC_LASTWORD : Fld := ⟨0x188, 47, 43⟩
def STAT_LEDGERECC_CECOUNT : Fld := ⟨0x188, 31, 16⟩
def STAT_LEDGERECC_LEAK : Fld := ⟨0x188, 2, 2⟩
def STAT_LEDGERECC_UE : Fld := ⟨0x188, 1, 1⟩
def STAT_LEDGERECC_CE : Fld := ⟨0x188, 0, 0⟩
def ADM_CTRL_OPENCREDIT : Fld := ⟨0x800, 10, 8⟩
def ADM_CTRL_TUNEFREEZE : Fld := ⟨0x800, 7, 7⟩
def ADM_CTRL_SHIPLOAD : Fld := ⟨0x800, 6, 6⟩
def ADM_CTRL_SHIPEN : Fld := ⟨0x800, 5, 5⟩
def ADM_CTRL_DROPEN : Fld := ⟨0x800, 4, 4⟩
def ADM_CTRL_PAUSEEN : Fld := ⟨0x800, 3, 3⟩
def ADM_CTRL_PREDEN : Fld := ⟨0x800, 2, 2⟩
def ADM_CTRL_OPEN : Fld := ⟨0x800, 0, 0⟩
def ADM_STATUS_DEALSOBS : Fld := ⟨0x808, 43, 33⟩
def ADM_STATUS_COLD : Fld := ⟨0x808, 32, 32⟩
def ADM_STATUS_BOUNDARY : Fld := ⟨0x808, 3, 3⟩
def ADM_STATUS_UNDECIDED : Fld := ⟨0x808, 2, 0⟩
def ADM_WINDOW_WINNUM : Fld := ⟨0x810, 63, 32⟩
def ADM_WINDOW_WINLEN : Fld := ⟨0x810, 31, 0⟩
def ADM_SHIP_THRESH : Fld := ⟨0x818, 47, 24⟩
def ADM_SHIP_LOADMIN : Fld := ⟨0x818, 23, 0⟩
def ADM_RETRY_NOSEAT : Fld := ⟨0x820, 63, 48⟩
def ADM_RETRY_PREDMULT : Fld := ⟨0x820, 47, 40⟩
def ADM_RETRY_RETRYMIN : Fld := ⟨0x820, 39, 24⟩
def ADM_RETRY_MODELRETRY : Fld := ⟨0x820, 23, 8⟩
def ADM_TUNE_GAINSHIFT : Fld := ⟨0x828, 63, 60⟩
def ADM_TUNE_MISSTOL : Fld := ⟨0x828, 55, 48⟩
def ADM_TUNE_RESUMEFRAC : Fld := ⟨0x828, 47, 40⟩
def ADM_TUNE_PAUSEMAX : Fld := ⟨0x828, 39, 24⟩
def ADM_TUNE_SPILLAFTER : Fld := ⟨0x828, 23, 8⟩
def ADM_TUNE_CHUNKSTEP : Fld := ⟨0x828, 7, 0⟩
def ADM_PRIOR0_BASE : Fld := ⟨0x830, 63, 32⟩
def ADM_PRIOR0_ROWCOST : Fld := ⟨0x830, 31, 16⟩
def ADM_PRIOR0_CHUNKCOST : Fld := ⟨0x830, 15, 0⟩
def ADM_EST0_BASE : Fld := ⟨0x840, 63, 32⟩
def ADM_EST0_ROWCOST : Fld := ⟨0x840, 31, 16⟩
def ADM_EST0_CHUNKCOST : Fld := ⟨0x840, 15, 0⟩
def ADM_PRIOR1_TPDPRIOR : Fld := ⟨0x838, 63, 48⟩
def ADM_PRIOR1_HITPRIOR : Fld := ⟨0x838, 47, 32⟩
def ADM_PRIOR1_POOLBASE : Fld := ⟨0x838, 31, 16⟩
def ADM_PRIOR1_POOLKTOK : Fld := ⟨0x838, 15, 0⟩
def ADM_EST1_POOLBASE : Fld := ⟨0x848, 31, 16⟩
def ADM_EST1_POOLKTOK : Fld := ⟨0x848, 15, 0⟩
def ADM_CLASS_TIME_TTFT (c : Nat) : Fld := ⟨0x880 + 0x20 * c + 0x0, 63, 32⟩
def ADM_CLASS_TIME_TPOT (c : Nat) : Fld := ⟨0x880 + 0x20 * c + 0x0, 31, 0⟩
def ADM_CLASS_POLICY_PAUSABLE (c : Nat) : Fld := ⟨0x880 + 0x20 * c + 0x8, 63, 63⟩
def ADM_CLASS_POLICY_EXHAUST (c : Nat) : Fld := ⟨0x880 + 0x20 * c + 0x8, 62, 61⟩
def ADM_CLASS_POLICY_DROP (c : Nat) : Fld := ⟨0x880 + 0x20 * c + 0x8, 60, 60⟩
def ADM_CLASS_POLICY_DROPGRACE (c : Nat) : Fld := ⟨0x880 + 0x20 * c + 0x8, 59, 44⟩
def ADM_CLASS_POLICY_RESVTOK (c : Nat) : Fld := ⟨0x880 + 0x20 * c + 0x8, 43, 28⟩
def ADM_CLASS_POLICY_BUDGETWAIT (c : Nat) : Fld := ⟨0x880 + 0x20 * c + 0x8, 27, 20⟩
def ADM_CLASS_POLICY_CHUNKDEF (c : Nat) : Fld := ⟨0x880 + 0x20 * c + 0x8, 15, 0⟩
def ADM_CLASS_LIMIT_CHUNKMIN (c : Nat) : Fld := ⟨0x880 + 0x20 * c + 0x10, 63, 53⟩
def ADM_CLASS_LIMIT_CHUNKMAX (c : Nat) : Fld := ⟨0x880 + 0x20 * c + 0x10, 52, 42⟩
def ADM_CLASS_LIMIT_LIVE (c : Nat) : Fld := ⟨0x880 + 0x20 * c + 0x10, 33, 17⟩
def ADM_CLASS_LIMIT_MAXSEATS (c : Nat) : Fld := ⟨0x880 + 0x20 * c + 0x10, 16, 0⟩
def ADM_CLASS_STAT_ATTAINTTFT (c : Nat) : Fld := ⟨0x880 + 0x20 * c + 0x18, 63, 48⟩
def ADM_CLASS_STAT_ATTAINTPOT (c : Nat) : Fld := ⟨0x880 + 0x20 * c + 0x18, 47, 32⟩
def ADM_CLASS_STAT_TPD (c : Nat) : Fld := ⟨0x880 + 0x20 * c + 0x18, 31, 16⟩
def ADM_TSEL_TENANT : Fld := ⟨0x980, 11, 0⟩
def DEAL_CTRL_FOLLOWON : Fld := ⟨0x1000, 3, 3⟩
def DEAL_CTRL_SUITEN : Fld := ⟨0x1000, 2, 2⟩
def DEAL_CTRL_CHUNKEN : Fld := ⟨0x1000, 1, 1⟩
def DEAL_CTRL_ENABLE : Fld := ⟨0x1000, 0, 0⟩
def DEAL_STATUS_NEXTEPOCH : Fld := ⟨0x1008, 63, 16⟩
def DEAL_STATUS_LATE : Fld := ⟨0x1008, 4, 4⟩
def DEAL_STATUS_NOTABLE : Fld := ⟨0x1008, 3, 3⟩
def DEAL_STATUS_HANDED : Fld := ⟨0x1008, 2, 2⟩
def DEAL_STATUS_COMPOSING : Fld := ⟨0x1008, 1, 1⟩
def DEAL_STATUS_BOUNDARY : Fld := ⟨0x1008, 0, 0⟩
def DEAL_TIMING_SEALLEAD : Fld := ⟨0x1010, 63, 48⟩
def DEAL_TIMING_MODELWAIT : Fld := ⟨0x1010, 47, 32⟩
def DEAL_LIMITS_MAXSEATS : Fld := ⟨0x1018, 63, 49⟩
def DEAL_LIMITS_MAXROWS : Fld := ⟨0x1018, 48, 31⟩
def DEAL_LIMITS_MAXCHUNK : Fld := ⟨0x1018, 30, 20⟩
def DEAL_SUITCFG_SUITMIN : Fld := ⟨0x1020, 63, 48⟩
def DEAL_SUITCFG_SUITMINBLK : Fld := ⟨0x1020, 47, 32⟩
def DEAL_SLOTCFG_ACTIVE : Fld := ⟨0x1028, 1, 1⟩
def DEAL_SLOTCFG_SWAPREQ : Fld := ⟨0x1028, 0, 0⟩
def DEAL_SLOTSEL_READACTIVE : Fld := ⟨0x1030, 8, 8⟩
def DEAL_SLOTSEL_SLOT : Fld := ⟨0x1030, 7, 0⟩
def DEAL_LAST0_SEATS : Fld := ⟨0x1040, 63, 49⟩
def DEAL_LAST0_ROWS : Fld := ⟨0x1040, 48, 31⟩
def DEAL_LAST0_CHUNKTOK : Fld := ⟨0x1040, 30, 14⟩
def DEAL_LAST0_SUITS : Fld := ⟨0x1040, 13, 0⟩
def DEAL_LAST1_KITTY : Fld := ⟨0x1048, 63, 47⟩
def DEAL_LAST1_CBUDGET : Fld := ⟨0x1048, 46, 36⟩
def DEAL_LAST1_SLACKROWS : Fld := ⟨0x1048, 35, 18⟩
def DEAL_LAST1_PASSED : Fld := ⟨0x1048, 17, 1⟩
def DEAL_LAST2_COMPCYC : Fld := ⟨0x1050, 63, 48⟩
def DEAL_LAST2_PREDNS : Fld := ⟨0x1050, 47, 16⟩
def HER_CTRL_LAUNCHEN : Fld := ⟨0x1800, 0, 0⟩
def HER_STATUS_RUNEPOCH : Fld := ⟨0x1808, 63, 16⟩
def HER_STATUS_STOPPED : Fld := ⟨0x1808, 7, 7⟩
def HER_STATUS_STOPPING : Fld := ⟨0x1808, 6, 6⟩
def HER_STATUS_STOPMODE : Fld := ⟨0x1808, 5, 4⟩
def HER_STATUS_PEERHOLD : Fld := ⟨0x1808, 3, 3⟩
def HER_STATUS_WEIGHTHOLD : Fld := ⟨0x1808, 2, 2⟩
def HER_STATUS_BOUNDARY : Fld := ⟨0x1808, 1, 1⟩
def HER_STATUS_RUNNING : Fld := ⟨0x1808, 0, 0⟩
def HER_NEXTEPOCH_EPOCH : Fld := ⟨0x1810, 63, 16⟩
def HER_NODE_NODEID : Fld := ⟨0x1818, 63, 48⟩
def HER_GROUPMASK_MASK : Fld := ⟨0x1820, 63, 0⟩
def HER_PEER_PEERWAIT : Fld := ⟨0x1828, 63, 32⟩
def HER_PEER_LEASELEN : Fld := ⟨0x1828, 31, 24⟩
def HER_STOPCTL_STOPEPOCH : Fld := ⟨0x1830, 63, 16⟩
def HER_STOPCTL_GO : Fld := ⟨0x1830, 3, 3⟩
def HER_STOPCTL_IMMEDIATE : Fld := ⟨0x1830, 2, 2⟩
def HER_STOPCTL_BOUNDARY : Fld := ⟨0x1830, 1, 1⟩
def HER_REC_LEDGER_EPOCH : Fld := ⟨0x1838, 63, 16⟩
def HER_REC_SIEVE_EPOCH : Fld := ⟨0x1840, 63, 16⟩
def HER_REC_CLUSTER_EPOCH : Fld := ⟨0x1848, 63, 16⟩
def HER_REC_DEALER_EPOCH : Fld := ⟨0x1860, 63, 16⟩
def HER_REC_AHEAD_GROUPS : Fld := ⟨0x1850, 63, 0⟩
def HER_REC_LANES_LANES : Fld := ⟨0x1858, 31, 0⟩
def HER_LAYER_THROUGH : Fld := ⟨0x1868, 63, 52⟩
def HER_LAYER_HELDAT : Fld := ⟨0x1868, 51, 40⟩
def HER_LAYER_HOLDWHY : Fld := ⟨0x1868, 39, 38⟩
def HER_LAYER_PEERNODE : Fld := ⟨0x1868, 37, 22⟩
def HER_LASTSTEP_STEPT : Fld := ⟨0x1870, 63, 32⟩
def HER_LASTSTEP_HOLDT : Fld := ⟨0x1870, 31, 0⟩
def HER_SPLITSEL_WORD : Fld := ⟨0x1878, 15, 10⟩
def HER_SPLITSEL_ENTRY : Fld := ⟨0x1878, 9, 0⟩
def SIEVE_STATUS_LANES : Fld := ⟨0x2000, 63, 58⟩
def SIEVE_STATUS_BUSY : Fld := ⟨0x2000, 57, 26⟩
def SIEVE_STATUS_OVERFLOW : Fld := ⟨0x2000, 25, 20⟩
def SIEVE_LANEMAP_LANES : Fld := ⟨0x2008, 31, 0⟩
def SIEVE_CANDCFG_FIRST : Fld := ⟨0x2010, 63, 55⟩
def SIEVE_CANDCFG_REFILLN : Fld := ⟨0x2010, 54, 46⟩
def SIEVE_CANDCFG_MAXROUND : Fld := ⟨0x2010, 45, 34⟩
def SIEVE_OVFBASE_BASE : Fld := ⟨0x2018, 63, 32⟩
def SIEVE_FLAGS_STRAY : Fld := ⟨0x2020, 7, 7⟩
def SIEVE_FLAGS_ROOMWAIT : Fld := ⟨0x2020, 6, 6⟩
def SIEVE_FLAGS_LIMIT : Fld := ⟨0x2020, 5, 5⟩
def SIEVE_FLAGS_EMPTY : Fld := ⟨0x2020, 4, 4⟩
def SIEVE_FLAGS_SORTERR : Fld := ⟨0x2020, 3, 3⟩
def SIEVE_FLAGS_DUP : Fld := ⟨0x2020, 2, 2⟩
def SIEVE_FLAGS_NANIN : Fld := ⟨0x2020, 1, 1⟩
def SIEVE_FLAGS_DEGEN : Fld := ⟨0x2020, 0, 0⟩
def SIEVE_ERRROW_EPOCH : Fld := ⟨0x2028, 63, 16⟩
def SIEVE_ERRROW_ROW : Fld := ⟨0x2028, 15, 12⟩
def SIEVE_ERRROW_KIND : Fld := ⟨0x2028, 11, 8⟩
def SIEVE_ERRSEAT_SEAT : Fld := ⟨0x2030, 63, 48⟩
def SIEVE_ERRSEAT_SEATGEN : Fld := ⟨0x2030, 47, 32⟩
def SIEVE_LASTDEAL_ROWS : Fld := ⟨0x2038, 63, 46⟩
def SIEVE_LASTDEAL_REFILLED : Fld := ⟨0x2038, 45, 28⟩
def SIEVE_LASTDEAL_MAXROUND : Fld := ⟨0x2038, 27, 16⟩
def SIEVE_LASTDEAL_TAIL : Fld := ⟨0x2038, 15, 0⟩
def SIEVE_SAMPCFG_NORMAL : Fld := ⟨0x2040, 63, 62⟩
def SIEVE_SAMPCFG_ROUNDEN : Fld := ⟨0x2040, 61, 61⟩
def SIEVE_DRAFTCFG_W : Fld := ⟨0x2048, 63, 52⟩
def SIEVE_DRAFTCFG_RAISE : Fld := ⟨0x2048, 51, 44⟩
def SIEVE_DRAFTCFG_LOWER : Fld := ⟨0x2048, 43, 36⟩
def SIEVE_DRAFTCFG_PROBE : Fld := ⟨0x2048, 35, 24⟩
def SIEVE_PCTCFG_BASE : Fld := ⟨0x2050, 63, 32⟩
def SIEVE_PCTCFG_CAP : Fld := ⟨0x2050, 31, 16⟩
def SIEVE_SAMPFLAGS_EMPTYDRAW : Fld := ⟨0x2058, 3, 3⟩
def SIEVE_SAMPFLAGS_SHORTDRAFT : Fld := ⟨0x2058, 2, 2⟩
def SIEVE_SAMPFLAGS_PCTFULL : Fld := ⟨0x2058, 1, 1⟩
def SIEVE_SAMPFLAGS_APPROX : Fld := ⟨0x2058, 0, 0⟩
def SIEVE_TRICKS_SEATS : Fld := ⟨0x2060, 63, 46⟩
def SIEVE_TRICKS_PROPOSED : Fld := ⟨0x2060, 45, 28⟩
def SIEVE_TRICKS_ACCEPTED : Fld := ⟨0x2060, 27, 10⟩
def SIEVE_EMITTED_TOKENS : Fld := ⟨0x2068, 63, 46⟩
def SIEVE_EMITTED_STOPS : Fld := ⟨0x2068, 45, 28⟩
def SIEVE_EMITTED_APPROXROWS : Fld := ⟨0x2068, 27, 10⟩
def SIEVE_STOPBASE_BASE : Fld := ⟨0x2070, 63, 32⟩
def PKV_CTRL_ROUNDHIT : Fld := ⟨0x2800, 6, 6⟩
def PKV_CTRL_TENANTSCOPE : Fld := ⟨0x2800, 5, 5⟩
def PKV_CTRL_PUBLISH : Fld := ⟨0x2800, 4, 4⟩
def PKV_CTRL_INDEXOWN : Fld := ⟨0x2800, 3, 3⟩
def PKV_CTRL_LOOKUP : Fld := ⟨0x2800, 2, 2⟩
def PKV_STATUS_LOWFREE : Fld := ⟨0x2808, 2, 2⟩
def PKV_STATUS_REPLAY : Fld := ⟨0x2808, 1, 1⟩
def PKV_STATUS_CLEARED : Fld := ⟨0x2808, 0, 0⟩
def PKV_HASHKEY0_KEY : Fld := ⟨0x2810, 63, 0⟩
def PKV_HASHKEY1_KEY : Fld := ⟨0x2818, 63, 0⟩
def PKV_INDEXBASE_BASE : Fld := ⟨0x2820, 63, 32⟩
def PKV_RECBASE_BASE : Fld := ⟨0x2828, 63, 32⟩
def PKV_OBJBASE_BASE : Fld := ⟨0x2878, 63, 32⟩
def PKV_KVCFG_BLOCKS : Fld := ⟨0x2830, 63, 39⟩
def PKV_KVCFG_BLOCKBYTES : Fld := ⟨0x2830, 38, 23⟩
def PKV_KVBASE_ADDR : Fld := ⟨0x2838, 63, 0⟩
def PKV_FREE_FREE : Fld := ⟨0x2840, 63, 39⟩
def PKV_FREE_CACHED : Fld := ⟨0x2840, 38, 14⟩
def PKV_LOWMARK_LOWMARK : Fld := ⟨0x2848, 63, 39⟩
def PKV_PROMPTCFG_BASE : Fld := ⟨0x2850, 63, 32⟩
def PKV_PROMPTCFG_PAGES : Fld := ⟨0x2850, 31, 8⟩
def PKV_PROMPTFREE_FREEPAGES : Fld := ⟨0x2858, 63, 40⟩
def PKV_WAIT_FETCHWAIT : Fld := ⟨0x2860, 63, 32⟩
def PKV_WAIT_SHIPWAIT : Fld := ⟨0x2860, 31, 0⟩
def PKV_FETCHCFG_DEPTH : Fld := ⟨0x2868, 63, 52⟩
def PKV_NAME_ERA : Fld := ⟨0x2870, 63, 48⟩
def PKV_NAME_SERIAL : Fld := ⟨0x2870, 47, 16⟩
def PKV_OBJSEL_SLOT : Fld := ⟨0x2880, 15, 14⟩
def PKV_OBJSEL_KIND : Fld := ⟨0x2880, 13, 13⟩
def PKV_OBJSEL_ID : Fld := ⟨0x2880, 11, 0⟩
def PKV_OBJDATA0_VERSION : Fld := ⟨0x2888, 63, 48⟩
def PKV_OBJDATA0_MODEL : Fld := ⟨0x2888, 47, 42⟩
def PKV_OBJDATA0_MODELVER : Fld := ⟨0x2888, 41, 26⟩
def PKV_OBJDATA0_LPLEN : Fld := ⟨0x2888, 25, 13⟩
def PKV_OBJCMD_WITHDRAW : Fld := ⟨0x28a0, 1, 1⟩
def PKV_OBJCMD_REGISTER : Fld := ⟨0x28a0, 0, 0⟩
def PKV_OBJSTAT_RESULT : Fld := ⟨0x28a8, 63, 60⟩
def PKV_OBJSTAT_NEWSLOT : Fld := ⟨0x28a8, 59, 58⟩
def PKV_OBJSTAT_CURSLOT : Fld := ⟨0x28a8, 57, 56⟩
def PKV_OBJSTAT_HASCUR : Fld := ⟨0x28a8, 55, 55⟩
def PKV_OBJSTAT_LIVE : Fld := ⟨0x28a8, 54, 51⟩
def PKV_OBJSTAT_PINS : Fld := ⟨0x28a8, 50, 34⟩
def PKV_OBJSTAT_SLOTVER : Fld := ⟨0x28a8, 33, 18⟩
def PKV_RETIRE_VALID : Fld := ⟨0x28b0, 63, 63⟩
def PKV_RETIRE_KIND : Fld := ⟨0x28b0, 62, 62⟩
def PKV_RETIRE_ID : Fld := ⟨0x28b0, 61, 50⟩
def PKV_RETIRE_SLOT : Fld := ⟨0x28b0, 49, 48⟩
def PKV_RETIRE_VERSION : Fld := ⟨0x28b0, 47, 32⟩
def PKV_RETIREACK_POP : Fld := ⟨0x28b8, 0, 0⟩
def PKV_FLAGS_SPILLFAIL : Fld := ⟨0x28c0, 8, 8⟩
def PKV_FLAGS_MISMATCH : Fld := ⟨0x28c0, 7, 7⟩
def PKV_FLAGS_FETCHFAIL : Fld := ⟨0x28c0, 6, 6⟩
def PKV_FLAGS_SHIPFAIL : Fld := ⟨0x28c0, 5, 5⟩
def PKV_FLAGS_INDEXDROP : Fld := ⟨0x28c0, 4, 4⟩
def PKV_FLAGS_HOTUE : Fld := ⟨0x28c0, 3, 3⟩
def PKV_FLAGS_HOTCE : Fld := ⟨0x28c0, 2, 2⟩
def PKV_FLAGS_PROMPTWAIT : Fld := ⟨0x28c0, 1, 1⟩
def PKV_FLAGS_ALLOCSHORT : Fld := ⟨0x28c0, 0, 0⟩
def PKV_LASTLOOKUP_SEAT : Fld := ⟨0x28c8, 63, 48⟩
def PKV_LASTLOOKUP_HITS : Fld := ⟨0x28c8, 47, 31⟩
def PKV_LASTLOOKUP_FETCHED : Fld := ⟨0x28c8, 30, 14⟩
def PKV_LASTLOOKUP_ENDWHY : Fld := ⟨0x28c8, 13, 11⟩
def MOD_CTRL_SECWAIT : Fld := ⟨0x3000, 63, 32⟩
def MOD_CTRL_SECONDEN : Fld := ⟨0x3000, 1, 1⟩
def MOD_CTRL_ENABLE : Fld := ⟨0x3000, 0, 0⟩
def MOD_STATUS_READYVERS : Fld := ⟨0x3008, 63, 56⟩
def MOD_STATUS_HOTUSED : Fld := ⟨0x3008, 55, 24⟩
def MOD_STATUS_FLASHUP : Fld := ⟨0x3008, 2, 2⟩
def MOD_STATUS_HBMUP : Fld := ⟨0x3008, 1, 1⟩
def MOD_STATUS_LOADING : Fld := ⟨0x3008, 0, 0⟩
def MOD_TABBASE_BASE : Fld := ⟨0x3010, 63, 32⟩
def MOD_OBJSTORE_BASE : Fld := ⟨0x3018, 63, 32⟩
def MOD_OBJSTORE_CAP : Fld := ⟨0x3018, 31, 8⟩
def MOD_STAGESIZE_BYTES : Fld := ⟨0x3028, 63, 32⟩
def MOD_CHIPCFG_BASE : Fld := ⟨0x3030, 63, 32⟩
def MOD_CHIPCFG_BYTES : Fld := ⟨0x3030, 31, 0⟩
def MOD_HOTCFG_BASE : Fld := ⟨0x3038, 63, 32⟩
def MOD_HOTCFG_BYTES : Fld := ⟨0x3038, 31, 0⟩
def MOD_GUARD_PCMASK : Fld := ⟨0x3040, 63, 32⟩
def MOD_GUARD_LLCWAYS : Fld := ⟨0x3040, 31, 28⟩
def MOD_SEL_OBJIDX : Fld := ⟨0x3048, 63, 46⟩
def MOD_SEL_MODEL : Fld := ⟨0x3048, 13, 8⟩
def MOD_SEL_SLOT : Fld := ⟨0x3048, 1, 0⟩
def MOD_CMD_HOTLOAD : Fld := ⟨0x3050, 3, 3⟩
def MOD_CMD_REOBJ : Fld := ⟨0x3050, 2, 2⟩
def MOD_CMD_WITHDRAW : Fld := ⟨0x3050, 1, 1⟩
def MOD_CMD_REGISTER : Fld := ⟨0x3050, 0, 0⟩
def MOD_STAT_RESULT : Fld := ⟨0x3058, 63, 60⟩
def MOD_STAT_CURSLOT : Fld := ⟨0x3058, 59, 58⟩
def MOD_STAT_HASCUR : Fld := ⟨0x3058, 57, 57⟩
def MOD_STAT_LIVE : Fld := ⟨0x3058, 56, 53⟩
def MOD_STAT_PINS : Fld := ⟨0x3058, 52, 36⟩
def MOD_STAT_SLOTVER : Fld := ⟨0x3058, 35, 20⟩
def MOD_RETIRE_VALID : Fld := ⟨0x3060, 63, 63⟩
def MOD_RETIRE_MODEL : Fld := ⟨0x3060, 62, 57⟩
def MOD_RETIRE_SLOT : Fld := ⟨0x3060, 56, 55⟩
def MOD_RETIRE_VERSION : Fld := ⟨0x3060, 54, 39⟩
def MOD_RETIREACK_POP : Fld := ⟨0x3068, 0, 0⟩
def MOD_POISON_MODEL : Fld := ⟨0x3070, 63, 58⟩
def MOD_POISON_SLOT : Fld := ⟨0x3070, 57, 56⟩
def MOD_POISON_OBJIDX : Fld := ⟨0x3070, 55, 38⟩
def MOD_POISON_LAYER : Fld := ⟨0x3070, 37, 26⟩
def MOD_POISON_CLOSED : Fld := ⟨0x3070, 25, 10⟩
def MOD_FLAGS_TIERDOWN : Fld := ⟨0x3078, 4, 4⟩
def MOD_FLAGS_HOTWAIT : Fld := ⟨0x3078, 3, 3⟩
def MOD_FLAGS_REFETCH : Fld := ⟨0x3078, 2, 2⟩
def MOD_FLAGS_POISON : Fld := ⟨0x3078, 1, 1⟩
def MOD_FLAGS_STAGEWAIT : Fld := ⟨0x3078, 0, 0⟩
def MOD_LASTSTEP_SWITCHT : Fld := ⟨0x3080, 63, 32⟩
def MOD_LASTSTEP_FLASHREAD : Fld := ⟨0x3080, 31, 0⟩
def GATE_CTRL_REVOKE (g : Nat) : Fld := ⟨0x3800 + 0x200 * g + 0x0, 3, 3⟩
def GATE_CTRL_PREEMPT (g : Nat) : Fld := ⟨0x3800 + 0x200 * g + 0x0, 2, 2⟩
def GATE_CTRL_HFREEZE (g : Nat) : Fld := ⟨0x3800 + 0x200 * g + 0x0, 1, 1⟩
def GATE_CTRL_FREEZE (g : Nat) : Fld := ⟨0x3800 + 0x200 * g + 0x0, 0, 0⟩
def GATE_CFG_WINDOW (g : Nat) : Fld := ⟨0x3800 + 0x200 * g + 0x8, 63, 48⟩
def GATE_CFG_ROTN (g : Nat) : Fld := ⟨0x3800 + 0x200 * g + 0x8, 47, 41⟩
def GATE_CFG_BURST (g : Nat) : Fld := ⟨0x3800 + 0x200 * g + 0x8, 40, 30⟩
def GATE_STATUS_OWNER0 (g : Nat) : Fld := ⟨0x3800 + 0x200 * g + 0x10, 63, 60⟩
def GATE_STATUS_OWNED0 (g : Nat) : Fld := ⟨0x3800 + 0x200 * g + 0x10, 59, 59⟩
def GATE_STATUS_OWNER1 (g : Nat) : Fld := ⟨0x3800 + 0x200 * g + 0x10, 58, 55⟩
def GATE_STATUS_OWNED1 (g : Nat) : Fld := ⟨0x3800 + 0x200 * g + 0x10, 54, 54⟩
def GATE_STATUS_REQUESTING (g : Nat) : Fld := ⟨0x3800 + 0x200 * g + 0x10, 53, 38⟩
def GATE_STATUS_ROTPOS0 (g : Nat) : Fld := ⟨0x3800 + 0x200 * g + 0x10, 37, 31⟩
def GATE_STATUS_ROTPOS1 (g : Nat) : Fld := ⟨0x3800 + 0x200 * g + 0x10, 30, 24⟩
def GATE_FLAGS_FAILED (g : Nat) : Fld := ⟨0x3800 + 0x200 * g + 0x18, 63, 48⟩
def GATE_FLAGS_REVOKED (g : Nat) : Fld := ⟨0x3800 + 0x200 * g + 0x18, 47, 32⟩
def GATE_FLAGS_FROZENWAIT (g : Nat) : Fld := ⟨0x3800 + 0x200 * g + 0x18, 1, 1⟩
def GATE_FLAGS_WDOG (g : Nat) : Fld := ⟨0x3800 + 0x200 * g + 0x18, 0, 0⟩
def GATE_WDOG_REQ (g : Nat) : Fld := ⟨0x3800 + 0x200 * g + 0x20, 63, 60⟩
def GATE_WDOG_PATH (g : Nat) : Fld := ⟨0x3800 + 0x200 * g + 0x20, 59, 59⟩
def GATE_WDOG_PROGRESS (g : Nat) : Fld := ⟨0x3800 + 0x200 * g + 0x20, 58, 27⟩
def GATE_SHARE_SHARE (g r : Nat) : Fld := ⟨0x3800 + 0x200 * g + 0x80 + 8 * r, 63, 48⟩
def GATE_SHARE_PRIO (g r : Nat) : Fld := ⟨0x3800 + 0x200 * g + 0x80 + 8 * r, 47, 46⟩
def GATE_SHARE_ENABLE (g r : Nat) : Fld := ⟨0x3800 + 0x200 * g + 0x80 + 8 * r, 45, 45⟩
def GATE_REQ_COUNTER (g r : Nat) : Fld := ⟨0x3800 + 0x200 * g + 0x100 + 8 * r, 63, 48⟩
def GATE_REQ_PROGRESS (g r : Nat) : Fld := ⟨0x3800 + 0x200 * g + 0x100 + 8 * r, 47, 16⟩
def GATE_REQ_WAIT (g r : Nat) : Fld := ⟨0x3800 + 0x200 * g + 0x100 + 8 * r, 15, 0⟩
def PORT_CTRL_DROP (p : Nat) : Fld := ⟨0x4000 + 0x100 * p + 0x0, 1, 1⟩
def PORT_CTRL_OPEN (p : Nat) : Fld := ⟨0x4000 + 0x100 * p + 0x0, 0, 0⟩
def PORT_STATUS_PARTNERID (p : Nat) : Fld := ⟨0x4000 + 0x100 * p + 0x8, 63, 48⟩
def PORT_STATUS_PARTNERERA (p : Nat) : Fld := ⟨0x4000 + 0x100 * p + 0x8, 47, 32⟩
def PORT_STATUS_SESSIONS (p : Nat) : Fld := ⟨0x4000 + 0x100 * p + 0x8, 31, 16⟩
def PORT_STATUS_PEERS (p : Nat) : Fld := ⟨0x4000 + 0x100 * p + 0x8, 15, 8⟩
def PORT_STATUS_SESSION (p : Nat) : Fld := ⟨0x4000 + 0x100 * p + 0x8, 1, 1⟩
def PORT_STATUS_LINKUP (p : Nat) : Fld := ⟨0x4000 + 0x100 * p + 0x8, 0, 0⟩
def PORT_CFG_PHASEAT (p : Nat) : Fld := ⟨0x4000 + 0x100 * p + 0x10, 63, 48⟩
def PORT_CREDIT_CLASS0 (p : Nat) : Fld := ⟨0x4000 + 0x100 * p + 0x18, 63, 48⟩
def PORT_CREDIT_CLASS1 (p : Nat) : Fld := ⟨0x4000 + 0x100 * p + 0x18, 47, 32⟩
def PORT_CREDIT_CLASS2 (p : Nat) : Fld := ⟨0x4000 + 0x100 * p + 0x18, 31, 16⟩
def PORT_PAYCRED_BEATS (p : Nat) : Fld := ⟨0x4000 + 0x100 * p + 0x20, 63, 24⟩
def PORT_FLAGS_SESSIONLOST (p : Nat) : Fld := ⟨0x4000 + 0x100 * p + 0x28, 6, 6⟩
def PORT_FLAGS_NOTREADY (p : Nat) : Fld := ⟨0x4000 + 0x100 * p + 0x28, 5, 5⟩
def PORT_FLAGS_OVERRUN (p : Nat) : Fld := ⟨0x4000 + 0x100 * p + 0x28, 4, 4⟩
def PORT_FLAGS_BADOP (p : Nat) : Fld := ⟨0x4000 + 0x100 * p + 0x28, 3, 3⟩
def PORT_FLAGS_BADLEN (p : Nat) : Fld := ⟨0x4000 + 0x100 * p + 0x28, 2, 2⟩
def PORT_FLAGS_STRAY (p : Nat) : Fld := ⟨0x4000 + 0x100 * p + 0x28, 1, 1⟩
def PORT_FLAGS_OUTWAIT (p : Nat) : Fld := ⟨0x4000 + 0x100 * p + 0x28, 0, 0⟩
def PORT_OUTCRED_OUT0 (p : Nat) : Fld := ⟨0x4000 + 0x100 * p + 0x30, 63, 48⟩
def PORT_OUTCRED_OUT1 (p : Nat) : Fld := ⟨0x4000 + 0x100 * p + 0x30, 47, 32⟩
def PORT_OUTCRED_OUT2 (p : Nat) : Fld := ⟨0x4000 + 0x100 * p + 0x30, 31, 16⟩
def PORTG_STREAM_POOL : Fld := ⟨0x4038, 63, 48⟩
def PORTG_STREAM_QUEUED : Fld := ⟨0x4038, 47, 32⟩
def PORTG_STREAM_PROMPTWAIT : Fld := ⟨0x4038, 31, 0⟩
def PORTN_LEASE_MSGS : Fld := ⟨0x4338, 63, 48⟩
def PORTN_LEASE_BEATS : Fld := ⟨0x4338, 47, 8⟩
def PORTN_PEERSEL_PEER : Fld := ⟨0x4340, 5, 0⟩
def PORTN_PEERSTAT_NODEID : Fld := ⟨0x4348, 63, 48⟩
def PORTN_PEERSTAT_ERA : Fld := ⟨0x4348, 47, 32⟩
def PORTN_PEERSTAT_UP : Fld := ⟨0x4348, 31, 31⟩
def START_STATUS_MODE : Fld := ⟨0x400, 63, 62⟩
def START_STATUS_REASON : Fld := ⟨0x400, 61, 56⟩
def START_STATUS_APPLIED : Fld := ⟨0x400, 55, 55⟩
def START_STATUS_DEFAULTS : Fld := ⟨0x400, 54, 54⟩
def START_STATUS_SAGREC : Fld := ⟨0x400, 53, 53⟩
def START_STATUS_SAGPRIOR : Fld := ⟨0x400, 52, 52⟩
def START_STATUS_REPLAYED : Fld := ⟨0x400, 51, 51⟩
def START_STATUS_IMGLEN : Fld := ⟨0x400, 31, 0⟩
def START_IMAGE_BUILDID : Fld := ⟨0x408, 63, 0⟩
def START_BOOT_BOOTS : Fld := ⟨0x410, 63, 60⟩
def START_BOOT_ERA : Fld := ⟨0x410, 59, 44⟩
def START_BOOT_STARTWIN : Fld := ⟨0x410, 43, 28⟩
def START_BOOT_BEDROCKNEXT : Fld := ⟨0x410, 1, 1⟩
def START_BOOT_CLEAR : Fld := ⟨0x410, 0, 0⟩
def START_TIMES_IMGDONE : Fld := ⟨0x418, 63, 48⟩
def START_TIMES_APPLIEDAT : Fld := ⟨0x418, 47, 32⟩
def START_TIMES_PORTGOPEN : Fld := ⟨0x418, 31, 16⟩
def START_TIMES_ADMITOPEN : Fld := ⟨0x418, 15, 0⟩
def PWR_CTRL_WAKE : Fld := ⟨0x7000, 1, 1⟩
def PWR_CTRL_FALLOW : Fld := ⟨0x7000, 0, 0⟩
def PWR_STATUS_STATE : Fld := ⟨0x7008, 63, 60⟩
def PWR_STATUS_SAGWARN : Fld := ⟨0x7008, 59, 59⟩
def PWR_STATUS_HELD : Fld := ⟨0x7008, 58, 48⟩
def PWR_FALLOW_WAKEHOLD : Fld := ⟨0x7010, 63, 48⟩
def PWR_FALLOW_LASTWAKE : Fld := ⟨0x7010, 47, 16⟩
def PWR_COUNTER_NOW : Fld := ⟨0x7018, 63, 0⟩
def PWR_SAG_RECSTATE : Fld := ⟨0x7020, 63, 62⟩
def PWR_SAG_NSEAT : Fld := ⟨0x7020, 61, 45⟩
def PWR_SAG_RECTIME : Fld := ⟨0x7020, 44, 24⟩
def PWR_SAG_SAGS : Fld := ⟨0x7020, 23, 16⟩
def OBS_CTRL_OPSEN : Fld := ⟨0x6000, 6, 6⟩
def OBS_CTRL_DIGEN : Fld := ⟨0x6000, 5, 5⟩
def OBS_CTRL_TRCEN : Fld := ⟨0x6000, 4, 4⟩
def OBS_CTRL_CLEARKEEP : Fld := ⟨0x6000, 3, 3⟩
def OBS_CTRL_CLEAR : Fld := ⟨0x6000, 2, 2⟩
def OBS_CTRL_SNAP : Fld := ⟨0x6000, 1, 1⟩
def OBS_CTRL_SNAPNOW : Fld := ⟨0x6000, 0, 0⟩
def OBS_STATUS_SNAPSEQ : Fld := ⟨0x6008, 63, 48⟩
def OBS_STATUS_QUEUED : Fld := ⟨0x6008, 47, 33⟩
def OBS_STATUS_MISSES : Fld := ⟨0x6008, 32, 1⟩
def OBS_STATUS_SNAPPEND : Fld := ⟨0x6008, 0, 0⟩
def TRC_CFG_PRE : Fld := ⟨0x6010, 63, 43⟩
def TRC_CFG_POST : Fld := ⟨0x6010, 42, 22⟩
def TRC_CFG_DRAINGBS : Fld := ⟨0x6010, 21, 16⟩
def TRC_CFG_MINWAIT : Fld := ⟨0x6010, 15, 0⟩
def TRC_BASE_BASE : Fld := ⟨0x6018, 63, 32⟩
def TRC_KINDMASK_KINDS : Fld := ⟨0x6020, 63, 0⟩
def TRC_TRIG_SOURCE : Fld := ⟨0x6028, 63, 62⟩
def TRC_TRIG_TRIGKIND : Fld := ⟨0x6028, 61, 56⟩
def TRC_TRIG_TRIGNS : Fld := ⟨0x6028, 55, 24⟩
def TRC_TRIG_ARM : Fld := ⟨0x6028, 1, 1⟩
def TRC_TRIG_FIRE : Fld := ⟨0x6028, 0, 0⟩
def TRC_STATUS_STATE : Fld := ⟨0x6030, 63, 62⟩
def TRC_STATUS_DRAINED : Fld := ⟨0x6030, 61, 61⟩
def TRC_STATUS_WRAPPED : Fld := ⟨0x6030, 60, 60⟩
def TRC_STATUS_PREHEAD : Fld := ⟨0x6030, 59, 39⟩
def TRC_STATUS_POSTCOUNT : Fld := ⟨0x6030, 38, 18⟩
def TRC_LOST_COUNT : Fld := ⟨0x6038, 63, 16⟩
def TRC_DROPPED_COUNT : Fld := ⟨0x6040, 63, 16⟩
def TRC_TRIGAT_AT : Fld := ⟨0x6048, 63, 0⟩
def OBS_MARK_MARKER : Fld := ⟨0x6050, 63, 48⟩
def OPS_BASE_BASE : Fld := ⟨0x6058, 63, 32⟩
def OPS_BASE_LOG2 : Fld := ⟨0x6058, 31, 27⟩
def DIG_SEL_ENTRY : Fld := ⟨0x6068, 5, 0⟩
def DIG_DATA_VALID : Fld := ⟨0x6070, 63, 63⟩
def DIG_DATA_SEAT : Fld := ⟨0x6070, 62, 47⟩
def DIG_DATA_SEATGEN : Fld := ⟨0x6070, 46, 31⟩
def STAT_ID_VENDOR : Fld := ⟨0x0, 63, 48⟩
def STAT_ID_BLOCK : Fld := ⟨0x0, 47, 32⟩
def STAT_ID_GRADE : Fld := ⟨0x0, 31, 24⟩
def STAT_ID_STEPPING : Fld := ⟨0x0, 23, 16⟩
def STAT_ID_ASPVER : Fld := ⟨0x0, 15, 8⟩
def STAT_ID_IMGFORMAT : Fld := ⟨0x0, 7, 0⟩
def STAT_SUMMARY_PWRSTATE : Fld := ⟨0x8, 63, 60⟩
def STAT_SUMMARY_MODE : Fld := ⟨0x8, 59, 58⟩
def STAT_SUMMARY_APPLIED : Fld := ⟨0x8, 57, 57⟩
def STAT_SUMMARY_ADMOPEN : Fld := ⟨0x8, 56, 56⟩
def STAT_SUMMARY_RUNNING : Fld := ⟨0x8, 55, 55⟩
def STAT_SUMMARY_STOPPED : Fld := ⟨0x8, 54, 54⟩
def STAT_SUMMARY_COLD : Fld := ⟨0x8, 53, 53⟩
def STAT_SUMMARY_SAGWARN : Fld := ⟨0x8, 52, 52⟩
def STAT_SUMMARY_PORTSOPEN : Fld := ⟨0x8, 51, 45⟩
def STAT_ERRSUM_PORTS : Fld := ⟨0x10, 15, 9⟩
def STAT_ERRSUM_GATES : Fld := ⟨0x10, 8, 6⟩
def STAT_ERRSUM_MOD : Fld := ⟨0x10, 5, 5⟩
def STAT_ERRSUM_PKV : Fld := ⟨0x10, 4, 4⟩
def STAT_ERRSUM_SAMP : Fld := ⟨0x10, 3, 3⟩
def STAT_ERRSUM_SIEVE : Fld := ⟨0x10, 2, 2⟩
def STAT_ERRSUM_LATE : Fld := ⟨0x10, 1, 1⟩
def STAT_ERRSUM_LEDGER : Fld := ⟨0x10, 0, 0⟩
def STAT_WINDOW_HOLDS : Fld := ⟨0x18, 63, 32⟩
def STAT_WINDOW_EXPIRED : Fld := ⟨0x18, 3, 3⟩
def STAT_WINDOW_LOCKED : Fld := ⟨0x18, 2, 2⟩
def STAT_WINDOW_RELEASE : Fld := ⟨0x18, 1, 1⟩
def STAT_WINDOW_ACQUIRE : Fld := ⟨0x18, 0, 0⟩
def PKV_OBJDATA1_ADDR : Fld := ⟨0x2890, 63, 0⟩
def PKV_OBJDATA2_BYTES : Fld := ⟨0x2898, 63, 32⟩
def MOD_STAGEBASE_ADDR : Fld := ⟨0x3020, 63, 0⟩

end F

/-- Registers at fixed offsets, part 0. -/
def regMapFixed0 : List RegDef := [
  ⟨"STAT_LEDGER", 0x180, 38, [⟨F.STAT_LEDGER_RETIRED, .RO, 0⟩, ⟨F.STAT_LEDGER_PAUSED, .RO, 0⟩, ⟨F.STAT_LEDGER_DEALT, .RO, 0⟩, ⟨F.STAT_LEDGER_FREE, .RO, 65536⟩]⟩,
  ⟨"STAT_LEDGERECC", 0x188, 38, [⟨F.STAT_LEDGERECC_LASTSEAT, .RO, 0⟩, ⟨F.STAT_LEDGERECC_LASTWORD, .RO, 0⟩, ⟨F.STAT_LEDGERECC_CECOUNT, .RO, 0⟩, ⟨F.STAT_LEDGERECC_LEAK, .W1C, 0⟩, ⟨F.STAT_LEDGERECC_UE, .W1C, 0⟩, ⟨F.STAT_LEDGERECC_CE, .W1C, 0⟩]⟩,
  ⟨"ADM_CTRL", 0x800, 64, [⟨F.ADM_CTRL_OPENCREDIT, .RW, 4⟩, ⟨F.ADM_CTRL_TUNEFREEZE, .RL, 0⟩, ⟨F.ADM_CTRL_SHIPLOAD, .RL, 1⟩, ⟨F.ADM_CTRL_SHIPEN, .RL, 1⟩, ⟨F.ADM_CTRL_DROPEN, .RL, 1⟩, ⟨F.ADM_CTRL_PAUSEEN, .RL, 1⟩, ⟨F.ADM_CTRL_PREDEN, .RL, 1⟩, ⟨F.ADM_CTRL_OPEN, .RL, 0⟩]⟩,
  ⟨"ADM_STATUS", 0x808, 64, [⟨F.ADM_STATUS_DEALSOBS, .RO, 0⟩, ⟨F.ADM_STATUS_COLD, .RO, 1⟩, ⟨F.ADM_STATUS_BOUNDARY, .RO, 0⟩, ⟨F.ADM_STATUS_UNDECIDED, .RO, 0⟩]⟩,
  ⟨"ADM_WINDOW", 0x810, 64, [⟨F.ADM_WINDOW_WINNUM, .RO, 0⟩, ⟨F.ADM_WINDOW_WINLEN, .RW, 100000⟩]⟩,
  ⟨"ADM_SHIP", 0x818, 64, [⟨F.ADM_SHIP_THRESH, .RL, 16384⟩, ⟨F.ADM_SHIP_LOADMIN, .RL, 4096⟩]⟩,
  ⟨"ADM_RETRY", 0x820, 64, [⟨F.ADM_RETRY_NOSEAT, .RL, 50⟩, ⟨F.ADM_RETRY_PREDMULT, .RL, 4⟩, ⟨F.ADM_RETRY_RETRYMIN, .RL, 10⟩, ⟨F.ADM_RETRY_MODELRETRY, .RL, 1000⟩]⟩,
  ⟨"ADM_TUNE", 0x828, 64, [⟨F.ADM_TUNE_GAINSHIFT, .RL, 4⟩, ⟨F.ADM_TUNE_MISSTOL, .RL, 13⟩, ⟨F.ADM_TUNE_RESUMEFRAC, .RL, 218⟩, ⟨F.ADM_TUNE_PAUSEMAX, .RL, 1024⟩, ⟨F.ADM_TUNE_SPILLAFTER, .RL, 256⟩, ⟨F.ADM_TUNE_CHUNKSTEP, .RL, 8⟩]⟩,
  ⟨"ADM_PRIOR0", 0x830, 64, [⟨F.ADM_PRIOR0_BASE, .RO, 2000000⟩, ⟨F.ADM_PRIOR0_ROWCOST, .RO, 200⟩, ⟨F.ADM_PRIOR0_CHUNKCOST, .RO, 190⟩]⟩,
  ⟨"ADM_EST0", 0x840, 64, [⟨F.ADM_EST0_BASE, .RO, 2000000⟩, ⟨F.ADM_EST0_ROWCOST, .RO, 200⟩, ⟨F.ADM_EST0_CHUNKCOST, .RO, 190⟩]⟩,
  ⟨"ADM_PRIOR1", 0x838, 64, [⟨F.ADM_PRIOR1_TPDPRIOR, .RO, 384⟩, ⟨F.ADM_PRIOR1_HITPRIOR, .RO, 0⟩, ⟨F.ADM_PRIOR1_POOLBASE, .RO, 20⟩, ⟨F.ADM_PRIOR1_POOLKTOK, .RO, 150⟩]⟩,
  ⟨"ADM_EST1", 0x848, 64, [⟨F.ADM_EST1_POOLBASE, .RO, 20⟩, ⟨F.ADM_EST1_POOLKTOK, .RO, 150⟩]⟩,
  ⟨"ADM_TSEL", 0x980, 66, [⟨F.ADM_TSEL_TENANT, .RW, 0⟩]⟩,
  ⟨"DEAL_CTRL", 0x1000, 95, [⟨F.DEAL_CTRL_FOLLOWON, .RD, 1⟩, ⟨F.DEAL_CTRL_SUITEN, .RD, 1⟩, ⟨F.DEAL_CTRL_CHUNKEN, .RD, 1⟩, ⟨F.DEAL_CTRL_ENABLE, .RL, 0⟩]⟩,
  ⟨"DEAL_STATUS", 0x1008, 95, [⟨F.DEAL_STATUS_NEXTEPOCH, .RO, 0⟩, ⟨F.DEAL_STATUS_LATE, .W1C, 0⟩, ⟨F.DEAL_STATUS_NOTABLE, .RO, 0⟩, ⟨F.DEAL_STATUS_HANDED, .RO, 0⟩, ⟨F.DEAL_STATUS_COMPOSING, .RO, 0⟩, ⟨F.DEAL_STATUS_BOUNDARY, .RO, 0⟩]⟩,
  ⟨"DEAL_TIMING", 0x1010, 95, [⟨F.DEAL_TIMING_SEALLEAD, .RL, 2000⟩, ⟨F.DEAL_TIMING_MODELWAIT, .RL, 64⟩]⟩,
  ⟨"DEAL_LIMITS", 0x1018, 95, [⟨F.DEAL_LIMITS_MAXSEATS, .RD, 16384⟩, ⟨F.DEAL_LIMITS_MAXROWS, .RD, 131072⟩, ⟨F.DEAL_LIMITS_MAXCHUNK, .RD, 1024⟩]⟩,
  ⟨"DEAL_SUITCFG", 0x1020, 95, [⟨F.DEAL_SUITCFG_SUITMIN, .RD, 2⟩, ⟨F.DEAL_SUITCFG_SUITMINBLK, .RD, 64⟩]⟩,
  ⟨"DEAL_SLOTCFG", 0x1028, 95, [⟨F.DEAL_SLOTCFG_ACTIVE, .RO, 0⟩, ⟨F.DEAL_SLOTCFG_SWAPREQ, .RD, 0⟩]⟩,
  ⟨"DEAL_SLOTSEL", 0x1030, 95, [⟨F.DEAL_SLOTSEL_READACTIVE, .RW, 0⟩, ⟨F.DEAL_SLOTSEL_SLOT, .RW, 0⟩]⟩]

/-- Registers at fixed offsets, part 1. -/
def regMapFixed1 : List RegDef := [
  ⟨"DEAL_LAST0", 0x1040, 95, [⟨F.DEAL_LAST0_SEATS, .RO, 0⟩, ⟨F.DEAL_LAST0_ROWS, .RO, 0⟩, ⟨F.DEAL_LAST0_CHUNKTOK, .RO, 0⟩, ⟨F.DEAL_LAST0_SUITS, .RO, 0⟩]⟩,
  ⟨"DEAL_LAST1", 0x1048, 95, [⟨F.DEAL_LAST1_KITTY, .RO, 0⟩, ⟨F.DEAL_LAST1_CBUDGET, .RO, 0⟩, ⟨F.DEAL_LAST1_SLACKROWS, .RO, 0⟩, ⟨F.DEAL_LAST1_PASSED, .RO, 0⟩]⟩,
  ⟨"DEAL_LAST2", 0x1050, 95, [⟨F.DEAL_LAST2_COMPCYC, .RO, 0⟩, ⟨F.DEAL_LAST2_PREDNS, .RO, 0⟩]⟩,
  ⟨"HER_CTRL", 0x1800, 121, [⟨F.HER_CTRL_LAUNCHEN, .RL, 0⟩]⟩,
  ⟨"HER_STATUS", 0x1808, 121, [⟨F.HER_STATUS_RUNEPOCH, .RO, 0⟩, ⟨F.HER_STATUS_STOPPED, .RO, 0⟩, ⟨F.HER_STATUS_STOPPING, .RO, 0⟩, ⟨F.HER_STATUS_STOPMODE, .RO, 0⟩, ⟨F.HER_STATUS_PEERHOLD, .RO, 0⟩, ⟨F.HER_STATUS_WEIGHTHOLD, .RO, 0⟩, ⟨F.HER_STATUS_BOUNDARY, .RO, 0⟩, ⟨F.HER_STATUS_RUNNING, .RO, 0⟩]⟩,
  ⟨"HER_NEXTEPOCH", 0x1810, 121, [⟨F.HER_NEXTEPOCH_EPOCH, .RW, 1⟩]⟩,
  ⟨"HER_NODE", 0x1818, 121, [⟨F.HER_NODE_NODEID, .RO, 0⟩]⟩,
  ⟨"HER_GROUPMASK", 0x1820, 121, [⟨F.HER_GROUPMASK_MASK, .RD, 18446744073709551615⟩]⟩,
  ⟨"HER_PEER", 0x1828, 121, [⟨F.HER_PEER_PEERWAIT, .RL, 2000⟩, ⟨F.HER_PEER_LEASELEN, .RL, 4⟩]⟩,
  ⟨"HER_STOPCTL", 0x1830, 121, [⟨F.HER_STOPCTL_STOPEPOCH, .RW, 0⟩, ⟨F.HER_STOPCTL_GO, .WO, 0⟩, ⟨F.HER_STOPCTL_IMMEDIATE, .WO, 0⟩, ⟨F.HER_STOPCTL_BOUNDARY, .WO, 0⟩]⟩,
  ⟨"HER_REC_LEDGER", 0x1838, 121, [⟨F.HER_REC_LEDGER_EPOCH, .RO, 0⟩]⟩,
  ⟨"HER_REC_SIEVE", 0x1840, 121, [⟨F.HER_REC_SIEVE_EPOCH, .RO, 0⟩]⟩,
  ⟨"HER_REC_CLUSTER", 0x1848, 121, [⟨F.HER_REC_CLUSTER_EPOCH, .RO, 0⟩]⟩,
  ⟨"HER_REC_DEALER", 0x1860, 121, [⟨F.HER_REC_DEALER_EPOCH, .RO, 0⟩]⟩,
  ⟨"HER_REC_AHEAD", 0x1850, 121, [⟨F.HER_REC_AHEAD_GROUPS, .RO, 0⟩]⟩,
  ⟨"HER_REC_LANES", 0x1858, 121, [⟨F.HER_REC_LANES_LANES, .RO, 0⟩]⟩,
  ⟨"HER_LAYER", 0x1868, 121, [⟨F.HER_LAYER_THROUGH, .RO, 0⟩, ⟨F.HER_LAYER_HELDAT, .RO, 4095⟩, ⟨F.HER_LAYER_HOLDWHY, .RO, 0⟩, ⟨F.HER_LAYER_PEERNODE, .RO, 0⟩]⟩,
  ⟨"HER_LASTSTEP", 0x1870, 121, [⟨F.HER_LASTSTEP_STEPT, .RO, 0⟩, ⟨F.HER_LASTSTEP_HOLDT, .RO, 0⟩]⟩,
  ⟨"HER_SPLITSEL", 0x1878, 121, [⟨F.HER_SPLITSEL_WORD, .RW, 0⟩, ⟨F.HER_SPLITSEL_ENTRY, .RW, 0⟩]⟩,
  ⟨"SIEVE_STATUS", 0x2000, 145, [⟨F.SIEVE_STATUS_LANES, .RO, 0⟩, ⟨F.SIEVE_STATUS_BUSY, .RO, 0⟩, ⟨F.SIEVE_STATUS_OVERFLOW, .RO, 0⟩]⟩]

/-- Registers at fixed offsets, part 2. -/
def regMapFixed2 : List RegDef := [
  ⟨"SIEVE_LANEMAP", 0x2008, 145, [⟨F.SIEVE_LANEMAP_LANES, .RD, 0⟩]⟩,
  ⟨"SIEVE_CANDCFG", 0x2010, 145, [⟨F.SIEVE_CANDCFG_FIRST, .RD, 16⟩, ⟨F.SIEVE_CANDCFG_REFILLN, .RD, 256⟩, ⟨F.SIEVE_CANDCFG_MAXROUND, .RD, 4095⟩]⟩,
  ⟨"SIEVE_OVFBASE", 0x2018, 145, [⟨F.SIEVE_OVFBASE_BASE, .RW, 0⟩]⟩,
  ⟨"SIEVE_FLAGS", 0x2020, 145, [⟨F.SIEVE_FLAGS_STRAY, .W1C, 0⟩, ⟨F.SIEVE_FLAGS_ROOMWAIT, .W1C, 0⟩, ⟨F.SIEVE_FLAGS_LIMIT, .W1C, 0⟩, ⟨F.SIEVE_FLAGS_EMPTY, .W1C, 0⟩, ⟨F.SIEVE_FLAGS_SORTERR, .W1C, 0⟩, ⟨F.SIEVE_FLAGS_DUP, .W1C, 0⟩, ⟨F.SIEVE_FLAGS_NANIN, .W1C, 0⟩, ⟨F.SIEVE_FLAGS_DEGEN, .W1C, 0⟩]⟩,
  ⟨"SIEVE_ERRROW", 0x2028, 145, [⟨F.SIEVE_ERRROW_EPOCH, .RO, 0⟩, ⟨F.SIEVE_ERRROW_ROW, .RO, 0⟩, ⟨F.SIEVE_ERRROW_KIND, .RO, 0⟩]⟩,
  ⟨"SIEVE_ERRSEAT", 0x2030, 145, [⟨F.SIEVE_ERRSEAT_SEAT, .RO, 0⟩, ⟨F.SIEVE_ERRSEAT_SEATGEN, .RO, 0⟩]⟩,
  ⟨"SIEVE_LASTDEAL", 0x2038, 145, [⟨F.SIEVE_LASTDEAL_ROWS, .RO, 0⟩, ⟨F.SIEVE_LASTDEAL_REFILLED, .RO, 0⟩, ⟨F.SIEVE_LASTDEAL_MAXROUND, .RO, 0⟩, ⟨F.SIEVE_LASTDEAL_TAIL, .RO, 0⟩]⟩,
  ⟨"SIEVE_SAMPCFG", 0x2040, 167, [⟨F.SIEVE_SAMPCFG_NORMAL, .RD, 0⟩, ⟨F.SIEVE_SAMPCFG_ROUNDEN, .RD, 0⟩]⟩,
  ⟨"SIEVE_DRAFTCFG", 0x2048, 167, [⟨F.SIEVE_DRAFTCFG_W, .RD, 32⟩, ⟨F.SIEVE_DRAFTCFG_RAISE, .RD, 192⟩, ⟨F.SIEVE_DRAFTCFG_LOWER, .RD, 96⟩, ⟨F.SIEVE_DRAFTCFG_PROBE, .RD, 64⟩]⟩,
  ⟨"SIEVE_PCTCFG", 0x2050, 167, [⟨F.SIEVE_PCTCFG_BASE, .RW, 0⟩, ⟨F.SIEVE_PCTCFG_CAP, .RW, 256⟩]⟩,
  ⟨"SIEVE_SAMPFLAGS", 0x2058, 167, [⟨F.SIEVE_SAMPFLAGS_EMPTYDRAW, .W1C, 0⟩, ⟨F.SIEVE_SAMPFLAGS_SHORTDRAFT, .W1C, 0⟩, ⟨F.SIEVE_SAMPFLAGS_PCTFULL, .W1C, 0⟩, ⟨F.SIEVE_SAMPFLAGS_APPROX, .W1C, 0⟩]⟩,
  ⟨"SIEVE_TRICKS", 0x2060, 167, [⟨F.SIEVE_TRICKS_SEATS, .RO, 0⟩, ⟨F.SIEVE_TRICKS_PROPOSED, .RO, 0⟩, ⟨F.SIEVE_TRICKS_ACCEPTED, .RO, 0⟩]⟩,
  ⟨"SIEVE_EMITTED", 0x2068, 167, [⟨F.SIEVE_EMITTED_TOKENS, .RO, 0⟩, ⟨F.SIEVE_EMITTED_STOPS, .RO, 0⟩, ⟨F.SIEVE_EMITTED_APPROXROWS, .RO, 0⟩]⟩,
  ⟨"SIEVE_STOPBASE", 0x2070, 167, [⟨F.SIEVE_STOPBASE_BASE, .RW, 0⟩]⟩,
  ⟨"PKV_CTRL", 0x2800, 202, [⟨F.PKV_CTRL_ROUNDHIT, .RD, 0⟩, ⟨F.PKV_CTRL_TENANTSCOPE, .RD, 1⟩, ⟨F.PKV_CTRL_PUBLISH, .RL, 1⟩, ⟨F.PKV_CTRL_INDEXOWN, .RL, 1⟩, ⟨F.PKV_CTRL_LOOKUP, .RL, 1⟩]⟩,
  ⟨"PKV_STATUS", 0x2808, 202, [⟨F.PKV_STATUS_LOWFREE, .RO, 0⟩, ⟨F.PKV_STATUS_REPLAY, .RO, 0⟩, ⟨F.PKV_STATUS_CLEARED, .RO, 0⟩]⟩,
  ⟨"PKV_HASHKEY0", 0x2810, 202, [⟨F.PKV_HASHKEY0_KEY, .WO, 0⟩]⟩,
  ⟨"PKV_HASHKEY1", 0x2818, 202, [⟨F.PKV_HASHKEY1_KEY, .WO, 0⟩]⟩,
  ⟨"PKV_INDEXBASE", 0x2820, 202, [⟨F.PKV_INDEXBASE_BASE, .RW, 0⟩]⟩,
  ⟨"PKV_RECBASE", 0x2828, 202, [⟨F.PKV_RECBASE_BASE, .RW, 0⟩]⟩]

/-- Registers at fixed offsets, part 3. -/
def regMapFixed3 : List RegDef := [
  ⟨"PKV_OBJBASE", 0x2878, 202, [⟨F.PKV_OBJBASE_BASE, .RW, 0⟩]⟩,
  ⟨"PKV_KVCFG", 0x2830, 202, [⟨F.PKV_KVCFG_BLOCKS, .RW, 262144⟩, ⟨F.PKV_KVCFG_BLOCKBYTES, .RW, 256⟩]⟩,
  ⟨"PKV_KVBASE", 0x2838, 202, [⟨F.PKV_KVBASE_ADDR, .RW, 0⟩]⟩,
  ⟨"PKV_FREE", 0x2840, 202, [⟨F.PKV_FREE_FREE, .RO, 0⟩, ⟨F.PKV_FREE_CACHED, .RO, 0⟩]⟩,
  ⟨"PKV_LOWMARK", 0x2848, 202, [⟨F.PKV_LOWMARK_LOWMARK, .RL, 8192⟩]⟩,
  ⟨"PKV_PROMPTCFG", 0x2850, 202, [⟨F.PKV_PROMPTCFG_BASE, .RW, 0⟩, ⟨F.PKV_PROMPTCFG_PAGES, .RW, 262144⟩]⟩,
  ⟨"PKV_PROMPTFREE", 0x2858, 202, [⟨F.PKV_PROMPTFREE_FREEPAGES, .RO, 0⟩]⟩,
  ⟨"PKV_WAIT", 0x2860, 202, [⟨F.PKV_WAIT_FETCHWAIT, .RL, 5000⟩, ⟨F.PKV_WAIT_SHIPWAIT, .RL, 2000000⟩]⟩,
  ⟨"PKV_FETCHCFG", 0x2868, 202, [⟨F.PKV_FETCHCFG_DEPTH, .RL, 64⟩]⟩,
  ⟨"PKV_NAME", 0x2870, 202, [⟨F.PKV_NAME_ERA, .RO, 0⟩, ⟨F.PKV_NAME_SERIAL, .RO, 1⟩]⟩,
  ⟨"PKV_OBJSEL", 0x2880, 202, [⟨F.PKV_OBJSEL_SLOT, .RW, 0⟩, ⟨F.PKV_OBJSEL_KIND, .RW, 0⟩, ⟨F.PKV_OBJSEL_ID, .RW, 0⟩]⟩,
  ⟨"PKV_OBJDATA0", 0x2888, 202, [⟨F.PKV_OBJDATA0_VERSION, .RW, 0⟩, ⟨F.PKV_OBJDATA0_MODEL, .RW, 0⟩, ⟨F.PKV_OBJDATA0_MODELVER, .RW, 0⟩, ⟨F.PKV_OBJDATA0_LPLEN, .RW, 0⟩]⟩,
  ⟨"PKV_OBJCMD", 0x28a0, 202, [⟨F.PKV_OBJCMD_WITHDRAW, .WO, 0⟩, ⟨F.PKV_OBJCMD_REGISTER, .WO, 0⟩]⟩,
  ⟨"PKV_OBJSTAT", 0x28a8, 202, [⟨F.PKV_OBJSTAT_RESULT, .RO, 0⟩, ⟨F.PKV_OBJSTAT_NEWSLOT, .RO, 0⟩, ⟨F.PKV_OBJSTAT_CURSLOT, .RO, 0⟩, ⟨F.PKV_OBJSTAT_HASCUR, .RO, 0⟩, ⟨F.PKV_OBJSTAT_LIVE, .RO, 0⟩, ⟨F.PKV_OBJSTAT_PINS, .RO, 0⟩, ⟨F.PKV_OBJSTAT_SLOTVER, .RO, 0⟩]⟩,
  ⟨"PKV_RETIRE", 0x28b0, 202, [⟨F.PKV_RETIRE_VALID, .RO, 0⟩, ⟨F.PKV_RETIRE_KIND, .RO, 0⟩, ⟨F.PKV_RETIRE_ID, .RO, 0⟩, ⟨F.PKV_RETIRE_SLOT, .RO, 0⟩, ⟨F.PKV_RETIRE_VERSION, .RO, 0⟩]⟩,
  ⟨"PKV_RETIREACK", 0x28b8, 202, [⟨F.PKV_RETIREACK_POP, .WO, 0⟩]⟩,
  ⟨"PKV_FLAGS", 0x28c0, 202, [⟨F.PKV_FLAGS_SPILLFAIL, .W1C, 0⟩, ⟨F.PKV_FLAGS_MISMATCH, .W1C, 0⟩, ⟨F.PKV_FLAGS_FETCHFAIL, .W1C, 0⟩, ⟨F.PKV_FLAGS_SHIPFAIL, .W1C, 0⟩, ⟨F.PKV_FLAGS_INDEXDROP, .W1C, 0⟩, ⟨F.PKV_FLAGS_HOTUE, .W1C, 0⟩, ⟨F.PKV_FLAGS_HOTCE, .W1C, 0⟩, ⟨F.PKV_FLAGS_PROMPTWAIT, .W1C, 0⟩, ⟨F.PKV_FLAGS_ALLOCSHORT, .W1C, 0⟩]⟩,
  ⟨"PKV_LASTLOOKUP", 0x28c8, 202, [⟨F.PKV_LASTLOOKUP_SEAT, .RO, 0⟩, ⟨F.PKV_LASTLOOKUP_HITS, .RO, 0⟩, ⟨F.PKV_LASTLOOKUP_FETCHED, .RO, 0⟩, ⟨F.PKV_LASTLOOKUP_ENDWHY, .RO, 0⟩]⟩,
  ⟨"MOD_CTRL", 0x3000, 219, [⟨F.MOD_CTRL_SECWAIT, .RL, 20000⟩, ⟨F.MOD_CTRL_SECONDEN, .RL, 1⟩, ⟨F.MOD_CTRL_ENABLE, .RL, 0⟩]⟩,
  ⟨"MOD_STATUS", 0x3008, 219, [⟨F.MOD_STATUS_READYVERS, .RO, 0⟩, ⟨F.MOD_STATUS_HOTUSED, .RO, 0⟩, ⟨F.MOD_STATUS_FLASHUP, .RO, 0⟩, ⟨F.MOD_STATUS_HBMUP, .RO, 0⟩, ⟨F.MOD_STATUS_LOADING, .RO, 0⟩]⟩]

/-- Registers at fixed offsets, part 4. -/
def regMapFixed4 : List RegDef := [
  ⟨"MOD_TABBASE", 0x3010, 219, [⟨F.MOD_TABBASE_BASE, .RW, 0⟩]⟩,
  ⟨"MOD_OBJSTORE", 0x3018, 219, [⟨F.MOD_OBJSTORE_BASE, .RW, 0⟩, ⟨F.MOD_OBJSTORE_CAP, .RW, 1048576⟩]⟩,
  ⟨"MOD_STAGESIZE", 0x3028, 219, [⟨F.MOD_STAGESIZE_BYTES, .RW, 2097152⟩]⟩,
  ⟨"MOD_CHIPCFG", 0x3030, 219, [⟨F.MOD_CHIPCFG_BASE, .RW, 0⟩, ⟨F.MOD_CHIPCFG_BYTES, .RW, 0⟩]⟩,
  ⟨"MOD_HOTCFG", 0x3038, 219, [⟨F.MOD_HOTCFG_BASE, .RW, 0⟩, ⟨F.MOD_HOTCFG_BYTES, .RW, 0⟩]⟩,
  ⟨"MOD_GUARD", 0x3040, 219, [⟨F.MOD_GUARD_PCMASK, .RW, 196611⟩, ⟨F.MOD_GUARD_LLCWAYS, .RW, 2⟩]⟩,
  ⟨"MOD_SEL", 0x3048, 219, [⟨F.MOD_SEL_OBJIDX, .RW, 0⟩, ⟨F.MOD_SEL_MODEL, .RW, 0⟩, ⟨F.MOD_SEL_SLOT, .RW, 0⟩]⟩,
  ⟨"MOD_CMD", 0x3050, 219, [⟨F.MOD_CMD_HOTLOAD, .WO, 0⟩, ⟨F.MOD_CMD_REOBJ, .WO, 0⟩, ⟨F.MOD_CMD_WITHDRAW, .WO, 0⟩, ⟨F.MOD_CMD_REGISTER, .WO, 0⟩]⟩,
  ⟨"MOD_STAT", 0x3058, 219, [⟨F.MOD_STAT_RESULT, .RO, 0⟩, ⟨F.MOD_STAT_CURSLOT, .RO, 0⟩, ⟨F.MOD_STAT_HASCUR, .RO, 0⟩, ⟨F.MOD_STAT_LIVE, .RO, 0⟩, ⟨F.MOD_STAT_PINS, .RO, 0⟩, ⟨F.MOD_STAT_SLOTVER, .RO, 0⟩]⟩,
  ⟨"MOD_RETIRE", 0x3060, 219, [⟨F.MOD_RETIRE_VALID, .RO, 0⟩, ⟨F.MOD_RETIRE_MODEL, .RO, 0⟩, ⟨F.MOD_RETIRE_SLOT, .RO, 0⟩, ⟨F.MOD_RETIRE_VERSION, .RO, 0⟩]⟩,
  ⟨"MOD_RETIREACK", 0x3068, 219, [⟨F.MOD_RETIREACK_POP, .WO, 0⟩]⟩,
  ⟨"MOD_POISON", 0x3070, 219, [⟨F.MOD_POISON_MODEL, .RO, 0⟩, ⟨F.MOD_POISON_SLOT, .RO, 0⟩, ⟨F.MOD_POISON_OBJIDX, .RO, 0⟩, ⟨F.MOD_POISON_LAYER, .RO, 0⟩, ⟨F.MOD_POISON_CLOSED, .RO, 0⟩]⟩,
  ⟨"MOD_FLAGS", 0x3078, 219, [⟨F.MOD_FLAGS_TIERDOWN, .W1C, 0⟩, ⟨F.MOD_FLAGS_HOTWAIT, .W1C, 0⟩, ⟨F.MOD_FLAGS_REFETCH, .W1C, 0⟩, ⟨F.MOD_FLAGS_POISON, .W1C, 0⟩, ⟨F.MOD_FLAGS_STAGEWAIT, .W1C, 0⟩]⟩,
  ⟨"MOD_LASTSTEP", 0x3080, 219, [⟨F.MOD_LASTSTEP_SWITCHT, .RO, 0⟩, ⟨F.MOD_LASTSTEP_FLASHREAD, .RO, 0⟩]⟩,
  ⟨"PORTG_STREAM", 0x4038, 262, [⟨F.PORTG_STREAM_POOL, .RL, 16384⟩, ⟨F.PORTG_STREAM_QUEUED, .RO, 0⟩, ⟨F.PORTG_STREAM_PROMPTWAIT, .RL, 1000000⟩]⟩,
  ⟨"PORTN_LEASE", 0x4338, 262, [⟨F.PORTN_LEASE_MSGS, .RL, 64⟩, ⟨F.PORTN_LEASE_BEATS, .RL, 16384⟩]⟩,
  ⟨"PORTN_PEERSEL", 0x4340, 262, [⟨F.PORTN_PEERSEL_PEER, .RW, 0⟩]⟩,
  ⟨"PORTN_PEERSTAT", 0x4348, 262, [⟨F.PORTN_PEERSTAT_NODEID, .RO, 0⟩, ⟨F.PORTN_PEERSTAT_ERA, .RO, 0⟩, ⟨F.PORTN_PEERSTAT_UP, .RO, 0⟩]⟩,
  ⟨"START_STATUS", 0x400, 282, [⟨F.START_STATUS_MODE, .RO, 0⟩, ⟨F.START_STATUS_REASON, .RO, 0⟩, ⟨F.START_STATUS_APPLIED, .RO, 0⟩, ⟨F.START_STATUS_DEFAULTS, .RO, 0⟩, ⟨F.START_STATUS_SAGREC, .RO, 0⟩, ⟨F.START_STATUS_SAGPRIOR, .RO, 0⟩, ⟨F.START_STATUS_REPLAYED, .RO, 0⟩, ⟨F.START_STATUS_IMGLEN, .RO, 0⟩]⟩,
  ⟨"START_IMAGE", 0x408, 282, [⟨F.START_IMAGE_BUILDID, .RO, 0⟩]⟩]

/-- Registers at fixed offsets, part 5. -/
def regMapFixed5 : List RegDef := [
  ⟨"START_BOOT", 0x410, 282, [⟨F.START_BOOT_BOOTS, .RO, 0⟩, ⟨F.START_BOOT_ERA, .RO, 0⟩, ⟨F.START_BOOT_STARTWIN, .RL, 60⟩, ⟨F.START_BOOT_BEDROCKNEXT, .WO, 0⟩, ⟨F.START_BOOT_CLEAR, .WO, 0⟩]⟩,
  ⟨"START_TIMES", 0x418, 282, [⟨F.START_TIMES_IMGDONE, .RO, 65535⟩, ⟨F.START_TIMES_APPLIEDAT, .RO, 65535⟩, ⟨F.START_TIMES_PORTGOPEN, .RO, 65535⟩, ⟨F.START_TIMES_ADMITOPEN, .RO, 65535⟩]⟩,
  ⟨"PWR_CTRL", 0x7000, 283, [⟨F.PWR_CTRL_WAKE, .WO, 0⟩, ⟨F.PWR_CTRL_FALLOW, .RL, 0⟩]⟩,
  ⟨"PWR_STATUS", 0x7008, 283, [⟨F.PWR_STATUS_STATE, .RO, 0⟩, ⟨F.PWR_STATUS_SAGWARN, .RO, 0⟩, ⟨F.PWR_STATUS_HELD, .RO, 0⟩]⟩,
  ⟨"PWR_FALLOW", 0x7010, 283, [⟨F.PWR_FALLOW_WAKEHOLD, .RL, 50⟩, ⟨F.PWR_FALLOW_LASTWAKE, .RO, 0⟩]⟩,
  ⟨"PWR_COUNTER", 0x7018, 283, [⟨F.PWR_COUNTER_NOW, .RO, 0⟩]⟩,
  ⟨"PWR_SAG", 0x7020, 283, [⟨F.PWR_SAG_RECSTATE, .RO, 0⟩, ⟨F.PWR_SAG_NSEAT, .RO, 0⟩, ⟨F.PWR_SAG_RECTIME, .RO, 0⟩, ⟨F.PWR_SAG_SAGS, .RO, 0⟩]⟩,
  ⟨"OBS_CTRL", 0x6000, 300, [⟨F.OBS_CTRL_OPSEN, .RL, 1⟩, ⟨F.OBS_CTRL_DIGEN, .RL, 0⟩, ⟨F.OBS_CTRL_TRCEN, .RL, 1⟩, ⟨F.OBS_CTRL_CLEARKEEP, .WO, 0⟩, ⟨F.OBS_CTRL_CLEAR, .WO, 0⟩, ⟨F.OBS_CTRL_SNAP, .WO, 0⟩, ⟨F.OBS_CTRL_SNAPNOW, .WO, 0⟩]⟩,
  ⟨"OBS_STATUS", 0x6008, 300, [⟨F.OBS_STATUS_SNAPSEQ, .RO, 0⟩, ⟨F.OBS_STATUS_QUEUED, .RO, 0⟩, ⟨F.OBS_STATUS_MISSES, .RO, 0⟩, ⟨F.OBS_STATUS_SNAPPEND, .RO, 0⟩]⟩,
  ⟨"TRC_CFG", 0x6010, 300, [⟨F.TRC_CFG_PRE, .RW, 1048576⟩, ⟨F.TRC_CFG_POST, .RW, 65536⟩, ⟨F.TRC_CFG_DRAINGBS, .RL, 4⟩, ⟨F.TRC_CFG_MINWAIT, .RL, 16⟩]⟩,
  ⟨"TRC_BASE", 0x6018, 300, [⟨F.TRC_BASE_BASE, .RW, 0⟩]⟩,
  ⟨"TRC_KINDMASK", 0x6020, 300, [⟨F.TRC_KINDMASK_KINDS, .RL, 18446744073709551615⟩]⟩,
  ⟨"TRC_TRIG", 0x6028, 300, [⟨F.TRC_TRIG_SOURCE, .RL, 0⟩, ⟨F.TRC_TRIG_TRIGKIND, .RL, 8⟩, ⟨F.TRC_TRIG_TRIGNS, .RL, 1000000⟩, ⟨F.TRC_TRIG_ARM, .WO, 0⟩, ⟨F.TRC_TRIG_FIRE, .WO, 0⟩]⟩,
  ⟨"TRC_STATUS", 0x6030, 300, [⟨F.TRC_STATUS_STATE, .RO, 0⟩, ⟨F.TRC_STATUS_DRAINED, .RO, 0⟩, ⟨F.TRC_STATUS_WRAPPED, .RO, 0⟩, ⟨F.TRC_STATUS_PREHEAD, .RO, 0⟩, ⟨F.TRC_STATUS_POSTCOUNT, .RO, 0⟩]⟩,
  ⟨"TRC_LOST", 0x6038, 300, [⟨F.TRC_LOST_COUNT, .RO, 0⟩]⟩,
  ⟨"TRC_DROPPED", 0x6040, 300, [⟨F.TRC_DROPPED_COUNT, .RO, 0⟩]⟩,
  ⟨"TRC_TRIGAT", 0x6048, 300, [⟨F.TRC_TRIGAT_AT, .RO, 0⟩]⟩,
  ⟨"OBS_MARK", 0x6050, 300, [⟨F.OBS_MARK_MARKER, .RD, 0⟩]⟩,
  ⟨"OPS_BASE", 0x6058, 300, [⟨F.OPS_BASE_BASE, .RW, 0⟩, ⟨F.OPS_BASE_LOG2, .RW, 18⟩]⟩,
  ⟨"DIG_SEL", 0x6068, 300, [⟨F.DIG_SEL_ENTRY, .RW, 0⟩]⟩]

/-- Registers at fixed offsets, part 6. -/
def regMapFixed6 : List RegDef := [
  ⟨"DIG_DATA", 0x6070, 300, [⟨F.DIG_DATA_VALID, .RD, 0⟩, ⟨F.DIG_DATA_SEAT, .RD, 0⟩, ⟨F.DIG_DATA_SEATGEN, .RD, 0⟩]⟩,
  ⟨"STAT_ID", 0x0, 319, [⟨F.STAT_ID_VENDOR, .RO, 19524⟩, ⟨F.STAT_ID_BLOCK, .RO, 43777⟩, ⟨F.STAT_ID_GRADE, .RO, 0⟩, ⟨F.STAT_ID_STEPPING, .RO, 176⟩, ⟨F.STAT_ID_ASPVER, .RO, 1⟩, ⟨F.STAT_ID_IMGFORMAT, .RO, 1⟩]⟩,
  ⟨"STAT_SUMMARY", 0x8, 319, [⟨F.STAT_SUMMARY_PWRSTATE, .RO, 0⟩, ⟨F.STAT_SUMMARY_MODE, .RO, 0⟩, ⟨F.STAT_SUMMARY_APPLIED, .RO, 0⟩, ⟨F.STAT_SUMMARY_ADMOPEN, .RO, 0⟩, ⟨F.STAT_SUMMARY_RUNNING, .RO, 0⟩, ⟨F.STAT_SUMMARY_STOPPED, .RO, 0⟩, ⟨F.STAT_SUMMARY_COLD, .RO, 1⟩, ⟨F.STAT_SUMMARY_SAGWARN, .RO, 0⟩, ⟨F.STAT_SUMMARY_PORTSOPEN, .RO, 64⟩]⟩,
  ⟨"STAT_ERRSUM", 0x10, 319, [⟨F.STAT_ERRSUM_PORTS, .RO, 0⟩, ⟨F.STAT_ERRSUM_GATES, .RO, 0⟩, ⟨F.STAT_ERRSUM_MOD, .RO, 0⟩, ⟨F.STAT_ERRSUM_PKV, .RO, 0⟩, ⟨F.STAT_ERRSUM_SAMP, .RO, 0⟩, ⟨F.STAT_ERRSUM_SIEVE, .RO, 0⟩, ⟨F.STAT_ERRSUM_LATE, .RO, 0⟩, ⟨F.STAT_ERRSUM_LEDGER, .RO, 0⟩]⟩,
  ⟨"STAT_WINDOW", 0x18, 320, [⟨F.STAT_WINDOW_HOLDS, .RO, 0⟩, ⟨F.STAT_WINDOW_EXPIRED, .W1C, 0⟩, ⟨F.STAT_WINDOW_LOCKED, .RO, 0⟩, ⟨F.STAT_WINDOW_RELEASE, .WO, 0⟩, ⟨F.STAT_WINDOW_ACQUIRE, .WO, 0⟩]⟩,
  ⟨"PKV_OBJDATA1", 0x2890, 202, [⟨F.PKV_OBJDATA1_ADDR, .RW, 0⟩]⟩,
  ⟨"PKV_OBJDATA2", 0x2898, 202, [⟨F.PKV_OBJDATA2_BYTES, .RW, 0⟩]⟩,
  ⟨"MOD_STAGEBASE", 0x3020, 219, [⟨F.MOD_STAGEBASE_ADDR, .RW, 0⟩]⟩]

/-- Registers of the eight classes (R65). -/
def regMapClass : List RegDef := (List.range 8).flatMap fun c => [
  ⟨"ADM_CLASSc_TIME", 0x880 + 0x20 * c + 0x0, 65, [⟨F.ADM_CLASS_TIME_TTFT c, .RW, 2000000⟩, ⟨F.ADM_CLASS_TIME_TPOT c, .RW, 100000⟩]⟩,
  ⟨"ADM_CLASSc_POLICY", 0x880 + 0x20 * c + 0x8, 65, [⟨F.ADM_CLASS_POLICY_PAUSABLE c, .RW, 0⟩, ⟨F.ADM_CLASS_POLICY_EXHAUST c, .RW, 0⟩, ⟨F.ADM_CLASS_POLICY_DROP c, .RW, 0⟩, ⟨F.ADM_CLASS_POLICY_DROPGRACE c, .RW, 0⟩, ⟨F.ADM_CLASS_POLICY_RESVTOK c, .RW, 256⟩, ⟨F.ADM_CLASS_POLICY_BUDGETWAIT c, .RW, 0⟩, ⟨F.ADM_CLASS_POLICY_CHUNKDEF c, .RD, 64⟩]⟩,
  ⟨"ADM_CLASSc_LIMIT", 0x880 + 0x20 * c + 0x10, 65, [⟨F.ADM_CLASS_LIMIT_CHUNKMIN c, .RW, 16⟩, ⟨F.ADM_CLASS_LIMIT_CHUNKMAX c, .RW, 256⟩, ⟨F.ADM_CLASS_LIMIT_LIVE c, .RO, 0⟩, ⟨F.ADM_CLASS_LIMIT_MAXSEATS c, .RW, 65536⟩]⟩,
  ⟨"ADM_CLASSc_STAT", 0x880 + 0x20 * c + 0x18, 65, [⟨F.ADM_CLASS_STAT_ATTAINTTFT c, .RO, 65535⟩, ⟨F.ADM_CLASS_STAT_ATTAINTPOT c, .RO, 65535⟩, ⟨F.ADM_CLASS_STAT_TPD c, .RO, 0⟩]⟩]

/-- Registers of the seven ports (R262). -/
def regMapPort : List RegDef := (List.range 7).flatMap fun p => [
  ⟨"PORTp_CTRL", 0x4000 + 0x100 * p + 0x0, 262, [⟨F.PORT_CTRL_DROP p, .WO, 0⟩, ⟨F.PORT_CTRL_OPEN p, .RW, 0⟩]⟩,
  ⟨"PORTp_STATUS", 0x4000 + 0x100 * p + 0x8, 262, [⟨F.PORT_STATUS_PARTNERID p, .RO, 0⟩, ⟨F.PORT_STATUS_PARTNERERA p, .RO, 0⟩, ⟨F.PORT_STATUS_SESSIONS p, .RO, 0⟩, ⟨F.PORT_STATUS_PEERS p, .RO, 0⟩, ⟨F.PORT_STATUS_SESSION p, .RO, 0⟩, ⟨F.PORT_STATUS_LINKUP p, .RO, 0⟩]⟩,
  ⟨"PORTp_CFG", 0x4000 + 0x100 * p + 0x10, 262, [⟨F.PORT_CFG_PHASEAT p, .RW, 0⟩]⟩,
  ⟨"PORTp_CREDIT", 0x4000 + 0x100 * p + 0x18, 262, [⟨F.PORT_CREDIT_CLASS0 p, .RW, 0⟩, ⟨F.PORT_CREDIT_CLASS1 p, .RW, 0⟩, ⟨F.PORT_CREDIT_CLASS2 p, .RW, 0⟩]⟩,
  ⟨"PORTp_PAYCRED", 0x4000 + 0x100 * p + 0x20, 262, [⟨F.PORT_PAYCRED_BEATS p, .RW, 0⟩]⟩,
  ⟨"PORTp_FLAGS", 0x4000 + 0x100 * p + 0x28, 262, [⟨F.PORT_FLAGS_SESSIONLOST p, .W1C, 0⟩, ⟨F.PORT_FLAGS_NOTREADY p, .W1C, 0⟩, ⟨F.PORT_FLAGS_OVERRUN p, .W1C, 0⟩, ⟨F.PORT_FLAGS_BADOP p, .W1C, 0⟩, ⟨F.PORT_FLAGS_BADLEN p, .W1C, 0⟩, ⟨F.PORT_FLAGS_STRAY p, .W1C, 0⟩, ⟨F.PORT_FLAGS_OUTWAIT p, .W1C, 0⟩]⟩,
  ⟨"PORTp_OUTCRED", 0x4000 + 0x100 * p + 0x30, 262, [⟨F.PORT_OUTCRED_OUT0 p, .RO, 0⟩, ⟨F.PORT_OUTCRED_OUT1 p, .RO, 0⟩, ⟨F.PORT_OUTCRED_OUT2 p, .RO, 0⟩]⟩]

/-- Registers of the three gates (R237). -/
def regMapGate : List RegDef := (List.range 3).flatMap fun g => [
  ⟨"GATEg_CTRL", 0x3800 + 0x200 * g + 0x0, 237, [⟨F.GATE_CTRL_REVOKE g, .WO, 0⟩, ⟨F.GATE_CTRL_PREEMPT g, .RL, 1⟩, ⟨F.GATE_CTRL_HFREEZE g, .RO, 0⟩, ⟨F.GATE_CTRL_FREEZE g, .RL, 1⟩]⟩,
  ⟨"GATEg_CFG", 0x3800 + 0x200 * g + 0x8, 237, [⟨F.GATE_CFG_WINDOW g, .RL, 4096⟩, ⟨F.GATE_CFG_ROTN g, .RL, 8⟩, ⟨F.GATE_CFG_BURST g, .RL, 0⟩]⟩,
  ⟨"GATEg_STATUS", 0x3800 + 0x200 * g + 0x10, 237, [⟨F.GATE_STATUS_OWNER0 g, .RO, 0⟩, ⟨F.GATE_STATUS_OWNED0 g, .RO, 0⟩, ⟨F.GATE_STATUS_OWNER1 g, .RO, 0⟩, ⟨F.GATE_STATUS_OWNED1 g, .RO, 0⟩, ⟨F.GATE_STATUS_REQUESTING g, .RO, 0⟩, ⟨F.GATE_STATUS_ROTPOS0 g, .RO, 0⟩, ⟨F.GATE_STATUS_ROTPOS1 g, .RO, 0⟩]⟩,
  ⟨"GATEg_FLAGS", 0x3800 + 0x200 * g + 0x18, 237, [⟨F.GATE_FLAGS_FAILED g, .W1C, 0⟩, ⟨F.GATE_FLAGS_REVOKED g, .W1C, 0⟩, ⟨F.GATE_FLAGS_FROZENWAIT g, .W1C, 0⟩, ⟨F.GATE_FLAGS_WDOG g, .W1C, 0⟩]⟩,
  ⟨"GATEg_WDOG", 0x3800 + 0x200 * g + 0x20, 237, [⟨F.GATE_WDOG_REQ g, .RO, 0⟩, ⟨F.GATE_WDOG_PATH g, .RO, 0⟩, ⟨F.GATE_WDOG_PROGRESS g, .RO, 0⟩]⟩]

/-- SHARE and REQ registers of the listed requesters only (R221): six of gate 0, three of gate 1, four of gate 2. -/
def regMapRequester : List RegDef :=
  [(0, 6), (1, 3), (2, 4)].flatMap fun (g, n) => (List.range n).flatMap fun r => [
    ⟨"GATEg_SHAREr", 0x3800 + 0x200 * g + 0x80 + 8 * r, 237, [(⟨F.GATE_SHARE_SHARE g r, .RL, 0⟩), (⟨F.GATE_SHARE_PRIO g r, .RL, 0⟩), (⟨F.GATE_SHARE_ENABLE g r, .RL, 0⟩)]⟩,
    ⟨"GATEg_REQr", 0x3800 + 0x200 * g + 0x100 + 8 * r, 237, [(⟨F.GATE_REQ_COUNTER g r, .RO, 0⟩), (⟨F.GATE_REQ_PROGRESS g r, .RO, 0⟩), (⟨F.GATE_REQ_WAIT g r, .RO, 0⟩)]⟩]

/-- Every register with stored fields (R324); CNT_VALUEn and CNT_SNAPn are read-only views of the counters (R299). -/
def regMap : List RegDef :=
  regMapFixed0 ++ regMapFixed1 ++ regMapFixed2 ++ regMapFixed3 ++ regMapFixed4 ++ regMapFixed5 ++ regMapFixed6 ++ regMapClass ++ regMapPort ++ regMapGate ++ regMapRequester

/-- The register at an offset, when the window holds one there (R313). -/
def regAt (off : Nat) : Option RegDef := regMap.find? (fun r => r.off == off)

/-- The bits of a field within its word. -/
def Fld.mask (f : Fld) : Word := BitVec.ofNat 64 ((2 ^ (f.hi - f.lo + 1) - 1) * 2 ^ f.lo)

/-- The bits of a register whose fields carry one of the given access codes. -/
def RegDef.maskOf (r : RegDef) (as : List Acc) : Word :=
  r.fields.foldl (fun m f => if as.contains f.acc then m ||| f.fld.mask else m) 0

/-- The bits of a register that no field covers: reserved (R8). -/
def RegDef.reserved (r : RegDef) : Word := ~~~ (r.maskOf [.RO, .RW, .RL, .RD, .W1C, .WO])

/-- The value at start of a register, from the start values of its fields. -/
def RegDef.startWord (r : RegDef) : Word :=
  r.fields.foldl (fun w f => w ||| (BitVec.ofNat 64 (f.start * 2 ^ f.fld.lo) &&& f.fld.mask)) 0

/-- The value a field has in a word. -/
def Fld.get (f : Fld) (w : Word) : Nat := (w.toNat / 2 ^ f.lo) % 2 ^ (f.hi - f.lo + 1)

/-- A word with a field set; a value too wide for the field is cut to it. -/
def Fld.put (f : Fld) (v : Nat) (w : Word) : Word :=
  (w &&& ~~~ f.mask) ||| (BitVec.ofNat 64 (v * 2 ^ f.lo) &&& f.mask)

end Sys2Proof.Machine
end

