-- ==== Sys2Proof/Machine/State.lean ====
section
/-! DEFINITION. The state of the block as plain data. Sparse tables (`List (Nat × α)`) are keyed by strictly rising keys and
list no entry equal to the table's default (Machine/Store.lean, log entry 7). Widths that the spec gives a seat field are
kept as BitVec; counts, indexes, instants and sizes are Nat. -/
namespace Sys2Proof.Machine

/-- Why a command stops the block. -/
inductive Fault where
  /-- A misuse of R308 whose outcome the spec leaves undefined, with the number of the rule that names it. Raised by the
  register writes and by the commands whose operands break a "must". Safe: nothing is claimed of what follows. -/
  | misuse (rule : Nat)
  deriving DecidableEq, Repr

/-- Why a command has no meaning. -/
inductive Refusal where
  /-- An arm of `exec` without a meaning yet. Safe. -/
  | notModelled (mnemonic : String)
  deriving DecidableEq, Repr

/-- The part grades of R1; they differ in the number of Sieve lanes. -/
inductive Grade where
  | ab132 | ab124 | ab116
  deriving DecidableEq, Repr

/-- The ten seat states of R24. -/
inductive SeatState where
  | free | opening | routed | prefilling | ready | dealt | paused | spilled | draining | closed
  deriving DecidableEq, Repr

/-- The seat record of R22, words W0 to W31. -/
structure Seat where
  reqid : BitVec 64
  tenant : BitVec 12
  cls : BitVec 3
  state : SeatState
  role : BitVec 2
  cancel : Bool
  pauseReq : Bool
  stopSeen : Bool
  shipped : Bool
  gen : BitVec 16
  closeReason : BitVec 8
  arrival : BitVec 64
  ttftBud : BitVec 32
  tpotBud : BitVec 32
  firstTok : BitVec 32
  lastTok : BitVec 32
  promptLen : BitVec 24
  prefilled : BitVec 24
  chunk : BitVec 16
  maxTok : BitVec 24
  generated : BitVec 24
  lastEpoch : BitVec 48
  kvHead : BitVec 32
  kvTail : BitVec 32
  kvBlocks : BitVec 20
  shared : BitVec 20
  model : BitVec 6
  modelVs : BitVec 2
  adapter : BitVec 16
  adapterVs : BitVec 2
  lprefix : BitVec 16
  lprefixVs : BitVec 2
  draftM : BitVec 6
  draftVs : BitVec 2
  adapterOn : Bool
  lprefixOn : Bool
  draftOn : Bool
  modelVer : BitVec 16
  adapterVer : BitVec 16
  lprefixVer : BitVec 16
  draftVer : BitVec 16
  rngKey : BitVec 64
  nextPos : BitVec 32
  drawIdx : BitVec 16
  temp : BitVec 32
  topp : BitVec 32
  minp : BitVec 32
  thresh : BitVec 32
  topk : BitVec 20
  reppen : BitVec 32
  freqpen : BitVec 32
  prespen : BitVec 32
  pctPtr : BitVec 32
  pctUsed : BitVec 16
  stopMask : BitVec 8
  stopLens : BitVec 32
  tailLen : BitVec 4
  endTok : BitVec 20
  tail : List (BitVec 20)
  draftLen : BitVec 4
  draftMax : BitVec 4
  proposed : BitVec 16
  accepted : BitVec 16
  tricks : BitVec 24
  spillHandle : BitVec 32
  splitIdx : BitVec 16
  charged : BitVec 32
  pauseEpoch : BitVec 48
  pauses : BitVec 16
  scratch0 : BitVec 64
  scratch1 : BitVec 64
  scratch2 : BitVec 64
  deriving DecidableEq, Repr

/-- A block linked into a run by a lookup (R181): whether it was being fetched when it was linked, and whether it has passed
R178. -/
structure Link where
  blk : Nat
  fetched : Bool
  ok : Bool
  deriving DecidableEq, Repr

/-- A seat's lookup in progress (R181 to R183): blocks hashed, h of the last, probes outstanding in block order as (block, h),
the run linked so far, whether the scan has stopped, and ENDWHY. -/
structure Lookup where
  hashed : Nat
  h : BitVec 128
  probes : List (Nat × BitVec 128)
  run : List Link
  stopped : Bool
  why : Nat
  deriving DecidableEq, Repr

/-- A seat's shipment to the prompt pool (R193, R194): whether PREFILL_SHIP left, its tag and instant, the next block owed,
and the instant of the latest return. -/
structure Shipment where
  sent : Bool
  tag : Nat
  sentAt : Nat
  nextBlock : Nat
  lastAt : Nat
  deriving DecidableEq, Repr

/-- A spill or a fetch-back in progress (R191, R192): the blocks still owed, the entries of the image, the image handle. -/
structure Move where
  puts : List Nat
  entries : List ImgBlock
  resumeAfter : Bool
  deriving DecidableEq, Repr

/-- The admission decision's progress for a seat (R14, R17, R52): `admitted` until ADMIT leaves, `answered` after. When port G's session
ends, an unsent ADMIT makes it `dropped` and a sent one `lost` (R241). -/
inductive Phase where
  | undecided | awaitImage | refused | admitted | answered | dropped | lost
  deriving DecidableEq, Repr

/-- What the block holds for a seat index outside the 256 B record: prompt store, stop store, count table, context table,
Dealer side table, leases and the transfers under way. `base` is the CHARGED an image carried (R45), `sent` the tokens sent
on port G, `hits` is H of R41, `splitReady` the blocks of a stretch still owed, `toIndex` returned blocks to index at step 2,
`lease`, `leaseC`
and `leaseN` the seat lease of the running deal on ports G, C and N (R111), `leadPeer`, `fromPool` and `handles` what a follower's SPLIT_OPEN said, `gen0` and `res` GENERATED and RES of R44 at the
admission, `misuse` that the OPEN broke a "must" of R248 or R310, `ctxLost` that its context-table entry is unreadable (R305). -/
structure Side where
  phase : Phase
  kind : Nat
  closeAfter : Nat
  closeSent : Bool
  base : Nat
  sent : Nat
  hits : Nat
  toks : List Nat
  pages : List Nat
  emitted : List Nat
  stops : List (List Nat)
  pct : List (Nat × Nat)
  ctx : BitVec 128
  lookup : Option Lookup
  lookupDone : Bool
  ship : Option Shipment
  spill : Option Move
  back : Option Move
  image : Option Image
  rkey : Option (BitVec 64)
  passed : Bool
  dealableAt : Option Nat
  budgetEdges : Nat
  lease : Bool
  leaseC : Bool
  leaseN : Bool
  badReason : Nat
  settled : Bool
  members : List Member
  splitReady : List Nat
  toIndex : List Nat
  leadPeer : Nat
  fromPool : Bool
  handles : List Nat
  gen0 : Nat
  res : Nat
  misuse : Bool
  ctxLost : Bool
  deriving DecidableEq, Repr

/-- A tenant record, TW0 to TW3 (R40). LEVEL is the signed value of its 48-bit field. -/
structure Tenant where
  maxSeats : BitVec 16
  cap : BitVec 40
  liveSeats : BitVec 16
  level : BitVec 48
  wPrompt : BitVec 8
  wCached : BitVec 8
  wGen : BitVec 8
  classMask : BitVec 8
  refill : BitVec 32
  tseed : BitVec 32
  hitFrac : BitVec 16
  overdraft : BitVec 16
  deriving DecidableEq, Repr

/-- Per-class live count, attainment counts of the window, last window's attainment, TPD estimator (R48, R54, R65). -/
structure ClassSt where
  live : Nat
  first : Nat
  firstOn : Nat
  later : Nat
  laterOn : Nat
  attainTtft : Nat
  attainTpot : Nat
  tpd : Nat
  deriving DecidableEq, Repr

/-- The estimators of R54 and the cold state of R55; WINNUM, the last window edge and the length in µs of the window that runs
(R42, R64). -/
structure Est where
  base : Nat
  rowCost : Nat
  chunkCost : Nat
  poolBase : Nat
  poolKtok : Nat
  dealsObs : Nat
  cold : Bool
  winNum : Nat
  edgeAt : Nat
  winLen : Nat
  deriving DecidableEq, Repr

/-- A slot-table entry (R77). -/
structure Slot where
  valid : Bool
  priv : Bool
  group : Nat
  rowCap : Nat
  chunkCap : Nat
  seatCap : Nat
  deriving DecidableEq, Repr

/-- One seat of a deal (R88). `kind` is KIND of DEAL_SEAT, `group` the engine group of its dense slot in the bank of the
composition (R81). -/
structure DealSeat where
  seat : Nat
  gen : Nat
  kind : Nat
  followOn : Bool
  split : Bool
  bias : Bool
  suitId : Nat
  streamSlot : Nat
  denseSlot : Nat
  group : Nat
  lane : Nat
  rows : Nat
  kvHead : Nat
  kvTail : Nat
  chunkStart : Nat
  chunkLen : Nat
  newBlocks : Nat
  deriving DecidableEq, Repr

/-- One suit part of a deal (R87); `group` is the engine group of its stream slot. -/
structure SuitPart where
  id : Nat
  slot : Nat
  group : Nat
  members : Nat
  head : Nat
  shared : Nat
  deriving DecidableEq, Repr

/-- A composed deal (R86). -/
structure Deal where
  epoch : Nat
  model : Nat
  slot : Nat
  bank : Bool
  seats : List DealSeat
  suits : List SuitPart
  chunkTok : Nat
  cbudget : Nat
  kitty : Nat
  passed : Nat
  predNs : Nat
  considered : Nat
  idle : Bool
  deriving DecidableEq, Repr

/-- One feed entry (R90). -/
structure FeedEnt where
  seat : Nat
  gen : Nat
  basePos : Nat
  draftLen : Nat
  void : Bool
  inTok : Nat
  deriving DecidableEq, Repr

/-- A layer hold (R104): the layer, HOLDWHY, the object and the node waited for with the split-seat entry, and when it began. -/
structure Hold where
  layer : Nat
  why : Nat
  obj : Nat
  node : Nat
  entry : Nat
  since : Nat
  deriving DecidableEq, Repr

/-- The running deal (R101, R103). `through` is one more than the highest released layer; 4096 means every layer. `peers` gives, for
a split-seat lead, how many layers have every PARTIAL in; `voided` lists the seats whose rows are void. -/
structure Running where
  deal : Deal
  feed : List FeedEnt
  launchedAt : Nat
  through : Nat
  epochDone : Option Nat
  layerDone : Nat
  holdNs : Nat
  peers : List (Nat × Nat)
  voided : List Nat
  abandoned : Bool
  deriving DecidableEq, Repr

/-- An entry of the split-seat table (R106); `known` lists the members whose seat and generation have been entered, `bound` the
live bindings as (lead epoch, local epoch), oldest first (R107, R108). -/
structure SplitEnt where
  lead : Nat
  last : Nat
  self : Nat
  jEpoch : Nat
  localEpoch : Nat
  start : Nat
  len : Nat
  link : Nat
  members : List (Nat × Nat × Nat)
  known : List Nat
  bound : List (Nat × Nat)
  deriving DecidableEq, Repr

/-- An outstanding QUERY of the lead (R108, R109): seat, layer, members still owed, when its first copy left. -/
structure PeerWait where
  seat : Nat
  layer : Nat
  owed : List Nat
  since : Option Nat
  deriving DecidableEq, Repr

/-- An offer that waits for a follower's composition (R107). -/
structure Offer where
  seat : Nat
  el : Nat
  rows : Nat
  peer : Nat
  deriving DecidableEq, Repr

/-- A peer lease (R112): peer session, whether this node lent it, first epoch, length, what is left, last use. -/
structure PeerLease where
  peer : Nat
  lent : Bool
  el : Nat
  len : Nat
  msgs : Nat
  beats : Nat
  lastAt : Nat
  deriving DecidableEq, Repr

/-- Herald and Dealer state. `emptied` says that the composition made during the running deal selected no seat (R84), `fresh`
holds the tokens each seat emitted at the latest boundary until the next launch (R91). -/
structure Deals where
  nextEpoch : Nat
  runEpoch : Nat
  lastDone : Nat
  composing : Option Deal
  handed : Option Deal
  feed : List FeedEnt
  feedSent : Bool
  keyed : Bool
  running : Option Running
  boundaryOf : Option Nat
  boundaryAt : Nat
  emptied : Bool
  fresh : List (Nat × List Nat)
  prevModel : Option (Nat × Nat)
  dealsHanded : Nat
  hold : Option Hold
  stopped : Bool
  stopping : Bool
  stopMode : Nat
  pendStop : Option Nat
  bankA : List (Nat × Slot)
  bankB : List (Nat × Slot)
  active : Bool
  splits : List (Nat × SplitEnt)
  peerWaits : List PeerWait
  followWaits : List (Nat × Nat)
  offers : List Offer
  leases : List PeerLease
  deriving DecidableEq, Repr

/-- A held candidate entry with the flags of R123 (R130, R133, R134, R136); `ovf` says that it lies in the overflow region (R142). -/
structure Held where
  tok : Nat
  logit : Nat
  shard : Nat
  round : Nat
  dup : Bool
  tie : Bool
  sentinel : Bool
  pinf : Bool
  kept : Bool
  ovf : Bool
  deriving DecidableEq, Repr

/-- The latest summary of a shard (R126). -/
structure ShardSum where
  shard : Nat
  base : Nat
  span : Nat
  exhausted : Bool
  nextVal : Nat
  nextId : Nat
  remLse : Nat
  remCnt : Nat
  deriving DecidableEq, Repr

/-- The row selection record of R140, without HELD, SETTLED and LASTROUND, which are the row's own. -/
structure SelRec where
  count : Nat
  held : Nat
  settled : Nat
  lastRound : Nat
  dups : Nat
  cutBy : Nat
  short : Bool
  tieOver : Bool
  tieMore : Bool
  degen : Bool
  dup : Bool
  nanIn : Bool
  sortErr : Bool
  limit : Bool
  empty : Bool
  approx : Bool
  abandoned : Bool
  tiex : Nat
  bound : Nat
  lmax : Nat
  deriving DecidableEq, Repr

/-- An open row (R122, R128, R137); `bnd` is BOUND of its first evaluation (R135). -/
structure Row where
  seat : Nat
  gen : Nat
  row : Nat
  lane : Nat
  held : List Held
  sums : List ShardSum
  lastShard : Option Nat
  round : Nat
  want : List Nat
  overflow : Bool
  dups : Nat
  nanIn : Bool
  sortErr : Bool
  undef : Bool
  limit : Bool
  refilled : Bool
  reserved : Nat
  waiting : Option (List Nat × Nat × Bool)
  sampUsed : Bool
  sel : Option SelRec
  final : Bool
  approx : Bool
  bnd : Option Nat
  deriving DecidableEq, Repr

/-- A seat's progress through the deal at its lane (R157, R160). -/
structure SeatRun where
  seat : Nat
  gen : Nat
  lane : Nat
  kind : Nat
  dlen : Nat
  live : Nat
  drafts : Option (List Nat)
  i : Nat
  emitted : List Nat
  nacc : Nat
  stop : Option Nat
  ended : Bool
  flags : List Nat
  emptyDraw : Bool
  deriving DecidableEq, Repr

/-- A seat result record (R160); `drafted` says that the seat's DRAFTS message has been taken (R148). -/
structure Result where
  seat : Nat
  gen : Nat
  kind : Nat
  dlen : Nat
  ndraft : Nat
  nacc : Nat
  stop : Option Nat
  emitted : List Nat
  firstPos : Nat
  flags : List Nat
  shortDraft : Bool
  emptyDraw : Bool
  pctFull : Bool
  drafted : Bool
  deriving DecidableEq, Repr

/-- Sieve state; `back` holds the lists that port F keeps back, oldest first (R142). -/
structure SieveSt where
  rows : List Row
  runs : List SeatRun
  results : List Result
  rowsSeen : Nat
  rowsRefilled : Nat
  maxRound : Nat
  approxRows : Nat
  lastFinal : Nat
  lastLane : Nat
  lastRounds : Nat
  candCfgDue : Bool
  back : List CandMsg
  deriving DecidableEq, Repr

/-- A prefix-index entry (R172), `valid` being VALID. The table's key is the entry number, 8 x bucket + way. -/
structure IdxEnt where
  key : BitVec 128
  loc : Bool
  pool : Bool
  localBlk : Nat
  handle : Nat
  depth : Nat
  stamp : Nat
  valid : Bool
  deriving DecidableEq, Repr

/-- The state field of a block record (R175). -/
inductive BlkState where
  | free | filling | complete | fetching | returning
  deriving DecidableEq, Repr

/-- A block record (R175). -/
structure Blk where
  prev : Option Nat
  refs : Nat
  state : BlkState
  indexed : Bool
  pool : Bool
  putting : Bool
  name : BitVec 64
  handle : Nat
  stamp : Nat
  owner : Nat
  ownerGen : Nat
  owned : Bool
  idx : Nat
  toks : List Nat
  ctx : BitVec 128
  depth : Nat
  parent : BitVec 64
  hash : BitVec 128
  deriving DecidableEq, Repr

/-- What an outstanding tag of ports C, P and N stands for (R246). -/
inductive TagUse where
  | fetch (seat gen j blk handle : Nat)
  | backBlk (seat gen blk handle : Nat)
  | imageOpen (seat gen handle : Nat)
  | imageBack (seat gen handle : Nat)
  | putPublish (blk : Nat)
  | putSpill (seat gen blk : Nat)
  | putShip (seat gen blk : Nat)
  | imagePut (seat gen : Nat)
  | stretch (seat gen j blk handle : Nat)
  | repair (m s obj dst epoch since : Nat)
  deriving DecidableEq, Repr

/-- An object-table slot (R186): adapter or learned prefix. -/
structure ObjSlot where
  version : Nat
  pins : Nat
  live : Bool
  current : Bool
  waitPop : Bool
  model : Nat
  modelVer : Nat
  lpLen : Nat
  addr : BitVec 64
  bytes : Nat
  deriving DecidableEq, Repr

/-- KV steward state. `low` says that free blocks were below the low mark when the last command ended (R58). -/
structure Kv where
  index : List (Nat × IdxEnt)
  hot : List (Nat × List Nat)
  blocks : List (Nat × Blk)
  serial : Nat
  tags : List (Nat × TagUse)
  tagAt : List (Nat × Nat)
  nextTag : Nat
  objs : List (Nat × ObjSlot)
  retire : List (Nat × Nat × Nat)
  retireWait : List (Nat × Nat × Nat)
  heldPrompts : List PromptMsg
  low : Bool
  deriving DecidableEq, Repr

/-- A model-table slot (R205). -/
structure ModelSlot where
  f : ModelFields
  live : Bool
  current : Bool
  ready : Bool
  poisoned : Bool
  hotres : Bool
  loading : Bool
  pins : Nat
  chipBytes : Nat
  flashBytes : Nat
  hotBase : Nat
  stamp : Nat
  waitPop : Bool
  deriving DecidableEq, Repr

/-- A weight fetch queued or outstanding (R209, R211): version, object, destination kind, epoch served, and its ring place once it
has one. -/
structure Fetch where
  m : Nat
  s : Nat
  obj : Nat
  dst : Nat
  epoch : Nat
  since : Nat
  pos : Option Nat
  deriving DecidableEq, Repr

/-- Sequencer state. `ring` lists (epoch, layer, 4 KiB units, position) in order of issue, `ringEpochs` (epoch, model, slot),
`chipLoad` (model, slot, epoch, since), `chipNext` (model, slot, epoch), `hotWait` and `chipSet` (model, slot), `retire` (model,
slot, version), `stageWait` since when the head fetch has waited for ring room. -/
structure Seq where
  models : List (Nat × ModelSlot)
  store : List (Nat × Desc)
  scan : Option (Nat × Nat)
  queue : List Fetch
  out : List (Nat × Fetch)
  down : List Fetch
  nextTag : Nat
  placed : List Fetch
  ring : List (Nat × Nat × Nat × Nat)
  ringPos : Nat
  stageWait : Option Nat
  ringEpochs : List (Nat × Nat × Nat)
  chipSet : Option (Nat × Nat)
  chipLoad : Option (Nat × Nat × Nat × Nat)
  chipNext : Option (Nat × Nat × Nat)
  hotWait : List (Nat × Nat)
  hbmUp : Bool
  flashUp : Bool
  retire : List (Nat × Nat × Nat)
  retireWait : List (Nat × Nat × Nat)
  deriving DecidableEq, Repr

/-- One requester's request on one path of a gate (R221, R224, R227). -/
structure Req where
  requesting : Bool
  since : Nat
  lastEnd : Nat
  tag : Nat
  progress : Nat
  lapsed : Bool
  deriving DecidableEq, Repr

/-- One path of a gate (R223 to R226). `idle` marks a grant that began on an idle path, `grantAt` when the grant began, `obsAt` the
latest instant whose beats are known, `beatAt` an instant that the latest known beat is not before (R230). -/
structure PathSt where
  owner : Option Nat
  waiter : Bool
  moved : Nat
  grants : Nat
  sinceWaiter : Nat
  waiterDue : Bool
  idle : Bool
  grantAt : Nat
  obsAt : Nat
  beatAt : Nat
  deriving DecidableEq, Repr

/-- A transfer gate. Requests are keyed 16 x path + requester. `winLen` is the WINDOW of the current window, `winUsed` what had passed of
it in thirds of a ns when the gate was last frozen or its edge came, `winFrom` since when it runs (R222, R229). -/
structure GateSt where
  hfreeze : Bool
  left : Bool
  reqs : List (Nat × Req)
  counters : List (Nat × Nat)
  p0 : PathSt
  p1 : PathSt
  winLen : Nat
  winUsed : Nat
  winFrom : Option Nat
  deriving DecidableEq, Repr

/-- An inbound payload that waits in its port's buffer for its requester's grant (R220): the command, its gate, requester and TAG, and
its session, class and beats. -/
structure Gated where
  cmd : Instr
  g : Nat
  r : Nat
  tag : Nat
  port : Port
  peer : Nat
  cls : Nat
  beats : Nat
  deriving DecidableEq, Repr

/-- A message or launch word the block has put on a port: R5 words, and how many payload beats follow. -/
structure Msg where
  port : Port
  peer : Nat
  op : Nat
  words : List Word
  beats : Nat
  pay : List Word
  deriving DecidableEq, Repr

/-- An outbound message with its credit class; `reqid` and `kind` let R252 drop it (1 TOKENS, 2 CLOSE, 3 SPILLED, 4 ADMIT,
5 REFUSE, 6 SAG_REPLAY, 7 the IMAGE_FETCH of a resumption's OPEN, 8 a QUERY, whose `ntok` is its layer, 9 a PARTIAL, whose `ntok` is 1
when a QUERY is waited for after it (R109), 0 other). `atGate` says that it has waited for its gate alone. -/
structure OutItem where
  msg : Msg
  cls : Nat
  seat : Nat
  gen : Nat
  kind : Nat
  ntok : Nat
  queuedAt : Nat
  atGate : Bool
  deriving DecidableEq, Repr

/-- A session of a port (R240, R242). `gfree` counts, per class, the messages taken under greeting credit whose buffers are not yet free
(R245); `owed` the payload beats of messages begun that wait for payload credit; `full` the inbound credit of the session, three classes
and beats, as the registers read when it began (R261). -/
structure Sess where
  linkUp : Bool
  heloOut : Bool
  heloIn : Bool
  node : Nat
  era : Nat
  inn : List Nat
  innPay : Nat
  greet : Nat
  out : List Nat
  outPay : Nat
  ogreet : Nat
  popen : Bool
  gfree : List Nat
  owed : Nat
  full : List Nat
  deriving DecidableEq, Repr

/-- Ports state: sessions keyed 64 x port + peer, queues in order, the per-epoch lease pools of ports G and C (R111), port F egress. -/
structure Ports where
  open_ : List Nat
  sess : List (Nat × Sess)
  sessions : List (Nat × Nat)
  queue : List OutItem
  pool : Nat
  poolC : Nat
  fabricReady : Bool
  fCredit : List (Nat × Nat)
  fQueue : List (List Nat × Msg)
  gated : List Gated
  deriving DecidableEq, Repr

/-- A trace record, four words (R290). -/
structure TraceRec where
  w0 : Word
  w1 : Word
  w2 : Word
  w3 : Word
  deriving DecidableEq, Repr

/-- An operation-count table entry (R288). -/
structure OpsEnt where
  key : Word
  count : Nat
  first : Nat
  latest : Nat
  deriving DecidableEq, Repr

/-- Observation state. -/
structure Obs where
  cnt : List (Nat × Nat)
  snap : List (Nat × Nat)
  snapSeq : Nat
  bankSeq : Nat
  snapPend : Bool
  ops : List (Nat × OpsEnt)
  opsQueue : List (Nat × OpsRec)
  opsHeld : Option (Nat × Nat × List OpsRec)
  misses : Nat
  trcState : Nat
  trcCount : Nat
  post : Nat
  pre : Nat
  postMax : Nat
  staging : List (Nat × TraceRec)
  traced : Bool
  region : List (Nat × TraceRec)
  gap : Nat
  lost : Nat
  dropped : Nat
  trigAt : Nat
  dig : List (Nat × Word)
  digForce : List (Nat × Word)
  deriving DecidableEq, Repr

/-- A seat entry of the sag record (R278). -/
structure SagSeat where
  reqid : Word
  promptLen : Nat
  generated : Nat
  reason : Nat
  nextPos : Nat
  drawIdx : Nat
  tenant : Nat
  cls : Nat
  role : Nat
  deriving DecidableEq, Repr

/-- The sag record of keep-MRAM (R278). STATE: 0 being written, 1 valid, 2 consumed. -/
structure SagRec where
  era : Nat
  prior : Bool
  warnAt : Nat
  state : Nat
  levels : List (Nat × Nat)
  seats : List SagSeat
  deriving DecidableEq, Repr

/-- Keep-MRAM (R259, R270, R271, R278, R284). `forced` says that BEDROCKNEXT was written since the last start. -/
structure KeepMram where
  boots : Nat
  forced : Bool
  era : Nat
  sag : Option SagRec
  recTime : Nat
  sags : Nat
  cnt : List (Nat × Nat)
  deriving DecidableEq, Repr

/-- A section of the configuration image (R267). -/
inductive Section where
  | firmware (bytes : List Byte)
  | registers (entries : List (Nat × Word))
  | tenants (recs : List (List Word))
  | slots (entries : List Word)
  deriving DecidableEq, Repr

/-- A configuration that has been read and checked and waits to be applied (R267, R268): REASON, 0 for the image, and the image's
LENGTH, BUILDID and sections in directory order. -/
structure Pending where
  reason : Nat
  length : Nat
  buildId : Word
  sections : List Section
  deriving DecidableEq, Repr

/-- Start, power and supply state. -/
structure Power where
  state : Nat
  sagWarn : Bool
  mainGood : Bool
  started : Bool
  mode : Nat
  reason : Nat
  applied : Bool
  defaults : Bool
  imgLen : Nat
  buildId : Word
  pending : Option Pending
  cleared : Bool
  replay : Bool
  sagFound : Bool
  sagPrior : Bool
  replayed : Bool
  imgDone : Nat
  appliedAt : Nat
  portGOpen : Nat
  admitOpen : Nat
  wakeAt : Nat
  lastWake : Nat
  fallowAt : Nat
  warnAt : Nat
  recDone : Bool
  busUp : Bool
  startGood : Bool
  firmware : List Byte
  hold : List Instr
  locked : Option Nat
  holds : Nat
  heldDone : Option (Nat × Nat × Bool × Nat × List OpsRec)
  deriving DecidableEq, Repr

/-- The ledger's own state beside the seats (R37, R38): retired indices, seats whose directory entry was dropped, seats whose pins an
unreadable word held, and the scrubber's next word. -/
structure Ledger where
  seats : List (Nat × Seat)
  sides : List (Nat × Side)
  retired : List Nat
  lostDir : List Nat
  lostPins : List Nat
  scrub : Nat
  deriving DecidableEq, Repr

/-- The state of the block. `pending` is the queue of waiting commands, `egress` what the block has sent, newest first, and
`free` the number of free values drawn: these three are the model's own (log entries 1, 5). -/
structure State where
  pending : List Instr
  grade : Grade
  counter : BitVec 64
  keep : KeepMram
  pwr : Power
  regs : List (Nat × Word)
  force : List (Nat × Word)
  led : Ledger
  tenants : List (Nat × Tenant)
  classes : List (Nat × ClassSt)
  est : Est
  deals : Deals
  sieve : SieveSt
  kv : Kv
  seq : Seq
  gates : List (Nat × GateSt)
  ports : Ports
  obs : Obs
  egress : List Msg
  free : Nat
  deriving DecidableEq, Repr

/-- A seat that is Free with generation 0, as every seat is at a start (R20). -/
def Seat.empty : Seat where
  reqid := 0
  tenant := 0
  cls := 0
  state := .free
  role := 0
  cancel := false
  pauseReq := false
  stopSeen := false
  shipped := false
  gen := 0
  closeReason := 0
  arrival := 0
  ttftBud := 0
  tpotBud := 0
  firstTok := 0xFFFFFFFF
  lastTok := 0xFFFFFFFF
  promptLen := 0
  prefilled := 0
  chunk := 0
  maxTok := 0
  generated := 0
  lastEpoch := 0
  kvHead := 0xFFFFFFFF
  kvTail := 0xFFFFFFFF
  kvBlocks := 0
  shared := 0
  model := 0
  modelVs := 0
  adapter := 0
  adapterVs := 0
  lprefix := 0
  lprefixVs := 0
  draftM := 0
  draftVs := 0
  adapterOn := false
  lprefixOn := false
  draftOn := false
  modelVer := 0
  adapterVer := 0
  lprefixVer := 0
  draftVer := 0
  rngKey := 0
  nextPos := 0
  drawIdx := 0
  temp := 0
  topp := 0
  minp := 0
  thresh := 0
  topk := 0
  reppen := 0
  freqpen := 0
  prespen := 0
  pctPtr := 0
  pctUsed := 0
  stopMask := 0
  stopLens := 0
  tailLen := 0
  endTok := 0
  tail := []
  draftLen := 0
  draftMax := 0
  proposed := 0
  accepted := 0
  tricks := 0
  spillHandle := 0xFFFFFFFF
  splitIdx := 0xFFFF
  charged := 0
  pauseEpoch := 0
  pauses := 0
  scratch0 := 0
  scratch1 := 0
  scratch2 := 0

/-- Nothing held for a seat index. -/
def Side.empty : Side where
  phase := .undecided
  kind := 0
  closeAfter := 0
  closeSent := false
  base := 0
  sent := 0
  hits := 0
  toks := []
  pages := []
  emitted := []
  stops := []
  pct := []
  ctx := 0
  lookup := none
  lookupDone := false
  ship := none
  spill := none
  back := none
  image := none
  rkey := none
  passed := false
  dealableAt := none
  budgetEdges := 0
  lease := false
  leaseC := false
  leaseN := false
  badReason := 0
  settled := false
  members := []
  splitReady := []
  toIndex := []
  leadPeer := 0
  fromPool := false
  handles := []
  gen0 := 0
  res := 0
  misuse := false
  ctxLost := false

/-- A tenant record that nothing has filled (R40). -/
def Tenant.empty : Tenant := ⟨0, 0, 0, 0, 0, 0, 0, 0, 0, 0, 0, 0⟩

/-- A class at start (R65). -/
def ClassSt.start : ClassSt := ⟨0, 0, 0, 0, 0, 0xFFFF, 0xFFFF, 0x0180⟩

/-- The estimators at start under the factory priors (R54, R64). -/
def Est.start : Est := ⟨2000000, 200, 190, 20, 150, 0, true, 0, 0, 100000⟩

/-- A slot-table entry that takes no work. -/
def Slot.empty : Slot := ⟨false, false, 0, 0, 0, 0⟩

/-- A split-seat table entry that nothing has filled. -/
def SplitEnt.empty : SplitEnt := ⟨0, 0, 0, 0, 0, 0, 0, 0, [], [], []⟩

/-- The members of a split seat: words beyond LASTMEMBER are ignored (R106). -/
def SplitEnt.mem (e : SplitEnt) : List (Nat × Nat × Nat) := e.members.take (e.last + 1)

/-- The members other than this node's whose seat is known, in order. -/
def SplitEnt.others (e : SplitEnt) : List (Nat × Nat × Nat) :=
  (e.mem.zipIdx.filter fun m => m.2 != e.self && e.known.contains m.2).map (·.1)

/-- An index entry that is not valid. -/
def IdxEnt.empty : IdxEnt := ⟨0, false, false, 0, 0, 0, 0, false⟩

/-- A Free block record (R197). -/
def Blk.empty : Blk := ⟨none, 0, .free, false, false, false, 0, 0, 0, 0, 0, false, 0, [], 0, 0, 0, 0⟩

/-- An object-table slot that is not live. -/
def ObjSlot.empty : ObjSlot := ⟨0, 0, false, false, false, 0, 0, 0, 0, 0⟩

/-- A model-table slot at start (R205). -/
def ModelSlot.empty : ModelSlot :=
  ⟨⟨0, 0, 0, 0, 0, 0, 0, 0, 0, 0, 0, 0⟩, false, false, false, false, false, false, 0, 0, 0, 0, 0, false⟩

/-- A weight object descriptor at start (R206). -/
def Desc.empty : Desc := ⟨0, 0, 0, 0, false, false, false, 0, 0, 0, 0, 0⟩

/-- A requester that has raised no request. -/
def Req.empty : Req := ⟨false, 0, 0, 0, 0, false⟩

/-- A gate path without an owner. -/
def PathSt.empty : PathSt := ⟨none, false, 0, 0, 0, false, false, 0, 0, 0⟩

/-- A gate in its start freeze (R222). -/
def GateSt.empty : GateSt := ⟨false, false, [], [], PathSt.empty, PathSt.empty, 0, 0, none⟩

/-- A port without link or session (R240). -/
def Sess.empty : Sess := ⟨false, false, false, 0, 0, [0, 0, 0], 0, 8, [0, 0, 0], 0, 8, false, [0, 0, 0], 0, [0, 0, 0, 0]⟩

/-- No sag record, no start counted: keep-MRAM before its first use (log entry 3). -/
def KeepMram.blank : KeepMram := ⟨0, false, 0, none, 0, 0, []⟩

/-- The start, power and supply state before the first start instant. -/
def Power.off : Power where
  state := 0
  sagWarn := false
  mainGood := false
  started := false
  mode := 0
  reason := 0
  applied := false
  defaults := false
  imgLen := 0
  buildId := 0
  pending := none
  cleared := false
  replay := false
  sagFound := false
  sagPrior := false
  replayed := false
  imgDone := 0xFFFF
  appliedAt := 0xFFFF
  portGOpen := 0xFFFF
  admitOpen := 0xFFFF
  wakeAt := 0
  lastWake := 0
  fallowAt := 0
  warnAt := 0
  recDone := false
  busUp := false
  startGood := false
  firmware := []
  hold := []
  locked := none
  holds := 0
  heldDone := none

/-- Herald and Dealer at start: the first deal carries epoch 1 (R96). -/
def Deals.start : Deals where
  nextEpoch := 1
  runEpoch := 0
  lastDone := 0
  composing := none
  handed := none
  feed := []
  feedSent := false
  keyed := false
  running := none
  boundaryOf := none
  boundaryAt := 0
  emptied := false
  fresh := []
  prevModel := none
  dealsHanded := 0
  hold := none
  stopped := false
  stopping := false
  stopMode := 0
  pendStop := none
  bankA := []
  bankB := []
  active := false
  splits := []
  peerWaits := []
  followWaits := []
  offers := []
  leases := []

/-- The Sieve with no row open. -/
def SieveSt.start : SieveSt := ⟨[], [], [], 0, 0, 0, 0, 0, 0, 0, false, []⟩

/-- The KV steward after the clearing of R197; the serial starts at 1 (R176). -/
def Kv.start : Kv := ⟨[], [], [], 1, [], [], 1, [], [], [], [], false⟩

/-- The sequencer at start. -/
def Seq.start : Seq := ⟨[], [], none, [], [], [], 1, [], [], 0, none, [], none, none, none, [], false, false, [], []⟩

/-- The ports at start: port M (6) is open from the start instant (R262). -/
def Ports.start : Ports := ⟨[6], [], [], [], 0, 0, false, [], [], []⟩

/-- The observation unit at start (R284, R300). -/
def Obs.start : Obs := ⟨[], [], 0, 0, false, [], [], none, 0, 0, 0, 0, 1048576, 65536, [], false, [], 0, 0, 0, 0, [], []⟩

/-- The ledger at start: every seat Free with generation 0 (R20). -/
def Ledger.start : Ledger := ⟨[], [], [], [], [], 0⟩

/-- The block right after reset: at the start instant with nothing read yet. Every register reads its value at start. -/
def State.reset : State where
  pending := []
  grade := .ab132
  counter := 0
  keep := KeepMram.blank
  pwr := Power.off
  regs := []
  force := []
  led := Ledger.start
  tenants := []
  classes := []
  est := Est.start
  deals := Deals.start
  sieve := SieveSt.start
  kv := Kv.start
  seq := Seq.start
  gates := []
  ports := Ports.start
  obs := Obs.start
  egress := []
  free := 0

end Sys2Proof.Machine
end

