-- ==== Sys2Proof/Machine/Store.lean ====
section
/-! DEFINITION. Sparse tables: the one representation of every indexed memory of the block (seats, tenants, slots, block
records, index, counters, trace region ...). A table lists its entries in strictly rising key order and lists no entry equal
to what an unlisted key reads as, so that equal tables are equal data (log entry 7). -/
namespace Sys2Proof.Machine

/-- What a key reads as: its listed value, or the default. -/
def tget {α : Type} (d : α) : List (Nat × α) → Nat → α
  | [], _ => d
  | (k, v) :: r, n => if n = k then v else tget d r n

/-- The table without the key. -/
def tdel {α : Type} : List (Nat × α) → Nat → List (Nat × α)
  | [], _ => []
  | (k, v) :: r, n => if n = k then tdel r n else (k, v) :: tdel r n

/-- The table with the key listed at its place. -/
def tins {α : Type} : List (Nat × α) → Nat → α → List (Nat × α)
  | [], n, a => [(n, a)]
  | (k, v) :: r, n, a =>
    if n < k then (n, a) :: (k, v) :: r
    else if n = k then (n, a) :: r
    else (k, v) :: tins r n a

/-- A write that keeps the canonical form: writing the default removes the entry. -/
def tput {α : Type} [DecidableEq α] (d : α) (m : List (Nat × α)) (n : Nat) (a : α) : List (Nat × α) :=
  if a = d then tdel m n else tins m n a

/-- Every key of the table is above `n`. -/
def tabove {α : Type} (n : Nat) : List (Nat × α) → Bool
  | [] => true
  | (k, _) :: r => decide (n < k) && tabove n r

/-- The canonical form: keys strictly rising, no entry equal to what its key reads as when unlisted. -/
def twf {α : Type} [DecidableEq α] (d : Nat → α) : List (Nat × α) → Bool
  | [] => true
  | (k, v) :: r => decide (v ≠ d k) && tabove k r && twf d r

/-- A table with every listed value changed; entries that become the default are dropped. -/
def tmap {α : Type} [DecidableEq α] (d : α) (f : Nat → α → α) : List (Nat × α) → List (Nat × α)
  | [] => []
  | (k, v) :: r => if f k v = d then tmap d f r else (k, f k v) :: tmap d f r

/-- Insertion into a list sorted by `le`, after the elements it is not before. -/
def sortIns {α : Type} (le : α → α → Bool) (a : α) : List α → List α
  | [] => [a]
  | b :: r => if le a b then a :: b :: r else b :: sortIns le a r

/-- Insertion sort; stable when `le` is total: of two equal elements the earlier one stays first. -/
def sortBy {α : Type} (le : α → α → Bool) : List α → List α
  | [] => []
  | a :: r => sortIns le a (sortBy le r)

/-- Sum of a list of numbers. -/
def sumOf : List Nat → Nat
  | [] => 0
  | a :: r => a + sumOf r

/-- The element of a list for which `lt` holds against every other, the first of equals. -/
def bestOf {α : Type} (lt : α → α → Bool) : List α → Option α
  | [] => none
  | a :: r => match bestOf lt r with
    | none => some a
    | some b => if lt b a then some b else some a

/-- Ceiling division; 0 when the divisor is 0. -/
def ceilDiv (a b : Nat) : Nat := if b = 0 then 0 else (a + b - 1) / b

/-- A list cut into pieces of `n`, with fuel. -/
def chunksOf {α : Type} (n : Nat) : Nat → List α → List (List α)
  | 0, _ => []
  | _, [] => []
  | f + 1, l => l.take n :: chunksOf n f (l.drop n)

/-- Fields packed into a word, most significant first, as (width, value); a value too wide is cut (R5). -/
def pack (fs : List (Nat × Nat)) : Word :=
  BitVec.ofNat 64 (fs.foldl (fun w f => w * 2 ^ f.1 + f.2 % 2 ^ f.1) 0)

/-- Token ids three to a word, at 59:40, 39:20 and 19:0, unused slots zero (R249, R251). -/
def packToks : Nat → List Nat → List Word
  | 0, _ => []
  | _, [] => []
  | f + 1, l =>
    pack [(4, 0), (20, l.getD 0 0), (20, l.getD 1 0), (20, l.getD 2 0)] :: packToks f (l.drop 3)

/-- The least number from `i` on, among the next `n`, that is not taken. -/
def firstFree (taken : Nat → Bool) : Nat → Nat → Option Nat
  | 0, _ => none
  | n + 1, i => if taken i then firstFree taken n (i + 1) else some i

/-- A left fold of state updates over a list. -/
def each {σ α : Type} (f : α → σ → σ) : List α → σ → σ
  | [], s => s
  | a :: r, s => each f r (f a s)

/-- A list with its `i`-th element changed. -/
def modNth {α : Type} (f : α → α) : List α → Nat → List α
  | [], _ => []
  | a :: r, 0 => f a :: r
  | a :: r, i + 1 => a :: modNth f r i

/-- A list without repeats, the first of equals kept. -/
def nodupNat : List Nat → List Nat
  | [] => []
  | a :: r => a :: (nodupNat r).filter (fun b => b != a)

/-- A value no greater than a limit. -/
def sat (lim v : Nat) : Nat := if lim < v then lim else v

/-- A truth value as a bit. -/
def bit (b : Bool) : Nat := if b then 1 else 0

end Sys2Proof.Machine
end

