-- ==== Sys2Proof/Machine/Ops.lean ====
section
/-! DEFINITION. The named operations every family of commands uses: register and field access with the values at start, the
local counter, the event counters, the synchronisation trace, access to seats, side tables, tenants and classes, free values,
and messages. -/
namespace Sys2Proof.Machine

/-- Sieve lanes of a grade (R1). -/
def Grade.lanes : Grade → Nat
  | .ab132 => 32
  | .ab124 => 24
  | .ab116 => 16

/-- The number of a port (R261). -/
def portNo : Port → Nat
  | .G => 0
  | .P => 1
  | .C => 2
  | .N => 3
  | .T => 4
  | .F => 5
  | .M => 6

/-- The port of a number. -/
def portOf (n : Nat) : Port := [Port.G, .P, .C, .N, .T, .F].getD n .M

/-- The number of a gate (R220). -/
def gateNo : Gate → Nat
  | .clink => 0
  | .tstream => 1
  | .nlink => 2

/-- PHASEAT at start of port p, in ms (R262). -/
def phaseStart (p : Nat) : Nat := [200, 160, 80, 120, 40, 20, 0].getD p 0

/-- Inbound credit at start of port p and class k (R262); class 0 of port G is OPENCREDIT. -/
def creditStart (p k : Nat) : Nat :=
  ([[0, 64, 64], [64, 16, 0], [256, 64, 64], [256, 256, 64], [64, 0, 0]].getD p [0, 0, 0]).getD k 0

/-- Inbound payload credit at start of port p (R262). -/
def payStart (p : Nat) : Nat := [0, 65536, 131072, 131072, 0].getD p 0

/-- PRIO at start of requester r of gate g (R237). -/
def prioStart (g r : Nat) : Nat :=
  ([[0, 0, 0, 0, 0, 1], [0, 1, 0], [1, 1, 1, 0]].getD g []).getD r 0

/-- SHARE at start of requester r of gate g (R237). -/
def shareStart (g r : Nat) : Nat :=
  ([[1024, 768, 512, 256, 1024, 512], [2048, 1536, 512], [1536, 1536, 512, 512]].getD g []).getD r 0

/-- Ends of the HBM-window regions under defaults, in 64 B units, chained from the trace region (R143, R167, R202, R219,
R300; the overflow region holds 512 Ki units per lane). -/
def regionStart (lanes k : Nat) : Nat :=
  let ovf := 0x100000
  let pct := ovf + lanes * 0x80000
  let index := pct + 0x200000
  let recs := index + 0x800000
  let prompt := recs + 0x100000
  let obj := prompt + 0x100000
  let modtab := obj + 0x4000
  let store := modtab + 0x100
  let ops := store + 0x80000
  let stop := ops + 0x20000
  [ovf, pct, index, recs, prompt, obj, modtab, store, ops, stop].getD k 0

/-- The value at start of the register at an offset: the factory default where the tables give one (R7, R269). -/
def regDefault (g : Grade) (off : Nat) : Word :=
  let base := match regAt off with
    | some r => r.startWord
    | none => 0
  if off = 0x2810 then Config.romHashKey0
  else if off = 0x2818 then Config.romHashKey1
  else if off = 0x2008 then BitVec.ofNat 64 (2 ^ g.lanes - 1)
  else if off = 0x2018 then F.SIEVE_OVFBASE_BASE.put (regionStart g.lanes 0) base
  else if off = 0x2050 then F.SIEVE_PCTCFG_BASE.put (regionStart g.lanes 1) base
  else if off = 0x2820 then F.PKV_INDEXBASE_BASE.put (regionStart g.lanes 2) base
  else if off = 0x2828 then F.PKV_RECBASE_BASE.put (regionStart g.lanes 3) base
  else if off = 0x2850 then F.PKV_PROMPTCFG_BASE.put (regionStart g.lanes 4) base
  else if off = 0x2878 then F.PKV_OBJBASE_BASE.put (regionStart g.lanes 5) base
  else if off = 0x3010 then F.MOD_TABBASE_BASE.put (regionStart g.lanes 6) base
  else if off = 0x3018 then F.MOD_OBJSTORE_BASE.put (regionStart g.lanes 7) base
  else if off = 0x6058 then F.OPS_BASE_BASE.put (regionStart g.lanes 8) base
  else if off = 0x2070 then F.SIEVE_STOPBASE_BASE.put (regionStart g.lanes 9) base
  else if 0x4000 ≤ off ∧ off < 0x4700 then
    let p := (off - 0x4000) / 0x100
    let k := off % 0x100
    if k = 0x10 then (F.PORT_CFG_PHASEAT p).put (phaseStart p) base
    else if k = 0x18 then
      (F.PORT_CREDIT_CLASS0 p).put (creditStart p 0) ((F.PORT_CREDIT_CLASS1 p).put (creditStart p 1)
        ((F.PORT_CREDIT_CLASS2 p).put (creditStart p 2) base))
    else if k = 0x20 then (F.PORT_PAYCRED_BEATS p).put (payStart p) base
    else base
  else if 0x3800 ≤ off ∧ off < 0x3E00 then
    let gt := (off - 0x3800) / 0x200
    let k := (off - 0x3800) % 0x200
    if k = 8 then (F.GATE_CFG_BURST gt).put (if gt = 1 then 64 else 256) base
    else if 0x80 ≤ k ∧ k < 0x100 then
      let r := (k - 0x80) / 8
      (F.GATE_SHARE_SHARE gt r).put (shareStart gt r) ((F.GATE_SHARE_PRIO gt r).put (prioStart gt r)
        ((F.GATE_SHARE_ENABLE gt r).put 1 base))
    else base
  else base

/-- The stored value of the register at an offset. -/
def State.reg (s : State) (off : Nat) : Word := tget (regDefault s.grade off) s.regs off

/-- The stored value of a field. -/
def State.fld (s : State) (f : Fld) : Nat := f.get (s.reg f.off)

/-- The value in force of an RD field (R7): what the register held at the last step 8 or configuration apply. -/
def State.rd (s : State) (f : Fld) : Nat := f.get (tget (regDefault s.grade f.off) s.force f.off)

/-- A stored field that is set. -/
def State.on (s : State) (f : Fld) : Bool := s.fld f != 0

/-- The store of a register word. -/
def setReg (off : Nat) (w : Word) (s : State) : State :=
  { s with regs := tput (regDefault s.grade off) s.regs off w }

/-- The store of a field. -/
def setFld (f : Fld) (v : Nat) (s : State) : State := setReg f.off (f.put v (s.reg f.off)) s

/-- A flag of a register is set (it clears by W1C). -/
def setFlag (f : Fld) (s : State) : State := setFld f 1 s

/-- The local counter in ns (R264). -/
def State.now (s : State) : Nat := s.counter.toNat

/-- The local counter in µs. -/
def State.nowUs (s : State) : Nat := s.now / 1000

/-- The command's instant: the local counter moves on in steps of 16 ns and never back (R264; log entry 6). -/
def tick (t : BitVec 64) (s : State) : State :=
  let v := t.toNat - t.toNat % 16
  if s.counter.toNat < v then { s with counter := BitVec.ofNat 64 v } else s

/-- What passes while no command waits: the local counter runs on by 16 ns, once it has started (R264; log entry 8). -/
def idleStep (s : State) : State :=
  if s.pwr.started then { s with counter := s.counter + 16 } else s

/-- Counter value `v` raised by `n`, saturating at 2^48 - 1 (R284). -/
def satAdd48 (v n : Nat) : Nat := sat 281474976710655 (v + n)

/-- Adds an amount to event counter `c`; 0xF0 to 0xF7 are in the keep domain (R284, R285). -/
def bumpN (c n : Nat) (s : State) : State :=
  if 0xF0 ≤ c ∧ c ≤ 0xF7 then
    { s with keep := { s.keep with cnt := tput 0 s.keep.cnt c (satAdd48 (tget 0 s.keep.cnt c) n) } }
  else
    { s with obs := { s.obs with cnt := tput 0 s.obs.cnt c (satAdd48 (tget 0 s.obs.cnt c) n) } }

/-- Adds one event to counter `c`. -/
def bump (c : Nat) (s : State) : State := bumpN c 1 s

/-- Event counter `c`. -/
def State.cnt (s : State) (c : Nat) : Nat :=
  if 0xF0 ≤ c ∧ c ≤ 0xF7 then tget 0 s.keep.cnt c else tget 0 s.obs.cnt c

/-- A free value: the next value the spec leaves open (log entry 1). -/
def takeFree (s : State) : Nat × State := (Config.freeNat s.free, { s with free := s.free + 1 })

/-- A message: the header of R85 with LENGTH counted, the other 44 bits of word 0, and the later words. -/
def mkMsg (p : Port) (peer op : Nat) (w0 : List (Nat × Nat)) (rest : List Word) (beats : Nat) (pay : List Word) : Msg :=
  ⟨p, peer, op, pack ([(8, op), (12, rest.length + 1)] ++ w0) :: rest, beats, pay⟩

/-- The message leaves: it joins the record of what the block sent, newest first (log entry 5). -/
def emit (m : Msg) (s : State) : State := { s with egress := m :: s.egress }

/-- A seat of the ledger. -/
def State.seat (s : State) (i : Nat) : Seat := tget Seat.empty s.led.seats i

/-- What the block holds for a seat index beside the record. -/
def State.side (s : State) (i : Nat) : Side := tget Side.empty s.led.sides i

/-- The write of a seat record. -/
def setSeat (i : Nat) (a : Seat) (s : State) : State :=
  { s with led := { s.led with seats := tput Seat.empty s.led.seats i a } }

/-- A change of a seat record. -/
def modSeat (i : Nat) (f : Seat → Seat) (s : State) : State := setSeat i (f (s.seat i)) s

/-- The write of a side entry. -/
def setSide (i : Nat) (a : Side) (s : State) : State :=
  { s with led := { s.led with sides := tput Side.empty s.led.sides i a } }

/-- A change of a side entry. -/
def modSide (i : Nat) (f : Side → Side) (s : State) : State := setSide i (f (s.side i)) s

/-- A tenant record (R40). -/
def State.tenant (s : State) (t : Nat) : Tenant := tget Tenant.empty s.tenants t

/-- A change of a tenant record. -/
def modTenant (t : Nat) (f : Tenant → Tenant) (s : State) : State :=
  { s with tenants := tput Tenant.empty s.tenants t (f (s.tenant t)) }

/-- A class (R65). -/
def State.cls (s : State) (c : Nat) : ClassSt := tget ClassSt.start s.classes c

/-- A change of a class. -/
def modCls (c : Nat) (f : ClassSt → ClassSt) (s : State) : State :=
  { s with classes := tput ClassSt.start s.classes c (f (s.cls c)) }

/-- A change of the ledger. -/
def modLed (f : Ledger → Ledger) (s : State) : State := { s with led := f s.led }

/-- A change of the Herald and Dealer state. -/
def modDeals (f : Deals → Deals) (s : State) : State := { s with deals := f s.deals }

/-- A change of the Sieve state. -/
def modSieve (f : SieveSt → SieveSt) (s : State) : State := { s with sieve := f s.sieve }

/-- A change of the KV steward state. -/
def modKv (f : Kv → Kv) (s : State) : State := { s with kv := f s.kv }

/-- A change of the sequencer state. -/
def modSeq (f : Seq → Seq) (s : State) : State := { s with seq := f s.seq }

/-- A change of the ports state. -/
def modPorts (f : Ports → Ports) (s : State) : State := { s with ports := f s.ports }

/-- A change of the observation state. -/
def modObs (f : Obs → Obs) (s : State) : State := { s with obs := f s.obs }

/-- A change of the power state. -/
def modPwr (f : Power → Power) (s : State) : State := { s with pwr := f s.pwr }

/-- Seat indices whose record is not that of a never used seat, rising. -/
def State.seatIdx (s : State) : List Nat := s.led.seats.map (·.1)

/-- Seat indices in one of the given states, rising. -/
def State.seatsIn (s : State) (l : List SeatState) : List Nat :=
  (s.led.seats.filter (fun e => l.contains e.2.state)).map (·.1)

/-- The code of a seat state (R24). -/
def SeatState.code : SeatState → Nat
  | .free => 0
  | .opening => 1
  | .routed => 2
  | .prefilling => 3
  | .ready => 4
  | .dealt => 5
  | .paused => 6
  | .spilled => 7
  | .draining => 8
  | .closed => 9

/-- Bedrock mode (R271). -/
def State.bedrock (s : State) : Bool := s.pwr.mode == 2

/-- The seat's reference is current (R20). -/
def State.current (s : State) (i gen : Nat) : Bool :=
  (s.seat i).gen.toNat == gen && (s.seat i).state != .free

/-- The main domain runs: from main power good until fallow or a sag warning (R263, R265). -/
def State.mainOn (s : State) : Bool := s.pwr.mainGood

/-- Command bits of main-domain units are taken: not while STATE is 3 or 4 (R322). -/
def State.cmdOn (s : State) : Bool := s.pwr.mainGood && s.pwr.state != 3 && s.pwr.state != 4

/-! The synchronisation trace (R290 to R293). -/

/-- A trace record from its fields (R290). -/
def mkTrc (kind epoch wf waiter layer start dur : Nat) (cut : Bool) (detail : Nat) : TraceRec :=
  ⟨pack [(6, kind), (10, 0), (48, epoch)], pack [(24, wf), (16, waiter), (12, layer), (12, 0)],
    BitVec.ofNat 64 start, pack [(40, sat 1099511627775 dur), (1, 0), (1, bit cut), (22, detail)]⟩

/-- KIND of a record. -/
def TraceRec.kind (r : TraceRec) : Nat := r.w0.toNat / 2 ^ 58

/-- DURATION of a record. -/
def TraceRec.dur (r : TraceRec) : Nat := r.w3.toNat / 2 ^ 24

/-- The record with TRIGGER set. -/
def TraceRec.fired (r : TraceRec) : TraceRec := { r with w3 := r.w3 ||| 0x800000 }

/-- A gap marker (R290). -/
def gapRec (n : Nat) : TraceRec := mkTrc 0x1F 0 0 0 0xFFF 0 0 false (sat 4194303 n)

/-- The record is staged for a slot; at a full staging buffer it is dropped (R292). -/
def stageRec (slot : Nat) (r : TraceRec) (o : Obs) : Obs :=
  if o.staging.length < 8192 then { o with staging := o.staging ++ [(slot, r)] }
  else { o with dropped := satAdd48 o.dropped 1, gap := o.gap + 1 }

/-- Post-trigger capture is full: the trace freezes with its gap marker (R293). -/
def freezeTrace (o : Obs) : Obs :=
  stageRec (o.pre + o.postMax + 1) (gapRec o.gap) { o with trcState := 3, gap := 0 }

/-- The next slot takes a record while armed or after the trigger; a frozen trace loses it (R293). -/
def placeRec (r : TraceRec) (o : Obs) : Obs :=
  if o.trcState = 1 then
    stageRec (o.trcCount % o.pre) r { o with trcCount := o.trcCount + 1 }
  else if o.trcState = 2 then
    let o := stageRec (o.pre + 1 + o.post) r { o with post := o.post + 1 }
    if o.postMax ≤ o.post then freezeTrace o else o
  else if o.trcState = 3 then { o with lost := satAdd48 o.lost 1 }
  else o

/-- The trigger: the firing record goes to slot PRE and post-trigger capture begins (R293). -/
def fireTrace (now : Nat) (r : TraceRec) (o : Obs) : Obs :=
  let o := stageRec o.pre r.fired { o with trcState := 2, post := 0, trigAt := now }
  if o.postMax = 0 then freezeTrace o else o

/-- A record reaches the ingest: KINDMASK and TRCEN, the gap marker due, the trigger test, its slot (R291 to R293). -/
def trace (r : TraceRec) (s : State) : State :=
  if !s.on F.OBS_CTRL_TRCEN || !(s.reg 0x6020).getLsbD r.kind then s
  else
    let o := s.obs
    if o.trcState = 0 then s
    else if o.trcState = 3 then { s with obs := placeRec r o }
    else if 8192 ≤ o.staging.length then
      { s with obs := { o with dropped := satAdd48 o.dropped 1, gap := o.gap + 1 } }
    else
      let o := if 0 < o.gap then placeRec (gapRec o.gap) { o with gap := 0 } else o
      let src := s.fld F.TRC_TRIG_SOURCE
      let kindHit := (src == 1 || src == 3) && r.kind == s.fld F.TRC_TRIG_TRIGKIND
      let longHit := (src == 2 || src == 3) && decide (1 ≤ r.kind ∧ r.kind ≤ 0xD)
        && decide (s.fld F.TRC_TRIG_TRIGNS ≤ r.dur)
      if o.trcState = 1 ∧ (kindHit || longHit) = true then { s with obs := fireTrace s.now r o }
      else { s with obs := placeRec r o }

/-- A wait record of the kinds that MINWAIT filters (R291). -/
def traceWait (kind epoch wf waiter layer start : Nat) (detail : Nat) (s : State) : State :=
  let d := s.now - start
  if 64 * s.fld F.TRC_CFG_MINWAIT ≤ d then trace (mkTrc kind epoch wf waiter layer start d false detail) s else s

/-- The epoch concerned by a record written now: the running deal's, or 0. -/
def State.epochNow (s : State) : Nat := match s.deals.running with
  | some r => r.deal.epoch
  | none => 0

end Sys2Proof.Machine
end

