-- ==== Sys2Proof/Machine/Flags.lean ====
section
/-! DEFINITION. The W1C flags as a whole: which registers hold them and whether one is set (R7, R319). -/
namespace Sys2Proof.Machine

/-- The registers with W1C bits that STAT_ERRSUM sums up, by its bits (R319). -/
def flagRegs : List Nat :=
  [0x188, 0x1008, 0x2020, 0x2058, 0x28c0, 0x3078, 0x3818, 0x3a18, 0x3c18, 0x4028, 0x4128, 0x4228, 0x4328, 0x4428, 0x4528, 0x4628]

/-- A W1C bit of the register at an offset is set. -/
def State.flagged (s : State) (off : Nat) : Bool := match regAt off with
  | some r => s.reg off &&& r.maskOf [.W1C] != 0
  | none => false

/-- STAT_ERRSUM: bit `k` reads 1 while the `k`-th flag register has a W1C bit set (R319). -/
def State.errSum (s : State) : Nat :=
  (flagRegs.zipIdx.filter fun e => s.flagged e.1).foldl (fun m e => m + 2 ^ e.2) 0

end Sys2Proof.Machine
end

