-- ==== Sys2Proof/Machine/Hash.lean ====
section
/-! DEFINITION. The keyed functions the spec names: SipHash-2-4 with 128-bit and 64-bit output (R169, R170, R288, R294),
Philox-4x32-10 (R155), and CRC-32C (R266). Their published algorithms are taken as they are known (log entry 9). -/
namespace Sys2Proof.Machine

/-- The four words of SipHash's state. -/
structure Sip where
  v0 : Word
  v1 : Word
  v2 : Word
  v3 : Word
  deriving DecidableEq, Repr

/-- One SipRound. -/
def sipRound (s : Sip) : Sip :=
  let v0 := s.v0 + s.v1
  let v1 := s.v1.rotateLeft 13 ^^^ v0
  let v0 := v0.rotateLeft 32
  let v2 := s.v2 + s.v3
  let v3 := s.v3.rotateLeft 16 ^^^ v2
  let v0 := v0 + v3
  let v3 := v3.rotateLeft 21 ^^^ v0
  let v2 := v2 + v1
  let v1 := v1.rotateLeft 17 ^^^ v2
  let v2 := v2.rotateLeft 32
  ⟨v0, v1, v2, v3⟩

/-- Two compression rounds over one message word. -/
def sipWord (s : Sip) (m : Word) : Sip :=
  let s := { s with v3 := s.v3 ^^^ m }
  let s := sipRound (sipRound s)
  { s with v0 := s.v0 ^^^ m }

/-- The last block of a message of whole words: its length in bytes, modulo 256, in the top byte. -/
def sipLast (ms : List Word) : Word := BitVec.ofNat 64 ((8 * ms.length % 256) * 2 ^ 56)

/-- SipHash's state after the key, the message and its last block. -/
def sipAbsorb (k0 k1 : Word) (tweak : Word) (ms : List Word) : Sip :=
  let s : Sip := ⟨k0 ^^^ 0x736f6d6570736575, k1 ^^^ 0x646f72616e646f6d ^^^ tweak,
    k0 ^^^ 0x6c7967656e657261, k1 ^^^ 0x7465646279746573⟩
  sipWord (ms.foldl sipWord s) (sipLast ms)

/-- SipHash-2-4 with 64-bit output of a message of whole words, least significant byte first. -/
def sip64 (k0 k1 : Word) (ms : List Word) : Word :=
  let s := sipAbsorb k0 k1 0 ms
  let s := { s with v2 := s.v2 ^^^ 0xff }
  let s := sipRound (sipRound (sipRound (sipRound s)))
  s.v0 ^^^ s.v1 ^^^ s.v2 ^^^ s.v3

/-- SipHash-2-4 with 128-bit output; the first eight output bytes are bits 63:0. -/
def sip128 (k0 k1 : Word) (ms : List Word) : BitVec 128 :=
  let s := sipAbsorb k0 k1 0xee ms
  let s := { s with v2 := s.v2 ^^^ 0xee }
  let s := sipRound (sipRound (sipRound (sipRound s)))
  let lo := s.v0 ^^^ s.v1 ^^^ s.v2 ^^^ s.v3
  let s := { s with v1 := s.v1 ^^^ 0xdd }
  let s := sipRound (sipRound (sipRound (sipRound s)))
  let hi := s.v0 ^^^ s.v1 ^^^ s.v2 ^^^ s.v3
  hi ++ lo

/-- Token slots as words: two 32-bit slots a word, the earlier one in the low half (R170). -/
def slotWords : Nat → List Nat → List Word
  | 0, _ => []
  | _, [] => []
  | f + 1, l => BitVec.ofNat 64 (l.getD 0 0 % 2 ^ 20 + (l.getD 1 0 % 2 ^ 20) * 2 ^ 32) :: slotWords f (l.drop 2)

/-- The chain value h(j) of R170: the 16 bytes of h(j - 1), then the 64 token slots. -/
def chainHash (k0 k1 : Word) (h : BitVec 128) (toks : List Nat) : BitVec 128 :=
  sip128 k0 k1 (h.extractLsb' 0 64 :: h.extractLsb' 64 64 :: slotWords 32 toks)

/-- One Philox-4x32 round on (c0, c1, c2, c3) under (k0, k1). -/
def philoxRound (c : Nat × Nat × Nat × Nat) (k0 k1 : Nat) : Nat × Nat × Nat × Nat :=
  let p0 := 0xD2511F53 * c.1
  let p1 := 0xCD9E8D57 * c.2.2.1
  ((p1 / 2 ^ 32) ^^^ c.2.1 ^^^ k0, p1 % 2 ^ 32, (p0 / 2 ^ 32) ^^^ c.2.2.2 ^^^ k1, p0 % 2 ^ 32)

/-- `n` rounds, raising the key by its increments after each. -/
def philoxRounds : Nat → Nat × Nat × Nat × Nat → Nat → Nat → Nat × Nat × Nat × Nat
  | 0, c, _, _ => c
  | n + 1, c, k0, k1 =>
    philoxRounds n (philoxRound c k0 k1) ((k0 + 0x9E3779B9) % 2 ^ 32) ((k1 + 0xBB67AE85) % 2 ^ 32)

/-- The Philox-4x32-10 block of R155 at (stream, position, draw index) under RNGKEY. -/
def philox (key : Word) (stream pos idx : Nat) : Nat × Nat × Nat × Nat :=
  let ctr := (stream % 2 ^ 16) * 2 ^ 64 + (pos % 2 ^ 32) * 2 ^ 16 + idx % 2 ^ 16
  philoxRounds 10 (ctr % 2 ^ 32, ctr / 2 ^ 32 % 2 ^ 32, ctr / 2 ^ 64 % 2 ^ 32, ctr / 2 ^ 96 % 2 ^ 32)
    (key.toNat % 2 ^ 32) (key.toNat / 2 ^ 32)

/-- The uniform of a block, as its 53-bit numerator over 2^53 (R155). -/
def uniform53 (key : Word) (stream pos idx : Nat) : Nat :=
  let x := philox key stream pos idx
  (x.2.1 * 2 ^ 32 + x.1) / 2 ^ 11

/-- The rounding key RKEY of a seat (R161). -/
def roundKey (key : Word) : Word :=
  let x := philox key 2 0 0
  BitVec.ofNat 64 (x.2.1 * 2 ^ 32 + x.1)

/-- Eight steps of the reflected Castagnoli polynomial. -/
def crcBits : Nat → Nat → Nat
  | 0, c => c
  | n + 1, c => crcBits n (if c % 2 = 1 then (c / 2) ^^^ 0x82F63B78 else c / 2)

/-- CRC-32C of a list of bytes (R266). -/
def crc32c (bs : List Nat) : Nat :=
  (bs.foldl (fun c b => crcBits 8 (c ^^^ b)) 0xFFFFFFFF) ^^^ 0xFFFFFFFF

end Sys2Proof.Machine
end

