-- ==== Sys2Proof/Machine/Paths.lean ====
section
/-! DEFINITION. The transfer gates' paths and requests, and what a gate lets through: the payload of a message or of an answer moves
while its requester can hold the grant (R220, R221, R229). -/
namespace Sys2Proof.Machine

/-- Requesters of a gate (R221). -/
def requesters (g : Nat) : List Nat := List.range ([6, 3, 4].getD g 0)

/-- Paths of a gate (R220). -/
def pathsOf (g : Nat) : List Nat := if g = 1 then [0, 1] else [0]

/-- A gate. -/
def State.gate (s : State) (g : Nat) : GateSt := tget GateSt.empty s.gates g

/-- A change of a gate. -/
def modGate (g : Nat) (f : GateSt → GateSt) (s : State) : State :=
  { s with gates := tput GateSt.empty s.gates g (f (s.gate g)) }

/-- A path of a gate. -/
def GateSt.path (x : GateSt) (p : Nat) : PathSt := if p = 0 then x.p0 else x.p1

/-- A change of a path. -/
def modPath (g p : Nat) (f : PathSt → PathSt) (s : State) : State :=
  modGate g (fun x => if p = 0 then { x with p0 := f x.p0 } else { x with p1 := f x.p1 }) s

/-- A requester's request on a path. -/
def GateSt.req (x : GateSt) (p r : Nat) : Req := tget Req.empty x.reqs (16 * p + r)

/-- A change of a request. -/
def modReq (g p r : Nat) (f : Req → Req) (s : State) : State :=
  modGate g (fun x => { x with reqs := tput Req.empty x.reqs (16 * p + r) (f (x.req p r)) }) s

/-- A gate is frozen (R229). -/
def State.gateFrozen (s : State) (g : Nat) : Bool := s.on (F.GATE_CTRL_FREEZE g) || (s.gate g).hfreeze

/-- What an outstanding tag stands for. -/
def State.tagUse (s : State) (n : Nat) : Option TagUse := (s.kv.tags.find? fun e => e.1 == n).map (·.2)

/-- The seat that an outstanding tag serves. -/
def TagUse.seat : TagUse → Option Nat
  | .fetch i _ _ _ _ | .backBlk i _ _ _ | .imageOpen i _ _ | .imageBack i _ _ | .putSpill i _ _ | .putShip i _ _ | .imagePut i _
  | .stretch i _ _ _ _ => some i
  | .putPublish _ | .repair .. => none

/-- TAG of a payload message (R246). -/
def Msg.tag (m : Msg) : Nat := (m.words.getD 1 0).toNat % 2 ^ 24

/-- The gate and requester of an outbound payload (R221); every other message passes no gate (R220). The KV_PUT of a block put for a
shipment moves as SHIP's (log entry 59). -/
def State.unitOf (s : State) (m : Msg) : Option (Nat × Nat) :=
  match m.port, m.op with
  | .C, 0x33 | .C, 0x36 => match s.tagUse m.tag with
    | some (.putPublish _) => some (0, 3)
    | some (.putShip ..) => some (0, 4)
    | _ => some (0, 2)
  | .P, 0x20 => some (0, 4)
  | .N, 0x78 => some (2, 0)
  | .N, 0x79 => some (2, 1)
  | .N, 0x3E => if m.beats = 0 then none else some (2, 3)
  | _, _ => none

/-- The requester of the C-link gate that a fetched payload is moved by (R221): LOOKUP, or FETCHBACK for a fetch-back or an image. -/
def State.fetchUnit (s : State) (tag : Nat) : Nat := match s.tagUse tag with
  | some (.backBlk ..) | some (.imageOpen ..) | some (.imageBack ..) => 1
  | _ => 0

/-- The payload of a requester's transfer can move: the requester owns the path with it, or the path is idle and grants it at once,
the gate not frozen and ENABLE set (R220, R223, R229; log entry 59). -/
def State.passes (s : State) (g r tag : Nat) : Bool :=
  match (s.gate g).p0.owner with
  | some o => o == r && ((s.gate g).req 0 r).tag == tag
  | none => !s.gateFrozen g && s.on (F.GATE_SHARE_ENABLE g r)

/-- The gate lets an outbound message's payload through. -/
def State.lets (s : State) (m : Msg) : Bool :=
  match s.unitOf m with
  | some u => s.passes u.1 u.2 m.tag
  | none => true

end Sys2Proof.Machine
end

