-- ==== Sys2Proof/Machine/Pins.lean ====
section
/-! DEFINITION. The pins of models, adapters and learned prefixes with their retire queues (R33, R186 to R189, R205, R208). -/
namespace Sys2Proof.Machine

/-! Object and model pins (R33, R186 to R189, R205, R208). -/

/-- Key of an object-table slot: kind 0 adapter, 1 learned prefix; ids are those of the 16-bit fields of a seat (R22). -/
def objKey (kind id slot : Nat) : Nat := 262144 * kind + 4 * id + slot

/-- An object-table slot. -/
def State.obj (s : State) (kind id slot : Nat) : ObjSlot := tget ObjSlot.empty s.kv.objs (objKey kind id slot)

/-- A change of an object-table slot. -/
def modObj (kind id slot : Nat) (f : ObjSlot → ObjSlot) (s : State) : State :=
  modKv (fun k => { k with objs := tput ObjSlot.empty k.objs (objKey kind id slot) (f (s.obj kind id slot)) }) s

/-- A slot that is not current retires when its pins reach zero: it queues for its pop, at most 64 entries (R189). -/
def retireObj (kind id slot : Nat) (s : State) : State :=
  let o := s.obj kind id slot
  if o.live && !o.current && o.pins == 0 then
    let s := bump 0x94 (modObj kind id slot (fun o => { o with live := false, waitPop := true }) s)
    modKv (fun k => if k.retire.length < 64 then { k with retire := k.retire ++ [(kind, id, slot)] }
      else { k with retireWait := k.retireWait ++ [(kind, id, slot)] }) s
  else s

/-- A pin on an object version. -/
def pinObj (kind id slot : Nat) (s : State) : State := modObj kind id slot (fun o => { o with pins := o.pins + 1 }) s

/-- A pin drops. -/
def unpinObj (kind id slot : Nat) (s : State) : State :=
  retireObj kind id slot (modObj kind id slot (fun o => { o with pins := o.pins - 1 }) s)

/-- The slot of four for which a test holds. -/
def slotWith (p : Nat → Bool) : Option Nat := (List.range 4).find? p

/-- The current slot of an object id. -/
def State.objCur (s : State) (kind id : Nat) : Option Nat := slotWith fun v => (s.obj kind id v).live && (s.obj kind id v).current

/-- The live slot of an object id with a version number (R188). -/
def State.objVer (s : State) (kind id ver : Nat) : Option Nat :=
  slotWith fun v => (s.obj kind id v).live && (s.obj kind id v).version == ver

/-- A model-table slot. -/
def State.model (s : State) (m v : Nat) : ModelSlot := tget ModelSlot.empty s.seq.models (4 * m + v)

/-- A change of a model-table slot. -/
def modModel (m v : Nat) (f : ModelSlot → ModelSlot) (s : State) : State :=
  modSeq (fun q => { q with models := tput ModelSlot.empty q.models (4 * m + v) (f (s.model m v)) }) s

/-- The current slot of a model. -/
def State.modelCur (s : State) (m : Nat) : Option Nat := slotWith fun v => (s.model m v).live && (s.model m v).current

/-- The live slot of a model with a version number (R208). -/
def State.modelVer (s : State) (m ver : Nat) : Option Nat :=
  slotWith fun v => (s.model m v).live && (s.model m v).f.version.toNat == ver

/-- Fetches and repairs of a version, and what the sequencer holds loaded or to be loaded of it, are given up. -/
def dropFetches (m v : Nat) (s : State) : State :=
  let mine := fun (f : Fetch) => f.m == m && f.s == v
  let s := modKv (fun k => { k with tags := k.tags.filter fun e => match e.2 with
    | .repair m' v' _ _ _ _ => !(m' == m && v' == v)
    | _ => true }) s
  modSeq (fun q => { q with
    queue := q.queue.filter fun f => !mine f
    down := q.down.filter fun f => !mine f
    out := q.out.filter fun e => !mine e.2
    hotWait := q.hotWait.filter fun e => e != (m, v)
    chipSet := q.chipSet.filter fun e => e != (m, v)
    chipLoad := q.chipLoad.filter fun e => !(e.1 == m && e.2.1 == v)
    chipNext := q.chipNext.filter fun e => !(e.1 == m && e.2.1 == v) }) s

/-- A model slot that is not current retires when its pins reach zero; a class H version leaves the hot set (R208). -/
def retireModel (m v : Nat) (s : State) : State :=
  let o := s.model m v
  if o.live && !o.current && o.pins == 0 then
    let s := bump 0x94 (modModel m v (fun o => { o with
      live := false, ready := false, hotres := false, loading := false, waitPop := true }) (dropFetches m v s))
    modSeq (fun k => if k.retire.length < 64 then { k with retire := k.retire ++ [(m, v, o.f.version.toNat)] }
      else { k with retireWait := k.retireWait ++ [(m, v, o.f.version.toNat)] }) s
  else s

/-- A pin on a model version. -/
def pinModel (m v : Nat) (s : State) : State := modModel m v (fun o => { o with pins := o.pins + 1 }) s

/-- A model pin drops. -/
def unpinModel (m v : Nat) (s : State) : State :=
  retireModel m v (modModel m v (fun o => { o with pins := o.pins - 1 }) s)

/-- A seat takes the pins its W10 names (R33). -/
def takePins (i : Nat) (s : State) : State :=
  let a := s.seat i
  let s := pinModel a.model.toNat a.modelVs.toNat s
  let s := if a.adapterOn then pinObj 0 a.adapter.toNat a.adapterVs.toNat s else s
  let s := if a.lprefixOn then pinObj 1 a.lprefix.toNat a.lprefixVs.toNat s else s
  if a.draftOn then pinModel a.draftM.toNat a.draftVs.toNat s else s

/-- A seat's pins drop (R33). -/
def dropPins (i : Nat) (s : State) : State :=
  let a := s.seat i
  let s := unpinModel a.model.toNat a.modelVs.toNat s
  let s := if a.adapterOn then unpinObj 0 a.adapter.toNat a.adapterVs.toNat s else s
  let s := if a.lprefixOn then unpinObj 1 a.lprefix.toNat a.lprefixVs.toNat s else s
  if a.draftOn then unpinModel a.draftM.toNat a.draftVs.toNat s else s

end Sys2Proof.Machine
end

