-- ==== Sys2Proof/Machine/Pots.lean ====
section
/-! DEFINITION. Pots: pot operations and settlement (R41 to R45), and the CLOSE message with the index's return to Free (R25,
R253). -/
namespace Sys2Proof.Machine

/-- LEVEL as a signed number (R40). -/
def Tenant.lvl (t : Tenant) : Int := t.level.toInt

/-- LEVEL saturates at -2^47 and 2^47 - 1 (R42). -/
def satLevel (v : Int) : BitVec 48 :=
  BitVec.ofInt 48 (if v < -140737488355328 then -140737488355328 else if 140737488355327 < v then 140737488355327 else v)

/-- A pot operation that takes `n` weighted tokens (negative gives back), added to the seat's CHARGED too (R43, R44). -/
def debit (i : Nat) (n : Int) (s : State) : State :=
  let a := s.seat i
  modSeat i (fun a => { a with charged := BitVec.ofInt 32 (a.charged.toNat + n) })
    (modTenant a.tenant.toNat (fun t => { t with level := satLevel (t.lvl - n) }) s)

/-- RES of R44, as the admission reserves it: a resumption reserves of what is left (R45). -/
def State.res (s : State) (i : Nat) : Nat :=
  let a := s.seat i
  min (a.maxTok.toNat - (s.side i).gen0)
    (s.fld (F.ADM_CLASS_POLICY_RESVTOK a.cls.toNat))

/-- A of R44 and R45: what the admission decision takes. -/
def State.admitCost (s : State) (i : Nat) : Nat :=
  let a := s.seat i
  let t := s.tenant a.tenant.toNat
  if (s.side i).kind = 1 then s.res i * t.wGen.toNat
  else a.promptLen.toNat * t.wPrompt.toNat + s.res i * t.wGen.toNat

/-- Tokens of a seat that wait in the outbound queue. -/
def State.queuedTok (s : State) (i : Nat) : Nat :=
  sumOf ((s.ports.queue.filter fun q => q.kind == 1 && q.seat == i && q.gen == (s.seat i).gen.toNat).map (·.ntok))

/-- The seat's CLOSE waits in the outbound queue. -/
def State.closeQueued (s : State) (i : Nat) : Bool :=
  s.ports.queue.any fun q => q.kind == 2 && q.seat == i && q.gen == (s.seat i).gen.toNat

/-- F, the final weighted count of a request closed with a reason (R41, R45); 0 when its ADMIT never left. -/
def State.finalCount (s : State) (i reason : Nat) : Nat :=
  let a := s.seat i
  let d := s.side i
  let t := s.tenant a.tenant.toNat
  if d.phase ≠ .answered ∧ d.phase ≠ .lost then 0
  else if d.kind = 1 ∨ reason = 0x30 ∨ reason = 0x31 ∨ reason = 0x40 ∨ reason = 0x50 ∨ reason = 0x7F then
    d.sent * t.wGen.toNat
  else (a.promptLen.toNat - d.hits) * t.wPrompt.toNat + d.hits * t.wCached.toNat + d.sent * t.wGen.toNat

/-- Settlement (R44): what was taken beyond F is credited back; a follower has no pot operation (R45). -/
def settle (i reason : Nat) (s : State) : State :=
  if (s.seat i).role = 2 ∨ (s.side i).settled then s
  else
    let f : Int := s.finalCount i reason
    let taken : Int := (s.seat i).charged.toNat - (s.side i).base
    modSide i (fun d => { d with settled := true }) (debit i (f - taken) s)

/-! CLOSE. -/

/-- The counter of a close reason (R285). -/
def closeCnt (r : Nat) : Nat :=
  match r with
  | 0x00 => 0x10
  | 0x01 => 0x11
  | 0x02 => 0x12
  | 0x03 => 0x13
  | 0x10 => 0x14
  | 0x20 => 0x15
  | 0x21 => 0x16
  | 0x30 => 0x17
  | 0x31 => 0x18
  | 0x40 => 0x19
  | 0x50 => 0x1A
  | _ => 0x1B

/-- The CLOSE message of a seat (R253). -/
def closeMsg (s : State) (i reason f : Nat) : Msg :=
  let a := s.seat i
  mkMsg .G 0 0x15 [(8, reason), (36, 0)]
    [a.reqid, pack [(24, a.promptLen.toNat), (24, (s.side i).sent), (16, 0)], pack [(40, f), (24, (s.side i).hits)]] 0 []

/-- The seat index returns to Free, keeping its generation (R20), and its prompt pages are released with it (R180); an index
retired under R37 never returns to Free and stays Closed. -/
def freeSeat (i : Nat) (s : State) : State :=
  let d := s.side i
  if s.led.retired.contains i then
    setSide i { Side.empty with phase := d.phase, closeSent := d.closeSent, settled := true }
      (modSeat i (fun a => { a with state := .closed }) s)
  else setSide i Side.empty (setSeat i { Seat.empty with gen := (s.seat i).gen } s)

/-- Closed to Free: the seat's pins drop and its index is released (R25, R33). Pins that an unreadable word held are not
dropped (R37). -/
def releaseIndex (i : Nat) (s : State) : State := freeSeat i (if s.led.lostPins.contains i then s else dropPins i s)

/-- CLOSE leaves port G: the pot is settled, the close is counted, the message is formed, and a Closed seat's index is released (R44,
R253, R285). -/
def closeLeaves (i : Nat) (s : State) : Msg × State :=
  let r := (s.seat i).closeReason.toNat
  let f := s.finalCount i r
  let m := closeMsg s i r f
  let s := settle i r (bump 0x03 (bump (closeCnt r) s))
  (m, if (s.seat i).state = .closed then releaseIndex i s else s)

end Sys2Proof.Machine
end

