-- ==== Sys2Proof/Machine/Links.lean ====
section
/-! DEFINITION. Sessions, credit, the greeting phase and the outbound queue of ports G, P, C, N and T (R238 to R247, R252),
and port F's egress under credit per engine group (R258). -/
namespace Sys2Proof.Machine

/-- The key of a session: 64 x port + peer; only port N has peers other than 0 (R240). -/
def sessKey (p : Port) (peer : Nat) : Nat := 64 * portNo p + (if p = .N then peer else 0)

/-- A session. -/
def State.sess (s : State) (p : Port) (peer : Nat) : Sess := tget Sess.empty s.ports.sess (sessKey p peer)

/-- A change of a session. -/
def modSess (p : Port) (peer : Nat) (f : Sess → Sess) (s : State) : State :=
  modPorts (fun q => { q with sess := tput Sess.empty q.sess (sessKey p peer) (f (s.sess p peer)) }) s

/-- A session exists once HELLO has passed in both directions on a link that is up (R240). -/
def State.live (s : State) (p : Port) (peer : Nat) : Bool :=
  let e := s.sess p peer
  e.linkUp && e.heloOut && e.heloIn

/-- The port has left its greeting phase; port M always has (R245, R262). -/
def State.portOpen (s : State) (p : Port) : Bool := s.ports.open_.contains (portNo p) || p == .M

/-- Counter index of a port's three counters (R285); ports F and M have none. -/
def portCnt (p : Port) (k n : Nat) (s : State) : State :=
  if portNo p ≤ 4 then bumpN (0xE1 + 3 * portNo p + k) n s else s

/-- HER_NODE.NODEID. -/
def State.nodeId (s : State) : Nat := s.fld F.HER_NODE_NODEID

/-- A message to a peer keeps the leases borrowed of it alive (R112; log entry 56). -/
def keptAlive (peer : Nat) (s : State) : State :=
  modDeals (fun d => { d with leases := d.leases.map fun l =>
    if !l.lent && l.peer == peer then { l with lastAt := s.now } else l }) s

/-- A message leaves a port: recorded and counted (R285); outbound port F messages have their own counter. -/
def depart (m : Msg) (s : State) : State :=
  let s := emit m s
  if m.port = .F then bump 0xFD s else portCnt m.port 1 1 (if m.port = .N then keptAlive m.peer s else s)

/-- CREDIT to a partner (R247): it consumes no credit. `es` are (class, messages) entries. -/
def sendCredit (p : Port) (peer : Nat) (opened : Bool) (beats : Nat) (es : List (Nat × Nat)) (s : State) : State :=
  bump 0xFF (depart (mkMsg p peer 0x02 [(4, es.length), (1, bit opened), (39, 0)]
    (pack [(40, beats), (24, 0)] :: es.map (fun e => pack [(4, e.1), (20, e.2), (40, 0)])) 0 []) s)

/-- HELLO to a partner, with NODEID, ERA and the port's OPEN state (R247); ROLE 3, ASPVER 1. -/
def sendHello (p : Port) (peer : Nat) (s : State) : State :=
  modSess p peer (fun e => { e with heloOut := true })
    (depart (mkMsg p peer 0x01 [(4, 3), (8, 1), (32, 0)]
      [pack [(16, s.nodeId), (16, s.keep.era), (1, bit (s.portOpen p)), (31, 0)]] 0 []) s)

/-- RETRY of a NOT_READY (R245). -/
def State.notReadyRetry (s : State) (p : Port) : Nat :=
  if s.bedrock ∧ p ≠ .G then 0xFFFFFFFF
  else max 1000 (s.fld (F.PORT_CFG_PHASEAT (portNo p)) * 1000 - s.nowUs)

/-- NOT_READY for a refused message: REFOP, RETRY and word 1 echoed; it consumes no credit (R245, R247). -/
def sendNotReady (p : Port) (peer op : Nat) (word1 : Word) (s : State) : State :=
  setFlag (F.PORT_FLAGS_NOTREADY (portNo p)) (portCnt p 2 1
    (depart (mkMsg p peer 0x03 [(8, op), (36, 0)]
      [pack [(32, s.notReadyRetry p), (32, 0)], word1] 0 []) s))

/-- Outbound credit of a class. -/
def State.outCredit (s : State) (p : Port) (peer cls : Nat) : Nat := (s.sess p peer).out.getD cls 0

/-! Peer leases (R112, R244): the messages tagged with a lead epoch move under credit class 3, a lease borrowed from the peer. -/

/-- The lead epoch that a message under a peer lease is tagged with. -/
def Msg.leadEpoch (m : Msg) : Nat := (m.words.getD (if m.op = 0x78 ∨ m.op = 0x79 then 2 else 1) 0).toNat / 2 ^ 16

/-- A lease is valid for a lead epoch (R112). -/
def PeerLease.covers (l : PeerLease) (el : Nat) : Bool := decide (l.el ≤ el ∧ el < l.el + l.len)

/-- A lease lapses when PEERWAIT passes with no message from its borrower: on the lender's counter (R112), and as the borrower sees
it, on its own (log entry 56). -/
def State.lapsed (s : State) (l : PeerLease) : Bool := decide (l.lastAt + 1000 * s.fld F.HER_PEER_PEERWAIT ≤ s.now)

/-- A lease has what a message needs. -/
def PeerLease.holds (l : PeerLease) (lent : Bool) (peer el beats : Nat) : Bool :=
  l.lent == lent && l.peer == peer && l.covers el && decide (0 < l.msgs ∧ beats ≤ l.beats)

/-- A borrowed lease under which a message can leave: a borrower never sends under a lapsed one. -/
def State.pays (s : State) (m : Msg) (l : PeerLease) : Bool := l.holds false m.peer m.leadEpoch m.beats && !s.lapsed l

/-- The first lease of a list that a test picks is drawn on by a message. -/
def drawLease (p : PeerLease → Bool) (beats : Nat) : List PeerLease → List PeerLease
  | [] => []
  | l :: r => if p l then { l with msgs := l.msgs - 1, beats := l.beats - beats } :: r else l :: drawLease p beats r

/-- An outbound message can consume credit of its class, a peer lease, or the partner's greeting credit before the partner
opens; its payload moves as payload credit comes (R242). Port G's egress is halted after a sag warning (R276). -/
def State.hasCredit (s : State) (i : OutItem) : Bool :=
  if i.msg.port = .G ∧ s.pwr.state = 5 then false
  else if i.cls = 3 then s.deals.leases.any (s.pays i.msg)
  else decide (0 < s.outCredit i.msg.port i.msg.peer i.cls)
    || (!(s.sess i.msg.port i.msg.peer).popen && decide (0 < (s.sess i.msg.port i.msg.peer).ogreet) && i.msg.beats == 0)

/-- Payload beats of messages begun move as far as payload credit is held (R242). -/
def Sess.moveOwed (e : Sess) : Sess := { e with owed := e.owed - e.outPay, outPay := e.outPay - e.owed }

/-- Consumes the credit of a message, and payload credit as far as it is held: the message begins with less than it needs, and the
rest of its beats move as credit arrives (R242). -/
def useCredit (i : OutItem) (s : State) : State :=
  if i.cls = 3 then modDeals (fun d => { d with leases := drawLease (s.pays i.msg) i.msg.beats d.leases }) s
  else modSess i.msg.port i.msg.peer (fun e =>
    let e := if 0 < e.out.getD i.cls 0 then { e with out := modNth (· - 1) e.out i.cls } else { e with ogreet := e.ogreet - 1 }
    Sess.moveOwed { e with owed := e.owed + i.msg.beats }) s

/-- ns from a request's ARRIVAL to now; the ARRIVAL of a resumption may lie before the local counter's start (R36). -/
def State.sinceArrival (s : State) (i : Nat) : Nat := (s.counter - (s.seat i).arrival).toNat

/-- ELAPSED of a request: µs from arrival to now, saturating at 0xFFFF_FFFE (R251). -/
def State.elapsed (s : State) (i : Nat) : Nat := sat 0xFFFFFFFE (s.sinceArrival i / 1000)

/-- The deadline D(k) of a request's k-th token, as ns from its ARRIVAL (R47). -/
def State.dueIn (s : State) (i k : Nat) : Nat :=
  let a := s.seat i
  1000 * (a.ttftBud.toNat + (k - 1) * a.tpotBud.toNat)

/-- The word of a list changed. -/
def setWord (n : Nat) (f : Word → Word) (ws : List Word) : List Word := modNth f ws n

/-- Attainment counts of a TOKENS message as it leaves (R48): first or later, on time when at or before D(k). -/
def countTokens (seat k : Nat) (s : State) : State :=
  let c := (s.seat seat).cls.toNat
  let on := decide (s.sinceArrival seat ≤ s.dueIn seat k)
  if k = 1 then
    let s := modCls c (fun x => { x with first := x.first + 1, firstOn := x.firstOn + bit on }) (bump 0x1C s)
    if on then bump 0x1D s else s
  else
    let s := modCls c (fun x => { x with later := x.later + 1, laterOn := x.laterOn + bit on }) (bump 0x1E s)
    if on then bump 0x1F s else s

/-- The LAST SAG_REPLAY has left: the sag record is consumed (R279). -/
def recordConsumed (s : State) : State :=
  let done := fun (r : SagRec) => { r with state := 2 }
  bump 0xF7 { s with
    keep := { s.keep with sag := s.keep.sag.map done }
    pwr := { s.pwr with replayed := true } }

/-- Freed inbound credit returns to the partner (R242); a message taken under greeting credit used none of its class (R245). -/
def returnCredit (p : Port) (peer cls n beats : Nat) (s : State) : State :=
  if !s.live p peer then s
  else
    let k := min n ((s.sess p peer).gfree.getD cls 0)
    let s := modSess p peer (fun e => { e with
      inn := modNth (· + (n - k)) e.inn cls, innPay := min (e.full.getD 3 0) (e.innPay + beats), gfree := modNth (· - k) e.gfree cls }) s
    if n = k ∧ beats = 0 then s else sendCredit p peer false beats [(cls, n - k)] s

/-- Message credit goes back to class 1 of a port's session. -/
def giveBack (p : Port) (n : Nat) (s : State) : State :=
  if n = 0 then s else modSess p 0 (fun e => { e with out := modNth (· + n) e.out 1 }) s

/-- OPEN credit returns as far as OPENCREDIT allows, with `n` credits held by resumptions whose IMAGE_FETCH waits (R50, R52). -/
def openCreditBut (n : Nat) (s : State) : State :=
  let held := (s.sess .G 0).inn.getD 0 0 + n
  let want := s.fld F.ADM_CTRL_OPENCREDIT
  if held < want then returnCredit .G 0 0 (want - held) 0 s else s

/-- Resumptions whose IMAGE_FETCH waits in the outbound queue (R52). -/
def State.fetchesQueued (s : State) : Nat := (s.ports.queue.filter fun q => q.kind == 7).length

/-- The OPEN credit of a decided OPEN returns (R50). -/
def returnOpenCredit (s : State) : State := openCreditBut s.fetchesQueued s

/-- The wait for the PARTIALs of a QUERY begins as its first copy leaves (R109; log entry 56). -/
def queryLeft (seat layer : Nat) (s : State) : State :=
  modDeals (fun d => { d with peerWaits := d.peerWaits.map fun w =>
    if w.seat == seat && w.layer == layer && w.since.isNone then { w with since := some s.now } else w }) s

/-- A follower's PARTIAL leaves: until the last layer the next QUERY is waited for (R109). -/
def partialLeft (seat more : Nat) (s : State) : State :=
  let next := if more = 1 then [(seat, s.now)] else []
  modDeals (fun d => { d with followWaits := (d.followWaits.filter fun w => w.1 != seat) ++ next }) s

/-- A message leaves with its credit already consumed: ELAPSED is written, tokens sent and attainment counted (R48, R251),
a CLOSE settles its request (R44), an ADMIT that left is noted, a refused seat becomes Free (R14), a resumption's OPEN credit returns
(R52), the peer-wait limits start (R109), the sag record is consumed with its LAST replay, and a wait for credit is traced (R291). -/
def leave (i : OutItem) (waited : Bool) (s : State) : State :=
  let s := if waited then
      traceWait 0x09 0 i.msg.peer (16 * portNo i.msg.port + i.cls) 0xFFF i.queuedAt 0 s
    else s
  if i.kind = 1 ∧ s.current i.seat i.gen = true then
    let el := s.elapsed i.seat
    let m := { i.msg with words := setWord 2 (fun w => (w &&& 0xFFFFFFFF00000000) ||| BitVec.ofNat 64 el) i.msg.words }
    let first := (s.side i.seat).gen0 + (s.side i.seat).sent
    depart m (modSide i.seat (fun d => { d with sent := d.sent + i.ntok }) (countTokens i.seat (first + 1) s))
  else if i.kind = 2 ∧ s.current i.seat i.gen = true then
    let c := closeLeaves i.seat s
    depart c.1 c.2
  else if i.kind = 4 ∧ s.current i.seat i.gen = true then
    modSide i.seat (fun d => { d with phase := .answered }) (depart i.msg s)
  else if i.kind = 5 ∧ (s.seat i.seat).gen.toNat = i.gen ∧ (s.side i.seat).phase = .refused then
    freeSeat i.seat (depart i.msg s)
  else if i.kind = 6 ∧ i.ntok = 1 then recordConsumed (depart i.msg s)
  else if i.kind = 8 then queryLeft i.seat i.ntok (depart i.msg s)
  else if i.kind = 9 then partialLeft i.seat i.ntok (depart i.msg s)
  else if i.kind = 7 then openCreditBut (s.fetchesQueued - bit waited) (depart i.msg s)
  else depart i.msg s

/-- Nothing queued before an item forbids its leaving: no earlier item of its class and session (under leases, of its lead
epoch too) but one that waits for another requester's grant, and on port G none of its request (R16, R220, R252). -/
def State.noneBefore (s : State) (i : OutItem) (before : List OutItem) : Bool :=
  before.all fun b =>
    !(b.msg.port == i.msg.port && b.msg.peer == i.msg.peer && b.cls == i.cls &&
      (i.cls != 3 || b.msg.leadEpoch == i.msg.leadEpoch) && (s.lets b.msg || s.unitOf b.msg == s.unitOf i.msg)) &&
    !(b.msg.port == .G && i.msg.port == .G && b.kind != 0 && i.kind != 0 && b.seat == i.seat && b.gen == i.gen)

/-- An outbound message: it leaves at once under credit and its gate's grant, else it queues; without a session it is dropped. A wait
for the gate alone is no wait for credit (R220, R240, R242). -/
def send (i : OutItem) (s : State) : State :=
  if !s.live i.msg.port i.msg.peer then s
  else
    let credit := s.noneBefore i s.ports.queue && s.hasCredit i
    if credit && s.lets i.msg then leave i false (useCredit i s)
    else
      let s := if credit then s else setFlag (F.PORT_FLAGS_OUTWAIT (portNo i.msg.port)) (bump 0xFC s)
      modPorts (fun q => { q with queue := q.queue ++ [{ i with queuedAt := s.now, atGate := credit }] }) s

/-- A message with no order of a request to keep. -/
def sendMsg (m : Msg) (cls : Nat) (s : State) : State := send ⟨m, cls, 0, 0, 0, 0, 0, false⟩ s

/-- A message of a seat's request: 1 TOKENS, 2 CLOSE, 3 SPILLED, 4 ADMIT, 5 REFUSE, 7 IMAGE_FETCH, 8 QUERY,
9 PARTIAL. -/
def sendFor (m : Msg) (cls i kind ntok : Nat) (s : State) : State :=
  send ⟨m, cls, i, (s.seat i).gen.toNat, kind, ntok, 0, false⟩ s

/-- One pass over the outbound queue: items that may leave do, in order. -/
def drainPass : List OutItem → List OutItem → State → State × List OutItem
  | kept, [], s => (s, kept)
  | kept, i :: r, s =>
    if s.noneBefore i kept && s.hasCredit i && s.lets i.msg && s.live i.msg.port i.msg.peer then
      drainPass kept r (leave i (!i.atGate) (useCredit i s))
    else drainPass (kept ++ [i]) r s

/-- Queued messages leave as far as credit and the gates allow (R220, R242, R252). -/
def drain (s : State) : State :=
  let r := drainPass [] s.ports.queue s
  modPorts (fun q => { q with queue := r.2 }) r.1

/-- Queued messages of a session are dropped, and payloads of it that wait for their gate (R240, R260). -/
def dropQueue (p : Port) (peer : Nat) (s : State) : State :=
  modPorts (fun q => { q with
    queue := q.queue.filter fun i => !(i.msg.port == p && (p != .N || i.msg.peer == peer))
    gated := q.gated.filter fun x => !(x.port == p && (p != .N || x.peer == peer)) }) s

/-- Inbound credit that the port's registers advertise, per class (R243, R262): OPENCREDIT for class 0 of port G. -/
def State.inCredit (s : State) (p : Port) : List Nat :=
  [if p = .G then s.fld F.ADM_CTRL_OPENCREDIT else s.fld (F.PORT_CREDIT_CLASS0 (portNo p)),
    s.fld (F.PORT_CREDIT_CLASS1 (portNo p)), s.fld (F.PORT_CREDIT_CLASS2 (portNo p))]

/-- A session takes the inbound credit that the port's registers hold when it begins (R261). -/
def takeFull (p : Port) (peer : Nat) (s : State) : State :=
  modSess p peer (fun e => { e with full := s.inCredit p ++ [s.fld (F.PORT_PAYCRED_BEATS (portNo p))] }) s

/-- Inbound credit of a class in a session: OPENCREDIT, which is live, for class 0 of port G (R50, R261). -/
def State.fullOf (s : State) (p : Port) (peer k : Nat) : Nat :=
  if p = .G ∧ k = 0 then s.fld F.ADM_CTRL_OPENCREDIT else (s.sess p peer).full.getD k 0

/-- CREDIT with OPEN 1 and the full credits on a session of an open port (R245). -/
def grantFull (p : Port) (peer : Nat) (s : State) : State :=
  let c := [s.fullOf p peer 0, s.fullOf p peer 1, s.fullOf p peer 2]
  let b := s.fullOf p peer 3
  sendCredit p peer true b [(0, c.getD 0 0), (1, c.getD 1 0), (2, c.getD 2 0)]
    (modSess p peer (fun e => { e with inn := c, innPay := b }) s)

/-- A message or beat without credit: discarded and counted as OVERRUN; the port's state for that session is otherwise undefined,
free values (R242; log entry 60). -/
def overrun (p : Port) (peer n : Nat) (s : State) : State :=
  let v := fun k => Config.freeNat (s.free + k)
  modSess p peer (fun e => { e with
    inn := [v 0, v 1, v 2], innPay := v 3, greet := v 4 % 9, out := [v 5, v 6, v 7], outPay := v 8, ogreet := v 9 % 9, owed := v 10
    gfree := [0, v 11 % 9, v 12 % 9] })
    (setFlag (F.PORT_FLAGS_OVERRUN (portNo p)) (bumpN 0xF9 n { s with free := s.free + 13 }))

/-- Beats of a session that wait in the port's buffer for their gate. -/
def State.beatsHeld (s : State) (p : Port) (peer : Nat) : Nat :=
  sumOf ((s.ports.gated.filter fun x => x.port == p && x.peer == peer).map (·.beats))

/-- Payload credit suffices for a payload of `beats`: those beyond the credit of an empty buffer come as their buffer frees (R242). -/
def State.payOk (s : State) (p : Port) (peer beats : Nat) : Bool :=
  let c := (s.sess p peer).innPay
  decide (beats ≤ c) || (decide (0 < c) && s.beatsHeld p peer == 0)

/-- Whether a message on an open port was sent under greeting credit, before the CREDIT of the opening reached the partner (R245). It
carries no payload. Where class credit would pay for it too, a free value says; messages come in order, so the first under class credit ends
the greeting credit (log entry 60). -/
def greeted (p : Port) (peer cls beats : Nat) (s : State) : Bool × State :=
  let e := s.sess p peer
  if e.greet = 0 ∨ beats ≠ 0 then (false, s)
  else if e.inn.getD cls 0 = 0 then (true, s)
  else
    let f := takeFree s
    (f.1 % 2 == 1, f.2)

/-- What a port makes of an arriving message with `beats` of payload: discarded outside a session as STRAY (R240), refused with NOT_READY
in the greeting phase (R245), discarded without credit as OVERRUN (R242), or taken, with its class and payload credit or its greeting credit
consumed. -/
def arrive (p : Port) (peer cls op : Nat) (word1 : Word) (beats : Nat) (s : State) : Bool × State :=
  let s := portCnt p 0 1 s
  let pn := portNo p
  if !s.live p peer then (false, setFlag (F.PORT_FLAGS_STRAY pn) (bump 0xFB s))
  else if !s.portOpen p then (false, sendNotReady p peer op word1 s)
  else
    let r := greeted p peer cls beats s
    let s := r.2
    if r.1 then
      (true, modSess p peer (fun e => { e with
        greet := e.greet - 1, gfree := if p = .G ∧ cls = 0 then e.gfree else modNth (· + 1) e.gfree cls }) s)
    else if (s.sess p peer).inn.getD cls 0 = 0 then (false, overrun p peer 1 s)
    else if !s.payOk p peer beats then (false, overrun p peer (beats - (s.sess p peer).innPay) s)
    else (true, modSess p peer (fun e => { e with inn := modNth (· - 1) e.inn cls, innPay := e.innPay - beats, greet := 0 }) s)

/-- A message whose buffer frees at once: taken, its credit returned, then `f`. -/
def taking (p : Port) (peer cls op : Nat) (word1 : Word) (beats : Nat) (f : State → State) (s : State) : State :=
  match arrive p peer cls op word1 beats s with
  | (true, s) => f (returnCredit p peer cls 1 beats s)
  | (false, s) => s

/-- The credit of an inbound payload returns as its buffer frees; class 3 stands for a peer lease, which draws on none (R242, R244). -/
def freeGated (x : Gated) (s : State) : State :=
  if x.cls = 3 then s else returnCredit x.port x.peer x.cls 1 x.beats s

/-- An inbound payload passes its gate at once: it has no beats, or its requester may move it and none of that requester waits before
it. -/
def State.gateTakes (s : State) (x : Gated) : Bool :=
  x.beats == 0 || (s.passes x.g x.r x.tag && s.ports.gated.all fun y => y.g != x.g || y.r != x.r)

/-- An inbound payload moves under its requester's grant, behind those of its requester that wait, or it waits in the port's buffer
(R220, R221). -/
def gatedIn (x : Gated) (f : State → State) (s : State) : State :=
  if s.gateTakes x then f (freeGated x s)
  else modPorts (fun p => { p with gated := p.gated ++ [x] }) s

/-- A payload message arrives whose payload passes a gate. -/
def takingGated (x : Gated) (op : Nat) (word1 : Word) (f : State → State) (s : State) : State :=
  match arrive x.port x.peer x.cls op word1 x.beats s with
  | (true, s) => gatedIn x f s
  | (false, s) => s

/-- Payload beats of `n` bytes (R246). -/
def beatsOf (n : Nat) : Nat := ceilDiv n 256

/-- Word 1 of a payload message (R246). -/
def payWord (bytes tag : Nat) : Word := pack [(40, bytes), (24, tag)]

/-- Word 1 with a handle and a tag (R246). -/
def handleTag (handle tag : Nat) : Word := pack [(32, handle), (8, 0), (24, tag)]

/-- Bytes of a block carrier (R246). -/
def State.carrierBytes (s : State) : Nat := 256 + 4096 * s.fld F.PKV_KVCFG_BLOCKBYTES

/-- The peer session that carries a node id, if any is live (port N). -/
def State.peerOf (s : State) (node : Nat) : Option Nat :=
  (s.ports.sess.find? fun e => 192 ≤ e.1 && e.1 < 256 && e.2.linkUp && e.2.heloOut && e.2.heloIn && e.2.node == node).map
    (fun e => e.1 - 192)

/-- A port N message of a class. -/
def sendN (peer op cls : Nat) (w0 : List (Nat × Nat)) (rest : List Word) (beats : Nat) (pay : List Word) (s : State) : State :=
  sendMsg (mkMsg .N peer op w0 rest beats pay) cls s

/-- A `follower seat` word (R256), with the low 32 bits given. -/
def seatWord (seat gen low : Nat) : Word := pack [(16, seat), (16, gen), (32, low)]

/-! Port F egress (R258): credit per engine group in 256 B units. -/

/-- Units of 256 B that a message takes at a group. -/
def Msg.units (m : Msg) : Nat := ceilDiv (8 * m.words.length) 256

/-- The engine groups in use: HER_GROUPMASK in force. -/
def State.groups (s : State) : List Nat :=
  (List.range 64).filter fun g => (tget (regDefault s.grade 0x1820) s.force 0x1820).getLsbD g

/-- Messages at the head of port F's queue leave while every group they go to has credit. -/
def drainFPass : List (List Nat × Msg) → State → State × List (List Nat × Msg)
  | [], s => (s, [])
  | (gs, m) :: r, s =>
    if gs.all fun g => decide (m.units ≤ tget 0 s.ports.fCredit g) then
      let s := modPorts (fun q => { q with fCredit := each (fun g c => tput 0 c g (tget 0 c g - m.units)) gs q.fCredit }) s
      drainFPass r (depart m s)
    else (s, (gs, m) :: r)

/-- Port F's queue leaves as far as group credit allows. -/
def drainF (s : State) : State :=
  let r := drainFPass s.ports.fQueue s
  modPorts (fun q => { q with fQueue := r.2 }) r.1

/-- A port F message to the given groups joins the queue in order. -/
def sendF (gs : List Nat) (m : Msg) (s : State) : State :=
  drainF (modPorts (fun q => { q with fQueue := q.fQueue ++ [(gs, m)] }) s)

/-- A port F message of the given opcode, word-0 fields and later words. -/
def fMsg (op : Nat) (w0 : List (Nat × Nat)) (rest : List Word) : Msg := mkMsg .F 0 op w0 rest 0 []

/-- A launch word leaves on both trees of port F's launch wiring, shown as peers 0 and 1 (R98): it consumes no group credit and is no
message. -/
def launchWord (op : Nat) (w : List (Nat × Nat)) (s : State) : State :=
  emit ⟨.F, 1, op, [pack w], 0, []⟩ (emit ⟨.F, 0, op, [pack w], 0, []⟩ s)

end Sys2Proof.Machine
end

