-- ==== Sys2Proof/Machine/Kv.lean ====
section
/-! DEFINITION. The KV steward's tables: block records and chains, the index with its hot cache, allocation, completion and
tags (R168 to R190). -/
namespace Sys2Proof.Machine

/-- PKV_KVCFG.BLOCKS. -/
def State.nBlocks (s : State) : Nat := s.fld F.PKV_KVCFG_BLOCKS

/-- A block record. -/
def State.blk (s : State) (b : Nat) : Blk := tget Blk.empty s.kv.blocks b

/-- A change of a block record. -/
def modBlk (b : Nat) (f : Blk → Blk) (s : State) : State :=
  modKv (fun k => { k with blocks := tput Blk.empty k.blocks b (f (s.blk b)) }) s

/-- The epoch that stamps index entries and block records. -/
def State.stampNow (s : State) : Nat := s.deals.runEpoch % 2 ^ 32

/-- The deployment key HKEY (R169). -/
def State.hkey0 (s : State) : Word := s.reg 0x2810

/-- The deployment key HKEY, second word (R169). -/
def State.hkey1 (s : State) : Word := s.reg 0x2818

/-- A block is cached: no holder, and Complete (R179). -/
def Blk.cached (b : Blk) : Bool := b.refs == 0 && b.state == .complete

/-- A cached block whose number may be taken: one being put is not (R179). -/
def Blk.takeable (b : Blk) : Bool := b.cached && !b.putting

/-- Blocks that are not Free. -/
def State.usedBlocks (s : State) : Nat := (s.kv.blocks.filter fun e => e.2.state != .free).length

/-- Cached blocks (R179). -/
def State.cachedBlocks (s : State) : Nat := (s.kv.blocks.filter fun e => e.2.cached).length

/-- Free blocks (R179). -/
def State.freeBlocks (s : State) : Nat := s.nBlocks - s.usedBlocks

/-- Free and cached blocks are below LOWMARK (R179). -/
def State.lowFree (s : State) : Bool := decide (s.freeBlocks + s.cachedBlocks < s.fld F.PKV_LOWMARK_LOWMARK)

/-! The index (R172 to R174). -/

/-- The bucket of a key: its bits 20:0. -/
def bucketOf (k : BitVec 128) : Nat := k.toNat % 2 ^ 21

/-- An index entry by number. -/
def State.idx (s : State) (n : Nat) : IdxEnt := tget IdxEnt.empty s.kv.index n

/-- The write of an index entry; one that is removed goes with its hot copy (R173). -/
def setIdx (n : Nat) (e : IdxEnt) (s : State) : State :=
  let e := if e.valid then e else IdxEnt.empty
  modKv (fun k => { k with
    index := tput IdxEnt.empty k.index n e
    hot := if e.valid then k.hot else tmap [] (fun _ l => l.filter (· != n)) k.hot }) s

/-- The entry numbers of a bucket. -/
def waysOf (k : BitVec 128) : List Nat := (List.range 8).map fun w => 8 * bucketOf k + w

/-- The entry of a key. -/
def State.idxFind (s : State) (k : BitVec 128) : Option Nat :=
  (waysOf k).find? fun n => (s.idx n).valid && (s.idx n).key == k

/-- The hot cache's set of a key (R173). -/
def hotSet (k : BitVec 128) : Nat := k.toNat % 2 ^ 14

/-- The hot cache holds the key's entry. -/
def State.hotHas (s : State) (k : BitVec 128) : Bool :=
  match s.idxFind k with
  | some n => (tget [] s.kv.hot (hotSet k)).contains n
  | none => false

/-- A hit makes the entry the most recently used of its set, of eight ways (R173). -/
def hotTouch (n : Nat) (k : BitVec 128) (s : State) : State :=
  modKv (fun q => { q with hot := tput [] q.hot (hotSet k) ((n :: (tget [] q.hot (hotSet k)).filter (· != n)).take 8) }) s

/-- A hit stamps its entry (R172). -/
def stampIdx (n : Nat) (s : State) : State := setIdx n { s.idx n with stamp := s.stampNow % 2 ^ 31 } s

/-- What an insertion puts under a key: a resident block, or a pool handle at a depth. -/
inductive InsKind where
  | loc (b : Nat)
  | dir (handle depth : Nat)
  deriving DecidableEq, Repr

/-- The entry an insertion writes into an empty way. -/
def newEnt (k : BitVec 128) (w : InsKind) (s : State) : IdxEnt :=
  match w with
  | .loc b => ⟨k, true, (s.blk b).pool, b, (s.blk b).handle, (s.blk b).depth, s.stampNow % 2 ^ 31, true⟩
  | .dir h d => ⟨k, false, true, 0, h, d, s.stampNow % 2 ^ 31, true⟩

/-- The block an insertion indexes gets INDEXED and IDXENTRY. -/
def markIndexed (w : InsKind) (n : Nat) (s : State) : State :=
  match w with
  | .loc b => modBlk b (fun x => { x with indexed := true, idx := n }) s
  | .dir _ _ => s

/-- The oldest STAMP of candidate ways, the lowest way of equals. -/
def State.oldestWay (s : State) (ns : List Nat) : Option Nat :=
  bestOf (fun a b => decide ((s.idx a).stamp < (s.idx b).stamp)) ns

/-- Insertion of a key by the first row of R174 that applies. -/
def insertKey (k : BitVec 128) (w : InsKind) (s : State) : State :=
  match s.idxFind k with
  | some n =>
    let e := s.idx n
    match w with
    | .loc b =>
      if e.loc then s
      else markIndexed w n (bump 0x85 (setIdx n { e with loc := true, localBlk := b, stamp := s.stampNow % 2 ^ 31 } s))
    | .dir h _ => bump 0x85 (setIdx n { e with pool := true, handle := h, stamp := s.stampNow % 2 ^ 31 } s)
  | none =>
    let put := fun n s => markIndexed w n (bump 0x85 (setIdx n (newEnt k w s) s))
    match (waysOf k).find? fun n => !(s.idx n).valid with
    | some n => put n s
    | none =>
      match s.oldestWay ((waysOf k).filter fun n => !(s.idx n).loc) with
      | some n => put n (setIdx n IdxEnt.empty s)
      | none =>
        match s.oldestWay ((waysOf k).filter fun n => (s.blk (s.idx n).localBlk).refs == 0) with
        | some n =>
          put n (setIdx n IdxEnt.empty (modBlk (s.idx n).localBlk (fun x => { x with indexed := false, idx := 0 }) s))
        | none => setFlag F.PKV_FLAGS_INDEXDROP (bump 0x86 s)

/-- LOCAL is cleared in the entry that names a block (R179). -/
def clearLocal (b : Nat) (s : State) : State :=
  let x := s.blk b
  if x.indexed then
    modBlk b (fun x => { x with indexed := false, idx := 0 }) (setIdx x.idx { s.idx x.idx with loc := false, localBlk := 0 } s)
  else s

/-! Allocation and release (R176, R179). -/

/-- Names are issued from NODEID, the era and the serial (R176). -/
def issueName (s : State) : BitVec 64 × State :=
  (pack [(16, s.nodeId), (16, s.keep.era), (32, s.kv.serial)], modKv (fun k => { k with serial := k.serial + 1 }) s)

/-- Takes a block number: the lowest Free one, else the cached block of oldest STAMP, lowest number first (R179). -/
def takeBlock (s : State) : Option (Nat × State) :=
  match firstFree (fun b => (s.blk b).state != .free) s.nBlocks 0 with
  | some b => some (b, s)
  | none =>
    match bestOf (fun (a b : Nat × Blk) => decide (a.2.stamp < b.2.stamp)) (s.kv.blocks.filter fun e => e.2.takeable) with
    | some (b, _) => some (b, bump 0x87 (modBlk b (fun _ => Blk.empty) (clearLocal b s)))
    | none => none

/-- The blocks that an allocation can still take. -/
def State.canTake (s : State) (n : Nat) : Bool :=
  decide (n ≤ s.freeBlocks + (s.kv.blocks.filter fun e => e.2.takeable).length)

/-- Block numbers of a seat's chain from KVTAIL toward KVHEAD, with fuel. -/
def walkChain (s : State) : Nat → Nat → List Nat
  | 0, _ => []
  | f + 1, b => b :: (match (s.blk b).prev with
    | some p => walkChain s f p
    | none => [])

/-- The chain of a seat in block order. -/
def State.chain (s : State) (i : Nat) : List Nat :=
  let a := s.seat i
  if a.kvBlocks = 0 then [] else (walkChain s a.kvBlocks.toNat a.kvTail.toNat).reverse

/-- The chain fields of a seat from a list of blocks in order (R22 W8, W9). -/
def setChain (i : Nat) (l : List Nat) (s : State) : State :=
  modSeat i (fun a => { a with
    kvHead := match l.head? with
      | some b => BitVec.ofNat 32 b
      | none => 0xFFFFFFFF
    kvTail := match l.getLast? with
      | some b => BitVec.ofNat 32 b
      | none => 0xFFFFFFFF
    kvBlocks := BitVec.ofNat 20 l.length }) s

/-- A block joins the end of a seat's chain; the caller has set its record. -/
def appendBlock (i b : Nat) (s : State) : State :=
  let a := s.seat i
  let s := modSeat i (fun a => { a with
    kvHead := if a.kvBlocks = 0 then BitVec.ofNat 32 b else a.kvHead
    kvTail := BitVec.ofNat 32 b
    kvBlocks := a.kvBlocks + 1 }) s
  if (s.blk b).prev = none ∧ a.kvBlocks ≠ 0 then modBlk b (fun x => { x with prev := some a.kvTail.toNat }) s else s

/-- A new block for building: named, owned by the seat, in the given state (R176, R80). -/
def newBlock (i : Nat) (st : BlkState) (s : State) : Option (Nat × State) :=
  match takeBlock s with
  | none => none
  | some (b, s) =>
    let n := issueName s
    some (b, modBlk b (fun _ => { Blk.empty with
      refs := 1, state := st, name := n.1, stamp := n.2.stampNow, owner := i, ownerGen := (n.2.seat i).gen.toNat,
      owned := true }) n.2)

/-- A fetch of a block is outstanding on port C. -/
def State.fetchOut (s : State) (b : Nat) : Bool :=
  s.kv.tags.any fun e => match e.2 with
    | .fetch _ _ _ x _ => x == b
    | .backBlk _ _ x _ => x == b
    | .stretch _ _ _ x _ => x == b
    | _ => false

/-- A seat drops its reference to a block: at zero references a complete block stays cached, one that has been asked for waits for
its answer, any other becomes Free (R179, R182, R200). -/
def dropRef (i b : Nat) (s : State) : State :=
  let x := s.blk b
  let own := x.owned && x.owner == i && x.ownerGen == (s.seat i).gen.toNat
  let y := { x with refs := x.refs - 1, owned := x.owned && !own }
  if y.refs = 0 ∧ y.state ≠ .complete ∧ !(y.state == .fetching && s.fetchOut b) ∧ !y.putting then
    modBlk b (fun _ => Blk.empty) (clearLocal b s)
  else modBlk b (fun _ => y) s

/-- A seat drops every block of its chain. -/
def dropChain (i : Nat) (s : State) : State :=
  setChain i [] (each (dropRef i) (s.chain i).reverse s)

/-- The chain is cut to its first `n` blocks; the rest are released. -/
def cutChain (i n : Nat) (s : State) : State :=
  let l := s.chain i
  setChain i (l.take n) (each (dropRef i) (l.drop n).reverse s)

/-! Tokens of a seat by position. -/

/-- The first position whose KV a seat holds: a split seat's stretch start, else 0 (R106). -/
def State.tokBase (s : State) (i : Nat) : Nat :=
  let a := s.seat i
  if a.role = 0 then 0 else (tget SplitEnt.empty s.deals.splits a.splitIdx.toNat).start

/-- The position of the first token in a seat's prompt store: a lead takes the whole context, a follower its stretch (R249). -/
def State.tokOff (s : State) (i : Nat) : Nat := if (s.seat i).role = 2 then s.tokBase i else 0

/-- The token at a position: from the prompt, else from the tokens emitted. -/
def State.tokAt (s : State) (i pos : Nat) : Nat :=
  let d := s.side i
  let a := s.seat i
  if pos < a.promptLen.toNat ∨ a.role = 2 then d.toks.getD (pos - s.tokOff i) 0
  else d.emitted.getD (pos - a.promptLen.toNat) 0

/-- The tokens of block j, up to position `lim` (exclusive). -/
def State.blockToks (s : State) (i j lim : Nat) : List Nat :=
  ((List.range 64).map fun k => 64 * (j - 1) + k).filterMap fun p => if p < lim then some (s.tokAt i p) else none

/-- The number of the first block of a seat's chain, less one: 0, or a stretch's offset in blocks. -/
def State.blkBase (s : State) (i : Nat) : Nat := s.tokBase i / 64

/-- ROUNDEN without ROUNDHIT: no lookup, no insertion, no publishing (R184). -/
def State.noHits (s : State) : Bool := s.rd F.SIEVE_SAMPCFG_ROUNDEN == 1 && s.rd F.PKV_CTRL_ROUNDHIT == 0

/-- PARENT and the parent's h for block j of a seat (R170, R175). The block before a stretch's first block is on another node: both are
then free values (log entry 58). -/
def State.parentOf (s : State) (x : Blk) (j : Nat) : (BitVec 64 × BitVec 128) × State :=
  if j = 1 then ((0, 0), s)
  else match x.prev with
    | some p => (((s.blk p).name, (s.blk p).hash), s)
    | none => let f := takeFree s; let g := takeFree f.2; ((BitVec.ofNat 64 f.1, BitVec.ofNat 128 g.1), g.2)

/-- A block completes: Complete, DEPTH, CTX and PARENT written, hashed, and indexed when INDEXOWN is 1 (R177). A returned
block is complete already and is only indexed (R194). Stretch blocks are not indexed (R198). -/
def completeBlock (i j : Nat) (s : State) : State :=
  let l := s.chain i
  match l[j - 1 - s.blkBase i]? with
  | none => s
  | some b =>
    let x := s.blk b
    let s :=
      if x.state = .complete ∧ x.depth ≠ 0 then s
      else
        let p := s.parentOf x j
        let tk := s.blockToks i j (64 * j)
        modBlk b (fun x => { x with
          state := .complete, depth := j, ctx := (s.side i).ctx, parent := p.1.1, toks := tk
          hash := chainHash s.hkey0 s.hkey1 p.1.2 tk, stamp := s.stampNow }) p.2
    let x := s.blk b
    if s.on F.PKV_CTRL_INDEXOWN ∧ !s.noHits ∧ (s.seat i).role = 0 ∧ !x.indexed then
      insertKey (x.hash ^^^ x.ctx) (.loc b) s
    else s

/-! Tags (R246). -/

/-- A tag for an outstanding request, recorded with its use and the instant. -/
def newTag (u : TagUse) (s : State) : Nat × State :=
  let n := s.kv.nextTag % 2 ^ 24
  (n, modKv (fun k => { k with nextTag := (n + 1) % 2 ^ 24, tags := tins k.tags n u, tagAt := tins k.tagAt n s.now }) s)

/-- The tag is answered. -/
def endTag (n : Nat) (s : State) : State := modKv (fun k => { k with tags := tdel k.tags n, tagAt := tdel k.tagAt n }) s

/-- The words of a block carrier: only the tag words W1 and W4 to W31 carry meaning (R175, R246). -/
def carrierWords (x : Blk) : List Word :=
  let tk := packToks 22 x.toks
  [0, x.name, 0, 0] ++ (tk ++ List.replicate (22 - tk.length) 0) ++
    [x.ctx.extractLsb' 64 64, x.ctx.extractLsb' 0 64, pack [(18, x.depth), (46, 0)], x.parent,
      x.hash.extractLsb' 64 64, x.hash.extractLsb' 0 64]

/-- KV_PUT of a block (R255): NOKEY for an incomplete block; the block is PUTTING until the answer. -/
def putBlock (u : TagUse) (b : Nat) (s : State) : State :=
  let t := newTag u s
  let s := modBlk b (fun x => { x with putting := true }) t.2
  let x := s.blk b
  let key := x.hash ^^^ x.ctx
  let full := x.state == .complete
  sendMsg (mkMsg .C 0 0x33 [(44, 0)]
    [payWord s.carrierBytes t.1, pack [(1, bit (!full)), (18, x.depth), (45, 0)],
      if full then key.extractLsb' 64 64 else 0, if full then key.extractLsb' 0 64 else 0]
    (beatsOf s.carrierBytes) (carrierWords x)) 0 (bump 0x88 s)

/-- A fetch of a seat moves under its port C lease, whose message goes back to the class it came from to be spent (R111). -/
def spendLeaseC (i : Nat) (s : State) : State :=
  if (s.side i).leaseC then
    modSide i (fun d => { d with leaseC := false }) (modSess .C 0 (fun e => { e with out := modNth (· + 1) e.out 1 }) s)
  else s

/-- KV_FETCH or IMAGE_FETCH of a handle under a tag (R255). -/
def fetchHandle (op : Nat) (u : TagUse) (handle : Nat) (s : State) : State :=
  let s := match u with
    | .fetch i _ _ _ _ | .backBlk i _ _ _ | .stretch i _ _ _ _ | .imageBack i _ _ => spendLeaseC i s
    | _ => s
  let t := newTag u s
  sendMsg (mkMsg .C 0 op [(44, 0)] [handleTag handle t.1] 0 []) 1 t.2

/-- IMAGE_DROP of a handle (R191). -/
def dropImage (handle : Nat) (s : State) : State :=
  sendMsg (mkMsg .C 0 0x39 [(44, 0)] [handleTag handle 0] 0 []) 1 s

/-- The context record of a seat and its value C (R169). -/
def contextRecord (s : State) (i : Nat) : List Word :=
  let a := s.seat i
  let ts := s.rd F.PKV_CTRL_TENANTSCOPE
  [(s.model a.model.toNat a.modelVs.toNat).f.name,
    pack [(16, a.modelVer.toNat), (16, if a.adapterOn then a.adapter.toNat else 0xFFFF),
      (16, if a.adapterOn then a.adapterVer.toNat else 0), (16, if a.lprefixOn then a.lprefix.toNat else 0xFFFF)],
    pack [(16, if a.lprefixOn then a.lprefixVer.toNat else 0), (12, if ts = 1 then a.tenant.toNat else 0), (1, ts), (35, 0)],
    0]

/-- The context value C is formed and held in the context table (R169). -/
def formContext (i : Nat) (s : State) : State :=
  modSide i (fun d => { d with ctx := sip128 s.hkey0 s.hkey1 (contextRecord s i) }) s

/-- Pages of the prompt store in use (R180). -/
def State.usedPages (s : State) : Nat := sumOf (s.led.sides.map fun e => e.2.pages.length)

/-- Free pages of the prompt store (R180). -/
def State.freePages (s : State) : Nat := s.fld F.PKV_PROMPTCFG_PAGES - s.usedPages

/-- The pages of blocks for which the test holds are released (R180). -/
def freePagesOf (i : Nat) (p : Nat → Bool) (s : State) : State :=
  modSide i (fun d => { d with pages := d.pages.filter fun j => !p j }) s

end Sys2Proof.Machine
end

