-- ==== Sys2Proof/Machine/Life.lean ====
section
/-! DEFINITION. The life of a seat: closing through Draining and Closed to
Free (R25 to R32, R195, R253), pausing and resuming (R34), and the actions taken at once while the node is idle or stopped
(R327). -/
namespace Sys2Proof.Machine

/-! Closing. -/

/-- CLOSE is formed, once; it leaves with the reason the seat then holds, and the pot is settled as it does. A follower never sends
it, none is sent for a request whose ADMIT never left or after a lost session, whose pot is settled at Closed (R14, R30, R44, R241,
R253). -/
def closeOut (i : Nat) (s : State) : State :=
  let d := s.side i
  if d.closeSent then s
  else
    let s := modSide i (fun d => { d with closeSent := true }) s
    if (s.seat i).role = 2 ∨ d.phase = .dropped ∨ d.phase = .lost ∨ s.live .G 0 = false then bump (closeCnt (s.seat i).closeReason.toNat) s
    else sendFor (mkMsg .G 0 0x15 [] [] 0 []) 1 i 2 0 s

/-- SPLIT_CLOSE to every follower of a lead (R19, R29, R256). -/
def closeFollowers (i reason : Nat) (s : State) : State :=
  let a := s.seat i
  if a.role ≠ 1 then s
  else
    let e := tget SplitEnt.empty s.deals.splits a.splitIdx.toNat
    each (fun (m : Nat × Nat × Nat) s =>
      match s.peerOf m.1 with
      | some p => sendN p 0x72 1 [(8, reason), (36, 0)] [0, seatWord m.2.1 m.2.2 0] 0 [] s
      | none => s) e.others s

/-- PREFILL_ABANDON for a seat whose shipment has left (R194, R254). -/
def abandonShip (i : Nat) (s : State) : State :=
  match (s.side i).ship with
  | some h =>
    let s := modSide i (fun d => { d with ship := none }) s
    if h.sent then sendMsg (mkMsg .P 0 0x23 [(44, 0)] [seatWord i (s.seat i).gen.toNat 0] 0 []) 1 s else s
  | none => s

/-- Waits, offers and split-table entry of a closing split seat end (R106, R109). -/
def endSplit (i : Nat) (s : State) : State :=
  let a := s.seat i
  if a.role = 0 then s
  else modDeals (fun d => { d with
    splits := tdel d.splits a.splitIdx.toNat
    peerWaits := d.peerWaits.filter fun w => w.seat != i
    followWaits := d.followWaits.filter fun w => w.1 != i
    offers := d.offers.filter fun o => o.seat != i }) s

/-- Blocks a closing seat offers to the cache pool (R195). -/
def State.toPublish (s : State) (i : Nat) : List Nat :=
  if s.on F.PKV_CTRL_PUBLISH ∧ !s.noHits ∧ s.live .C 0 ∧ s.portOpen .C then
    (s.chain i).filter fun b =>
      let x := s.blk b
      x.state == .complete && !x.pool && !x.putting && x.owned && x.owner == i && x.ownerGen == (s.seat i).gen.toNat
  else []

/-- Blocks linked by a lookup that has not ended are released (R17, R182). -/
def dropRun (i : Nat) (s : State) : State :=
  match (s.side i).lookup with
  | some l => modSide i (fun d => { d with lookup := none }) (each (fun k s => dropRef i k.blk s) l.run s)
  | none => s

/-- The resources of a Closed seat are released: KV released or published, image dropped, and, once its CLOSE has left, the pins
dropped and the index free again (R24, R25, R33, R195). -/
def closedToFree (i : Nat) (s : State) : State :=
  let a := s.seat i
  let pub := s.toPublish i
  let s := if a.spillHandle ≠ 0xFFFFFFFF then dropImage a.spillHandle.toNat s else s
  let s := dropChain i (dropRun i s)
  let s := each (fun b s => putBlock (.putPublish b) b s) pub s
  let s := endSplit i s
  if s.closeQueued i then s else releaseIndex i s

/-- A seat reaches Closed: LIVE and LIVESEATS fall by one, the followers of a lead close with it, and the ledger frees it. -/
def enterClosed (i : Nat) (s : State) : State :=
  let a := s.seat i
  let s := modSeat i (fun a => { a with state := .closed }) s
  let s := if s.closeQueued i then s else settle i a.closeReason.toNat s
  let s := closeFollowers i (if a.closeReason.toNat ≤ 3 then 0 else a.closeReason.toNat) s
  let s := if a.role = 2 then s else
    modTenant a.tenant.toNat (fun t => { t with liveSeats := t.liveSeats - 1 })
      (modCls a.cls.toNat (fun c => { c with live := c.live - 1 }) s)
  closedToFree i s

/-- A direct close of a seat in Opening after ADMIT, Routed-to-prompt, Paused or Spilled (R30). -/
def closeDirect (i reason : Nat) (s : State) : State :=
  let s := modSeat i (fun a => { a with closeReason := BitVec.ofNat 8 reason }) (abandonShip i s)
  enterClosed i (closeOut i s)

/-- A seat enters Draining with a reason; CLOSE follows its last TOKENS (R30). -/
def enterDraining (i reason : Nat) (s : State) : State :=
  modSeat i (fun a => { a with state := .draining, closeReason := BitVec.ofNat 8 reason }) s

/-- No deal is running, no boundary is under way and no deal has been handed off (R327). -/
def State.idle (s : State) : Bool := s.deals.running.isNone && s.deals.boundaryOf.isNone && s.deals.handed.isNone

/-- The ledger acts without waiting for a boundary (R327); after a sag warning the main domain is isolated from it (R276). -/
def State.atOnce (s : State) : Bool := s.pwr.state != 5 && (s.idle || s.deals.stopped)

/-- A deal holds rows of a seat. -/
def Deal.holds (d : Deal) (i gen : Nat) : Bool := d.seats.any fun x => x.seat == i && x.gen == gen

/-- The running or the handed-off deal holds rows of a seat. -/
def State.inFlight (s : State) (i : Nat) : Bool :=
  let g := (s.seat i).gen.toNat
  (match s.deals.running with
    | some r => r.deal.holds i g
    | none => false) ||
  (match s.deals.handed with
    | some d => d.holds i g
    | none => false)

/-- The seat is a Draining one that no launched deal holds: firmware closes it (R27 step 7, R327). -/
def finishDraining (i : Nat) (s : State) : State :=
  if (s.seat i).state = .draining ∧ (!s.inFlight i || s.deals.stopped) = true then enterClosed i (closeOut i s) else s

/-- A firmware close with a reason, from any state that it can close (R25, R29, R30). -/
def closeSeat (i reason : Nat) (s : State) : State :=
  match (s.seat i).state with
  | .opening =>
    match (s.side i).phase with
    | .admitted | .answered | .dropped | .lost => closeDirect i reason s
    | _ => modSide i (fun d => { d with closeAfter := if d.closeAfter = 0 then reason else d.closeAfter }) s
  | .routed | .paused | .spilled => closeDirect i reason s
  | .prefilling | .ready | .dealt =>
    let s := closeOut i (enterDraining i reason s)
    if s.atOnce then finishDraining i s else s
  | _ => s

/-! Pausing (R34, R57, R58, R114). -/

/-- SPLIT_PAUSE or SPLIT_RESUME to every follower of a lead (R114). -/
def tellFollowers (op i : Nat) (s : State) : State :=
  let a := s.seat i
  if a.role ≠ 1 then s
  else each (fun (m : Nat × Nat × Nat) s =>
    match s.peerOf m.1 with
    | some p => sendN p op 1 [(44, 0)] [0, seatWord m.2.1 m.2.2 0] 0 [] s
    | none => s) (tget SplitEnt.empty s.deals.splits a.splitIdx.toNat).others s

/-- A seat in Ready or Dealt with PAUSEREQ set becomes Paused: PAUSEEPOCH, PAUSES, its leases return (R27 step 5, R35). -/
def pauseSeat (i epoch : Nat) (s : State) : State :=
  let s := modSeat i (fun a => { a with
    state := .paused, pauseEpoch := BitVec.ofNat 48 epoch, pauses := if a.pauses = 0xFFFF then a.pauses else a.pauses + 1 }) s
  let s := modPorts (fun p => { p with
    pool := p.pool + bit (s.side i).lease, poolC := p.poolC + bit (s.side i).leaseC }) s
  let s := modSide i (fun d => { d with lease := false, leaseC := false, leaseN := false, budgetEdges := 0 }) s
  tellFollowers 0x73 i (bump 0x0C s)

/-- Why a seat is paused: W29 bit 0 a budget pause, bit 1 a load pause (R46). -/
def budgetBit : BitVec 64 := 1

/-- The load-pause bit of W29. -/
def loadBit : BitVec 64 := 2

/-- Firmware sets PAUSEREQ and marks the reason (R34, R46, R57). -/
def requestPause (i : Nat) (why : BitVec 64) (s : State) : State :=
  modSeat i (fun a => { a with pauseReq := true, scratch0 := a.scratch0 ||| why }) s

/-- Order of pauses: oldest PAUSEEPOCH first, then the lowest seat index (R46, R58). -/
def State.pauseOrder (s : State) (l : List Nat) : List Nat :=
  sortBy (fun a b => decide ((s.seat a).pauseEpoch.toNat < (s.seat b).pauseEpoch.toNat) ||
    ((s.seat a).pauseEpoch == (s.seat b).pauseEpoch && decide (a ≤ b))) l

/-- A stop, cancel or pause that no boundary has to be waited for (R327). -/
def atOnceSeat (i : Nat) (s : State) : State :=
  let a := s.seat i
  let work := a.state = .prefilling ∨ a.state = .ready ∨ a.state = .dealt
  if a.cancel = true ∧ work then finishDraining i (closeOut i (enterDraining i 0x10 s))
  else if a.pauseReq = true ∧ (a.state = .ready ∨ a.state = .dealt) then pauseSeat i s.deals.lastDone s
  else if a.state = .draining then finishDraining i s
  else s

/-- The ledger's actions while the node is idle or stopped (R327). -/
def idleActions (s : State) : State := if s.atOnce then each atOnceSeat s.seatIdx s else s

/-! Requests by id (R21). -/

/-- The seat of a live request id, which is live until its seat is Free; an id whose directory entry was lost is unknown (R21, R37).
DESIGN CHOICE: a follower's seat is found on port N alone, so an OPEN with its id is no duplicate (log entry 51). -/
def State.findReq (s : State) (reqid : BitVec 64) : Option Nat :=
  (s.led.seats.find? fun e =>
    e.2.state != .free && e.2.role != 2 && e.2.reqid == reqid && !s.led.lostDir.contains e.1).map (·.1)

/-- The lowest-numbered Free seat index that is not retired (R21). -/
def State.freeSeatIdx (s : State) : Option Nat :=
  firstFree (fun i => (s.seat i).state != .free || s.led.retired.contains i) 65536 0

/-- Free to Opening: the generation rises by one and every field takes its value at start (R20, R22). -/
def takeSeat (i : Nat) (s : State) : State :=
  let s := modLed (fun l => { l with lostDir := l.lostDir.filter fun k => k != i }) s
  setSide i Side.empty (setSeat i { Seat.empty with
    state := .opening, gen := (s.seat i).gen + 1, arrival := s.counter, spillHandle := 0xFFFFFFFF, splitIdx := 0xFFFF
    pctPtr := BitVec.ofNat 32 (s.fld F.SIEVE_PCTCFG_BASE + i * s.fld F.SIEVE_PCTCFG_CAP * 8 / 64) } s)

end Sys2Proof.Machine
end

