-- ==== Sys2Proof/Machine/Numeric.lean ====
section
/-! DEFINITION. The binary32 and binary64 arithmetic of the Sieve (R124, R125, R135, R149, R150): values are exact dyadic
rationals, every operation is computed exactly and rounded once, to nearest with ties to even. exp and ln are computed with
320 fractional bits and then rounded (log entry 10). -/
namespace Sys2Proof.Machine

/-- The value m x 2^e. -/
structure Dy where
  m : Int
  e : Int
  deriving DecidableEq, Repr

/-- A binary32 datum: NaN, an infinity with its sign, or a finite value. -/
inductive F32 where
  | nan
  | inf (neg : Bool)
  | fin (v : Dy)
  deriving DecidableEq, Repr

/-- The binary32 value of 32 bits. -/
def f32 (bits : Nat) : F32 :=
  let s := bits / 2 ^ 31 % 2
  let e := bits / 2 ^ 23 % 2 ^ 8
  let f := bits % 2 ^ 23
  if e = 255 then (if f = 0 then .inf (s == 1) else .nan)
  else
    let m : Nat := if e = 0 then f else f + 2 ^ 23
    .fin ⟨if s = 1 then - (m : Int) else (m : Int), (max e 1 : Nat) - 150⟩

/-- The numerator of a value over 2^(-k), for a k that makes it whole. -/
def Dy.scaled (a : Dy) (e : Int) : Int := a.m * (2 ^ (a.e - e).toNat : Nat)

/-- Exact comparison. -/
def Dy.lt (a b : Dy) : Bool :=
  let e := min a.e b.e
  decide (a.scaled e < b.scaled e)

/-- Exact equality of values. -/
def Dy.eqv (a b : Dy) : Bool := !a.lt b && !b.lt a

/-- Exact at-most. -/
def Dy.le (a b : Dy) : Bool := !b.lt a

/-- Zero and whole numbers. -/
def Dy.ofInt (n : Int) : Dy := ⟨n, 0⟩

/-- num / den rounded to nearest, ties to even, with p significant bits and least exponent emin. -/
def roundRat (p : Nat) (emin : Int) (num : Int) (den : Nat) : Dy :=
  let a := num.natAbs
  if a = 0 ∨ den = 0 then ⟨0, 0⟩ else
  let l : Int := (Nat.log2 a : Int) - (Nat.log2 den : Int)
  let ge : Bool := decide (den * 2 ^ l.toNat ≤ a * 2 ^ (-l).toNat)
  let ex : Int := if ge then l else l - 1
  let e := max (ex - (p - 1 : Nat)) emin
  let n := a * 2 ^ (-e).toNat
  let d := den * 2 ^ e.toNat
  let q := n / d
  let r := n % d
  let q := if 2 * r > d ∨ (2 * r = d ∧ q % 2 = 1) then q + 1 else q
  ⟨if num < 0 then - (q : Int) else (q : Int), e⟩

/-- Rounding of a rational to binary64, subnormals included. -/
def rnd64 (num : Int) (den : Nat) : Dy := roundRat 53 (-1074) num den

/-- Rounding of an exact dyadic to binary64. -/
def Dy.rnd64 (a : Dy) : Dy := Machine.rnd64 (a.m * (2 ^ a.e.toNat : Nat)) (2 ^ (-a.e).toNat)

/-- Binary64 sum. -/
def Dy.add (a b : Dy) : Dy :=
  let e := min a.e b.e
  (Dy.mk (a.scaled e + b.scaled e) e).rnd64

/-- Binary64 difference. -/
def Dy.sub (a b : Dy) : Dy := a.add ⟨-b.m, b.e⟩

/-- Binary64 product. -/
def Dy.mul (a b : Dy) : Dy := (Dy.mk (a.m * b.m) (a.e + b.e)).rnd64

/-- Binary64 quotient; 0 when the divisor is 0 (never asked: TEMP is above 0 where it divides). -/
def Dy.div (a b : Dy) : Dy :=
  if b.m = 0 then ⟨0, 0⟩ else
  let e := a.e - b.e
  let num := a.m * (if b.m < 0 then -1 else 1) * (2 ^ e.toNat : Nat)
  Machine.rnd64 num (b.m.natAbs * 2 ^ (-e).toNat)

/-- Fractional bits of the series below. -/
def fixP : Nat := 320

/-- ln 2 with 320 fractional bits, truncated. -/
def ln2Fix : Int := 1480553391661173448385607439722553250922680800745876974795605978609098082859138712941075737848984

/-- Floor of a value with 320 fractional bits. -/
def Dy.fix (a : Dy) : Int :=
  let e := a.e + fixP
  if 0 ≤ e then a.m * (2 ^ e.toNat : Nat) else Int.ediv a.m (2 ^ (-e).toNat : Nat)

/-- Terms n, n + 1, ... of the exponential series of r (fixed point), with fuel. -/
def expTerms : Nat → Nat → Int → Int → Int
  | 0, _, _, _ => 0
  | f + 1, n, r, t => t + expTerms f (n + 1) r (Int.ediv (t * r) ((n + 1) * 2 ^ fixP : Nat))

/-- exp correctly rounded to binary64; above 710 the value 2^1024 stands for overflow, below -746 the result is 0. -/
def exp64 (x : Dy) : Dy :=
  if (Dy.ofInt 710).lt x then ⟨1, 1024⟩
  else if x.lt (Dy.ofInt (-746)) then ⟨0, 0⟩
  else
    let X := x.fix
    let k := Int.ediv (2 * X + ln2Fix) (2 * ln2Fix)
    let r := X - k * ln2Fix
    let s := expTerms 72 0 r (2 ^ fixP : Nat)
    (Dy.mk s (k - fixP)).rnd64

/-- Terms of the series of atanh t (fixed point), t2 its square, with fuel. -/
def atanhTerms : Nat → Nat → Int → Int → Int
  | 0, _, _, _ => 0
  | f + 1, n, t2, t => Int.ediv t (2 * n + 1 : Nat) + atanhTerms f (n + 1) t2 (Int.ediv (t * t2) (2 ^ fixP : Nat))

/-- ln of a value above 0, with 320 fractional bits. -/
def lnFix (y : Dy) : Int :=
  let a := y.m.natAbs
  let b := Nat.log2 a
  let big : Bool := decide (3 * 2 ^ b < 2 * a)
  let b := if big then b + 1 else b
  let k : Int := y.e + b
  let num : Int := (a : Int) - (2 ^ b : Nat)
  let t := Int.ediv (num * (2 ^ fixP : Nat)) (a + 2 ^ b : Nat)
  let t2 := Int.ediv (t * t) (2 ^ fixP : Nat)
  k * ln2Fix + 2 * atanhTerms 80 0 t2 t

/-- ln correctly rounded to binary64 of a value above 0. -/
def ln64 (y : Dy) : Dy := (Dy.mk (lnFix y) (-(fixP : Int))).rnd64

/-- An extended result of binary32 arithmetic. -/
inductive Ext where
  | ninf
  | fin (v : Dy)
  | pinf
  deriving DecidableEq, Repr

/-- An exact value rounded to binary32, with overflow to an infinity. -/
def rnd32 (a : Dy) : Ext :=
  let v := roundRat 24 (-149) (a.m * (2 ^ a.e.toNat : Nat)) (2 ^ (-a.e).toNat)
  if (Dy.mk 1 128).le v then .pinf
  else if v.le (Dy.mk (-1) 128) then .ninf
  else .fin v

/-- L of R135: 0 when MINP is at least 1, otherwise -ln MINP correctly rounded to binary32. MINP is finite and above 0. -/
def minpL (minp : Dy) : Dy :=
  if (Dy.ofInt 1).le minp then ⟨0, 0⟩
  else match rnd32 ⟨- lnFix minp, -(fixP : Int)⟩ with
    | .fin v => v
    | _ => ⟨0, 0⟩

/-- Q of R135: TEMP x L in binary32; 0 where the product is NaN. -/
def minpQ (temp : F32) (l : Dy) : Ext :=
  match temp with
  | .nan => .fin ⟨0, 0⟩
  | .inf _ => if l.m = 0 then .fin ⟨0, 0⟩ else .pinf
  | .fin t => rnd32 ⟨t.m * l.m, t.e + l.e⟩

/-- BOUND of R135: LMAX - Q in binary32, with LMAX finite. -/
def minpBound (lmax : Dy) (temp : F32) (minp : Dy) : Ext :=
  match minpQ temp (minpL minp) with
  | .pinf => .ninf
  | .ninf => .pinf
  | .fin q =>
    let e := min lmax.e q.e
    rnd32 ⟨lmax.scaled e - q.scaled e, e⟩

/-- Bits of a binary32 value that is exactly representable, for the record and the digest (R140, R294). -/
def Ext.bits : Ext → Nat
  | .ninf => 0xFF800000
  | .pinf => 0x7F800000
  | .fin v =>
    let a := v.m.natAbs
    if a = 0 then 0 else
    let s := if v.m < 0 then 2 ^ 31 else 0
    let ex : Int := v.e + Nat.log2 a
    let e := max (ex - 23) (-149)
    let q := if e ≤ v.e then a * 2 ^ (v.e - e).toNat else a / 2 ^ (e - v.e).toNat
    s + (if q < 2 ^ 23 then q else (e + 149).toNat * 2 ^ 23 + q)

/-- Bits of a binary64 value that is exactly representable (R294). -/
def Dy.bits64 (v : Dy) : Nat :=
  let a := v.m.natAbs
  if a = 0 then 0 else
  let s := if v.m < 0 then 2 ^ 63 else 0
  let ex : Int := v.e + Nat.log2 a
  let e := max (ex - 52) (-1074)
  let q := if e ≤ v.e then a * 2 ^ (v.e - e).toNat else a / 2 ^ (e - v.e).toNat
  s + (if q < 2 ^ 52 then q else (e + 1074).toNat * 2 ^ 52 + q)

/-- Order of two logits by value, as R124 compares them: -0 equals +0; the infinities at their ends; a NaN below all. -/
def logitLt (a b : Nat) : Bool :=
  match f32 a, f32 b with
  | .nan, .nan => false
  | .nan, _ => true
  | _, .nan => false
  | .inf true, .inf true => false
  | .inf true, _ => true
  | _, .inf true => false
  | .inf false, _ => false
  | .fin _, .inf false => true
  | .fin x, .fin y => x.lt y

/-- Two logits equal by value. -/
def logitEq (a b : Nat) : Bool := !logitLt a b && !logitLt b a

end Sys2Proof.Machine
end

