-- ==== Sys2Proof/Machine/Sieve.lean ====
section
/-! DEFINITION. Sieve I: candidate lists, merging, settling, the cuts and refill rounds (R122 to R143). -/
namespace Sys2Proof.Machine

/-- An open row by seat and row number. -/
def State.row (s : State) (seat row : Nat) : Option Row := s.sieve.rows.find? fun r => r.seat == seat && r.row == row

/-- The write of a row. -/
def putRow (r : Row) (s : State) : State :=
  modSieve (fun q => { q with rows := q.rows.map fun x => if x.seat == r.seat && x.row == r.row then r else x }) s

/-- The latest row error is recorded (R145): kind 1 DUP, 2 SORTERR, 3 LIMIT, 4 EMPTY. -/
def errRow (r : Row) (kind : Nat) (s : State) : State :=
  setReg 0x2030 (pack [(16, r.seat), (16, r.gen), (32, 0)]) (setReg 0x2028 (pack [(48, s.epochNow), (4, r.row), (4, kind), (8, 0)]) s)

/-! The candidate entry (R123 to R125). -/

/-- NaN bits. -/
def isNan (l : Nat) : Bool := match f32 l with
  | .nan => true
  | _ => false

/-- -∞ bits. -/
def isNinf (l : Nat) : Bool := match f32 l with
  | .inf neg => neg
  | _ => false

/-- +∞ bits. -/
def isPinf (l : Nat) : Bool := match f32 l with
  | .inf neg => !neg
  | _ => false

/-- A logit is valid under a THRESH: no NaN, not -∞, not below it; a NaN THRESH turns it off (R125). -/
def validLogit (thresh l : Nat) : Bool := !isNan l && !isNinf l && (isNan thresh || !logitLt l thresh)

/-- Canonical order (R124). -/
def precedes (l1 t1 l2 t2 : Nat) : Bool := logitLt l2 l1 || (logitEq l1 l2 && decide (t1 < t2))

/-- The entry precedes the next unsent entry of a shard. -/
def Held.beforeNext (h : Held) (x : ShardSum) : Bool := precedes h.logit h.tok x.nextVal x.nextId

/-- The next unsent entry of a shard precedes a held entry. -/
def ShardSum.before (x : ShardSum) (h : Held) : Bool := precedes x.nextVal x.nextId h.logit h.tok

/-- The list of a message is in canonical order, its last entry before its NEXT; NaN and -∞ are left out (R131). -/
def inOrder (m : CandMsg) : Bool :=
  let es := (m.entries.map fun e => (e.logit.toNat, e.token.toNat)).filter fun e => !isNan e.1 && !isNinf e.1
  let nx := (m.nextVal.toNat, m.nextId.toNat)
  let rec go : List (Nat × Nat) → Bool
    | [] => true
    | [a] => isNan nx.1 || isNinf nx.1 || precedes a.1 a.2 nx.1 nx.2
    | a :: b :: r => precedes a.1 a.2 b.1 b.2 && go (b :: r)
  go es

/-- A valid entry joins the held list at its canonical place (R128). -/
def heldIns (h : Held) : List Held → List Held
  | [] => [h]
  | x :: r => if precedes h.logit h.tok x.logit x.tok then h :: x :: r else x :: heldIns h r

/-- The entry that dedup keeps: the lower shard, then the earlier round (R130). -/
def dedupKeeps (new old : Held) : Bool := decide (new.shard < old.shard) || (new.shard == old.shard && decide (new.round < old.round))

/-- What stands at positions COUNT onward of a kept list (R136). -/
def Held.sentinelEntry : Held := ⟨0xFFFFF, 0xFF800000, 0, 0, false, false, true, false, false, false⟩

/-- The FLAGS of a held entry (R123). -/
def Held.flags (h : Held) : Nat := 32 * bit h.sentinel + 16 * bit h.dup + 8 * bit h.tie + 4 * bit h.pinf + 2 * bit h.kept

/-- A held entry as the lane keeps it, in one word (R123). -/
def Held.word (h : Held) : Word := pack [(20, h.tok), (32, h.logit), (6, h.shard), (6, h.flags)]

/-- An entry arrives at a row: dropped when invalid, merged otherwise; the Bool says whether a duplicate was removed. -/
def takeEntry (thresh : Nat) (e : Held) (r : Row) : Row × Bool :=
  if isNan e.logit then ({ r with nanIn := true }, false)
  else if !validLogit thresh e.logit then (r, false)
  else match r.held.find? fun x => x.tok == e.tok with
    | none => ({ r with held := heldIns e r.held }, false)
    | some old =>
      let keep := if dedupKeeps e old then e else old
      ({ r with held := heldIns { keep with dup := true } (r.held.filter fun x => x.tok != e.tok), dups := r.dups + 1 }, true)

/-! Lane storage (R142). -/

/-- Entries that a lane holds or has reserved. -/
def State.laneLoad (s : State) (lane : Nat) : Nat :=
  sumOf ((s.sieve.rows.filter fun r => r.lane == lane).map fun r => r.held.length + r.reserved)

/-- Entries that lie in a lane's on-lane store, with the room reserved there. DESIGN CHOICE: reserved room is the store's while the
store has any (log entry 57). -/
def State.storeLoad (s : State) (lane : Nat) : Nat :=
  sumOf ((s.sieve.rows.filter fun r => r.lane == lane).map fun r => (r.held.filter fun h => !h.ovf).length + r.reserved)

/-- Entries of the on-lane store. -/
def laneStore : Nat := 32768

/-- Entries of store and overflow region together. -/
def laneRoom : Nat := 4227072

/-! Settling and the cuts (R132 to R136). -/

/-- A shard is open for a row: not exhausted, and its next entry valid (R132). -/
def ShardSum.isOpen (thresh : Nat) (x : ShardSum) : Bool := !x.exhausted && validLogit thresh x.nextVal

/-- Open shards of a row, in shard order. -/
def Row.opens (r : Row) (thresh : Nat) : List ShardSum := r.sums.filter fun x => x.isOpen thresh

/-- The settled depth S (R132). -/
def Row.settled (r : Row) (thresh : Nat) : Nat :=
  (r.held.takeWhile fun h => (r.opens thresh).all fun x => h.beforeNext x).length

/-- Min-p is on (R135). -/
def minOn (a : Seat) : Bool := match f32 a.minp.toNat with
  | .fin v => decide (0 < v.m)
  | .inf neg => !neg
  | .nan => false

/-- LMAX of a row, -∞ when it holds nothing (R140). -/
def Row.lmax (r : Row) : Nat := match r.held with
  | h :: _ => h.logit
  | [] => 0xFF800000

/-- A degenerate row (R133). -/
def Row.degen (r : Row) : Bool := isPinf r.lmax

/-- BOUND of R135 as binary32 bits under the row's present LMAX, -∞ when min-p is off or the row is degenerate. -/
def Row.boundNow (r : Row) (a : Seat) : Nat :=
  if !minOn a || r.degen then 0xFF800000
  else match f32 r.lmax with
    | .fin l =>
      let mp := match f32 a.minp.toNat with
        | .fin v => v
        | _ => Dy.ofInt 1
      (minpBound l (f32 a.temp.toNat) mp).bits
    | _ => 0xFF800000

/-- BOUND of a row: that of its first evaluation (R135). -/
def Row.bound (r : Row) (a : Seat) : Nat := if r.degen then 0xFF800000 else r.bnd.getD (r.boundNow a)

/-- The first evaluation fixes BOUND (R135). -/
def Row.fixBound (r : Row) (a : Seat) : Row := if r.bnd.isSome || r.degen then r else { r with bnd := some (r.boundNow a) }

/-- The need set of Sieve I (R137). -/
def Row.needs (r : Row) (a : Seat) : List Nat :=
  let th := a.thresh.toNat
  let op := r.opens th
  let k := a.topk.toNat
  let s := r.settled th
  let n := r.held.length
  let ahead := match r.held[k - 1]? with
    | some h => op.filter fun x => x.before h
    | none => []
  let sel :=
    if r.degen then
      let p := (r.held.filter fun h => isPinf h.logit).length
      if 0 < k ∧ k ≤ p then (if s < k then ahead else [])
      else op.filter fun x => isPinf x.nextVal
    else
      let top := if k = 0 then [] else if k ≤ n then (if s < k then ahead else []) else op
      let mn := if minOn a then op.filter fun x => !logitLt x.nextVal (r.bound a) else []
      op.filter fun x => top.contains x || mn.contains x
  sel.map (·.shard)

/-- The row selection when no further refill is needed (R133, R134, R136, R140). -/
def Row.select (r : Row) (a : Seat) : SelRec :=
  let th := a.thresh.toNat
  let k := a.topk.toNat
  let n := r.held.length
  let dg := r.degen
  let base := if dg then (r.held.filter fun h => isPinf h.logit).length else n
  let mn := (r.held.filter fun h => !logitLt h.logit (r.bound a)).length
  let c := if 0 < k then min k base else base
  let c := if minOn a && !dg then min c mn else c
  let by_ := if 0 < k ∧ k = c then 1 else if minOn a && !dg && mn == c then 2 else 0
  let kth := r.held[k - 1]?
  let tied : Bool := match kth with
    | some h => by_ == 1 && (match r.held[k]? with
      | some g => logitEq g.logit h.logit
      | none => false)
    | none => false
  { count := c, held := n, settled := r.settled th, lastRound := r.round, dups := min 255 r.dups, cutBy := by_
    short := decide (0 < k) && !dg && (r.opens th).isEmpty && decide (n < k)
    tieOver := tied
    tieMore := by_ == 1 && match kth with
      | some h => (r.opens th).any fun x => logitEq x.nextVal h.logit
      | none => false
    degen := dg, dup := decide (0 < r.dups), nanIn := r.nanIn, sortErr := r.sortErr, limit := r.limit
    empty := n == 0 && (r.opens th).isEmpty, approx := false, abandoned := false
    tiex := if tied then match kth with
      | some h => ((r.held.drop k).filter fun g => logitEq g.logit h.logit).length
      | none => 0
    else 0
    bound := r.bound a, lmax := r.lmax }

/-- The flags of the held entries at a cut: TIE on every one with the k-th logit when TIEOVER is set, KEPT on those inside the cut,
PINF on those of a degenerate row (R133, R134, R136). -/
def Row.mark (r : Row) (a : Seat) (x : SelRec) : Row :=
  let kth := r.held[a.topk.toNat - 1]?
  let tied := fun (g : Held) => x.tieOver && match kth with
    | some h => logitEq g.logit h.logit
    | none => false
  { r with held := r.held.zipIdx.map fun (g, i) =>
      { g with tie := tied g, kept := decide (i < x.count), pinf := x.degen && decide (i < x.count) } }

/-- The entry that a reader of the kept list finds at a position from 0: a sentinel from COUNT on (R136). -/
def Row.keptAt (r : Row) (x : SelRec) (i : Nat) : Held := if i < x.count then r.held.getD i Held.sentinelEntry else Held.sentinelEntry

/-- The kept entries of a row whose selection is final (R136). -/
def Row.keptList (r : Row) (x : SelRec) : List Held := ((List.range x.count).map (r.keptAt x)).filter fun h => !h.sentinel

/-- Sieve I cuts the row: the kept list is complete (R136). -/
def SelRec.cut (x : SelRec) (a : Seat) : Bool := x.degen || decide (0 < a.topk.toNat) || minOn a

/-- Word 1 of the row selection record (R140). -/
def selWord1 (x : SelRec) : Word :=
  pack [(12, x.lastRound), (8, x.dups), (2, x.cutBy), (1, bit x.short), (1, bit x.tieOver), (1, bit x.tieMore), (1, bit x.degen),
    (1, bit x.dup), (1, bit x.nanIn), (1, bit x.sortErr), (1, bit x.limit), (1, bit x.empty), (1, bit x.approx),
    (1, bit x.abandoned), (21, x.tiex), (10, 0)]

/-- Flags and counters of a row whose selection closes (R145, R285). -/
def countSel (r : Row) (x : SelRec) (s : State) : State :=
  let s := if x.empty then errRow r 4 (setFlag F.SIEVE_FLAGS_EMPTY (bump 0x67 s)) else s
  let s := if x.degen then setFlag F.SIEVE_FLAGS_DEGEN (bump 0x68 s) else s
  let s := if x.nanIn then bump 0x69 s else s
  let s := if x.tieOver then bump 0x6A s else s
  if x.short then bump 0x6B s else s

/-! Refill (R137, R138, R142, R153). -/

/-- The default slot table (R95). -/
def slotDefault (n : Nat) : Slot :=
  if n < 64 then ⟨true, false, n / 4, 2048, 16, 0⟩
  else if n < 256 then ⟨true, false, 16 + (n - 64) / 4, 0, 0, 128⟩
  else Slot.empty

/-- The engine group of a seat's dense slot in a deal. -/
def Deal.groupOf (d : Deal) (seat : Nat) : Option Nat := (d.seats.find? fun x => x.seat == seat).map (·.group)

/-- The engine group of a seat's dense slot in the running deal, or in the deal handed off. -/
def State.seatGroup (s : State) (seat : Nat) : Nat :=
  ((s.deals.running.bind fun r => r.deal.groupOf seat).or (s.deals.handed.bind fun d => d.groupOf seat)).getD 0

/-- The mask of a list of shards. -/
def shardMask (l : List Nat) : Nat := sumOf ((nodupNat l).map fun k => 2 ^ k)

/-- REFILL leaves for the next round, its room reserved (R137, R138). -/
def sendRefill (r : Row) (shards : List Nat) (sampling : Bool) (s : State) : State :=
  let n := s.rd F.SIEVE_CANDCFG_REFILLN
  let s := if r.refilled then s else bump 0x62 (modSieve (fun q => { q with rowsRefilled := q.rowsRefilled + 1 }) s)
  let s := bump 0x61 (if sampling then bump 0x74 s else s)
  let s := putRow { r with
    round := r.round + 1, want := shards, reserved := shards.length * n, refilled := true, waiting := none
    sampUsed := r.sampUsed || sampling, sel := none } s
  sendF [s.seatGroup r.seat] (fMsg 0x47 [(16, r.seat), (16, r.gen), (12, r.round + 1)]
    [pack [(48, s.epochNow), (4, r.row), (9, n), (3, 0)], BitVec.ofNat 64 (shardMask shards)]) s

/-- The row's rounds end with needs unmet: every open shard is taken as exhausted and LIMIT set (R137). -/
def limitRow (r : Row) (s : State) : Row × State :=
  let r := { r with limit := true, sums := r.sums.map fun x => { x with exhausted := true }, waiting := none }
  (r, errRow r 3 (setFlag F.SIEVE_FLAGS_LIMIT (bump 0x66 (putRow r s))))

/-- The place in the order in which rows began to wait for room. -/
def State.nextWait (s : State) : Nat :=
  match bestOf (fun (a b : Nat) => decide (b < a)) (s.sieve.rows.filterMap fun r => r.waiting.map (·.2.1)) with
  | some n => n + 1
  | none => 0

/-- A refill is asked for a row: sent, waiting for room, or ended with LIMIT; the Bool says that the row is limited (R137). -/
def askRefill (r : Row) (shards : List Nat) (sampling : Bool) (s : State) : Bool × State :=
  let reply := shards.length * s.rd F.SIEVE_CANDCFG_REFILLN
  if s.rd F.SIEVE_CANDCFG_MAXROUND ≤ r.round ∨ laneRoom < r.held.length + reply then (true, (limitRow r s).2)
  else if s.laneLoad r.lane + reply ≤ laneRoom then (false, sendRefill r shards sampling s)
  else (false, setFlag F.SIEVE_FLAGS_ROOMWAIT (bump 0x6D
    (putRow { r with waiting := some (shards, s.nextWait, sampling) } s)))

/-! Intake (R126 to R131). -/

/-- The summary of a message. -/
def candSum (m : CandMsg) : ShardSum :=
  ⟨m.shard.toNat, m.base.toNat, m.span.toNat, m.exhausted, m.nextVal.toNat, m.nextId.toNat, m.remLse.toNat, m.remCnt.toNat⟩

/-- A summary takes its place in shard order, in place of the shard's earlier one. -/
def putSum (x : ShardSum) (l : List ShardSum) : List ShardSum :=
  sortBy (fun a b => decide (a.shard ≤ b.shard)) (x :: l.filter fun y => y.shard != x.shard)

/-- The list is stray (R129). -/
def strayList (s : State) (m : CandMsg) : Bool :=
  match s.deals.running with
  | none => true
  | some d =>
    d.abandoned || m.epoch.toNat != d.deal.epoch || (s.seat m.seat.toNat).gen != m.gen ||
    match s.row m.seat.toNat m.row.toNat with
    | none => true
    | some r =>
      r.gen != m.gen.toNat || m.round.toNat != r.round || decide (m.lastShard.toNat < m.shard.toNat) ||
      match r.lastShard with
      | none => false
      | some l => l != m.lastShard.toNat || !r.want.contains m.shard.toNat

/-- The entries of a list reach their row one by one: an entry that arrives while the on-lane store is full lands in the overflow
region (R130, R142). The pair counts the duplicates removed and the entries that landed there; `free` is the store's room before. -/
def takeEntries (thresh : Nat) (m : CandMsg) (free : Nat) (r : Row) : Row × Nat × Nat :=
  let inStore := fun (r : Row) => (r.held.filter fun h => !h.ovf).length
  let start := inStore r
  let step := fun (e : Cand) (p : Row × Nat × Nat) =>
    let full := decide (start + free ≤ inStore p.1)
    let ov := full && validLogit thresh e.logit.toNat
    let t := takeEntry thresh ⟨e.token.toNat, e.logit.toNat, m.shard.toNat, m.round.toNat, false, false, false, false, false, ov⟩ p.1
    (t.1, p.2.1 + bit t.2, p.2.2 + bit ov)
  each step m.entries (r, 0, 0)

/-- The list is merged into its row (R128, R130, R131). -/
def mergeList (r : Row) (m : CandMsg) (s : State) : Row × State :=
  let th := (s.seat r.seat).thresh.toNat
  let first := r.lastShard.isNone
  let r := if first then
      { r with lastShard := some m.lastShard.toNat, want := List.range (m.lastShard.toNat + 1) } else r
  let s := if first && isNan th then bump 0x6E s else s
  let mine := if r.round = 0 then 0 else s.rd F.SIEVE_CANDCFG_REFILLN
  let bad := !inOrder m
  let p := takeEntries th m (laneStore - (s.storeLoad r.lane - mine)) r
  let r := p.1
  let s := bumpN 0x6C p.2.2 (bumpN 0x6F m.entries.length s)
  let x := candSum m
  let r := { r with
    sums := putSum x r.sums, want := r.want.filter (· != m.shard.toNat), reserved := r.reserved - mine
    overflow := r.held.any (·.ovf), nanIn := r.nanIn || m.nanSeen
    undef := r.undef || bad || (!m.exhausted && (m.remCnt == 0 || isNan m.remLse.toNat || isNinf m.remLse.toNat ||
      (isPinf m.remLse.toNat && !isPinf m.nextVal.toNat))) }
  let s := if r.nanIn then setFlag F.SIEVE_FLAGS_NANIN s else s
  let s := if 0 < p.2.1 then errRow r 1 (setFlag F.SIEVE_FLAGS_DUP (bumpN 0x64 p.2.1 s)) else s
  let s := if bad then
      errRow r 2 (setFlag F.SIEVE_FLAGS_SORTERR (if r.sortErr then s else bump 0x65 s))
    else s
  let r := { r with sortErr := r.sortErr || bad }
  (r, putRow r s)

/-- A complete round is evaluated: another refill, or the row's selection is final (R136, R137). -/
def evalRow (r : Row) (s : State) : State :=
  let a := s.seat r.seat
  let close := fun (r : Row) (s : State) =>
    let x := r.select a
    let r := { r.mark a x with sel := some x, undef := r.undef || (r.held.isEmpty && !(r.opens a.thresh.toNat).isEmpty) }
    countSel r x (putRow r s)
  let r := r.fixBound a
  match r.needs a with
  | [] => close r s
  | l =>
    let t := askRefill r l false s
    if t.1 then close (limitRow r s).1 t.2 else t.2

end Sys2Proof.Machine
end

