-- ==== Sys2Proof/Machine/Sampling.lean ====
section
/-! DEFINITION. Sieve II: weights, bounds, top-p, draws, verification, stop matching, result records and digests, and the
commands CAND_LIST, REFILL_ROOM_FREED and DRAFTS (R148 to R160, R294). -/
namespace Sys2Proof.Machine

/-- An entry of a distribution with its weight and the cumulative weight up to it (R149). -/
structure Wt where
  tok : Nat
  e : Dy
  c : Dy
  deriving DecidableEq, Repr

/-- A row's distribution (R149 to R152). -/
inductive Dist where
  | uniform (ts : List Nat)
  | closed (es : List Wt)
  | opn (es : List Wt) (slo shi : Dy) (settled : Nat)
  deriving DecidableEq, Repr

/-- TEMP as the sampling stage uses it: 0, a finite value above 0, or +∞ (R149). -/
inductive Temp where
  | zero
  | fin (t : Dy)
  | inf
  deriving DecidableEq, Repr

/-- TEMP of a seat. -/
def tempOf (a : Seat) : Temp := match f32 a.temp.toNat with
  | .fin v => if v.m = 0 then .zero else .fin v
  | _ => .inf

/-- A value divided by TEMP; 0 at TEMP +∞ (R149, R150). -/
def Temp.div (t : Temp) (x : Dy) : Dy := match t with
  | .fin v => x.div v
  | _ => ⟨0, 0⟩

/-- The finite value of binary32 bits; 0 for the others, which these rules never reach. -/
def finOf (l : Nat) : Dy := match f32 l with
  | .fin v => v
  | _ => ⟨0, 0⟩

/-- The scaled value z of a logit (R149). -/
def zOf (t : Temp) (l : Nat) : Dy := t.div (finOf l)

/-- Weights of held entries against the z of the first, accumulated in canonical order (R149). -/
def weights (t : Temp) (m : Dy) : Dy → List Held → List Wt
  | _, [] => []
  | cum, h :: r =>
    let e := exp64 ((zOf t h.logit).sub m)
    let c := cum.add e
    ⟨h.tok, e, c⟩ :: weights t m c r

/-- The last cumulative weight. -/
def lastC (es : List Wt) : Dy := match es.getLast? with
  | some w => w.c
  | none => ⟨0, 0⟩

/-- THRESH is on (R125, R150). -/
def threshOn (a : Seat) : Bool := !isNan a.thresh.toNat && !isNinf a.thresh.toNat

/-- The log-weight bounds (lo, hi) of an open shard (R150). -/
def shardLoHi (a : Seat) (t : Temp) (x : ShardSum) : Dy × Dy :=
  let m := finOf x.nextVal
  let lam := (finOf x.remLse).sub m
  let ln := ln64 (Dy.ofInt x.remCnt)
  match t with
  | .fin v =>
    let tm := m.div v
    let lnT := ln.div v
    let lamT := lam.div v
    if (Dy.ofInt 1).lt v then
      (if threshOn a then tm else tm.add lam, (tm.add (ln.sub lnT)).add lamT)
    else
      let d := lamT.sub (lnT.sub ln)
      (if threshOn a then tm else tm.add (if d.m < 0 then ⟨0, 0⟩ else d), tm.add lam)
  | _ => (if threshOn a then ⟨0, 0⟩ else ln, ln)

/-- The bounds slo and shi of an open list's total weight, widened for rounding (R150). -/
def totalBounds (a : Seat) (t : Temp) (m cum : Dy) (op : List ShardSum) : Dy × Dy :=
  let b := each (fun x (p : Dy × Dy) =>
    let b := shardLoHi a t x
    (p.1.add (exp64 (b.1.sub m)), p.2.add (exp64 (b.2.sub m)))) op (cum, cum)
  (b.1.mul ⟨2 ^ 40 - 1, -40⟩, b.2.mul ⟨2 ^ 40 + 1, -40⟩)

/-- The first position, from 1, whose cumulative weight is at least a value. -/
def firstGe (x : Dy) : Nat → List Wt → Option Nat
  | _, [] => none
  | n, w :: r => if x.le w.c then some (n + 1) else firstGe x (n + 1) r

/-- The first position, from 1, whose cumulative weight is above a value, `skip` being undrawable. -/
def firstGt (x : Dy) (skip : Option Nat) : Nat → List Wt → Option Nat
  | _, [] => none
  | n, w :: r => if x.lt w.c && skip != some w.tok then some (n + 1) else firstGt x skip (n + 1) r

/-- Open shards whose next entry precedes held entry b when b is settled, else every open shard; every one where that is none
(R153). -/
def needBefore (r : Row) (op : List ShardSum) (settled : Nat) (b : Option Nat) : List Nat :=
  let l : List ShardSum := match b with
    | some b => if b ≤ settled then (match r.held[b - 1]? with
        | some h => op.filter fun (x : ShardSum) => x.before h
        | none => op)
      else op
    | none => op
  (if l.isEmpty then op else l).map fun (x : ShardSum) => x.shard

/-- What a decision of a row comes to: shards to refill first, a distribution, or an EMPTY row. -/
inductive DistRes where
  | need (shards : List Nat) (sampling : Bool)
  | dist (d : Dist) (approx : Bool)
  | empty
  deriving DecidableEq, Repr

/-- The distribution of a row after selection and top-p (R133, R149 to R151, R153). `may` says that a sampling refill is allowed. -/
def rowDist (r : Row) (x : SelRec) (a : Seat) (may : Bool) : DistRes :=
  let op := r.opens a.thresh.toNat
  let kept := r.keptList x
  if kept.isEmpty then .empty
  else if x.degen then .dist (.uniform (kept.map (·.tok))) false
  else match tempOf a with
    | .zero =>
      let tie := if x.cut a then [] else op.filter fun y => logitEq y.nextVal r.lmax
      if tie.isEmpty then .dist (.uniform ((kept.filter fun h => logitEq h.logit r.lmax).map (·.tok))) false
      else .need (tie.map (·.shard)) false
    | t =>
      let m := zOf t r.lmax
      let es := weights t m ⟨0, 0⟩ kept
      let topp := finOf a.topp.toNat
      let on := topp.lt (Dy.ofInt 1)
      if x.cut a || op.isEmpty then
        if on then match firstGe (topp.mul (lastC es)) 0 es with
          | some c => .dist (.closed (es.take c)) false
          | none => .dist (.closed es) false
        else .dist (.closed es) false
      else
        let b := totalBounds a t m (lastC es) op
        let s := r.settled a.thresh.toNat
        if on then
          let pa := firstGe (topp.mul b.1) 0 es
          let pb := firstGe (topp.mul b.2) 0 es
          match pa, pb with
          | some i, some j =>
            if i = j ∧ j ≤ s then .dist (.closed (es.take j)) false
            else if may then .need (needBefore r op s pb) true
            else .dist (.closed (es.take j)) true
          | _, some j => if may then .need (needBefore r op s pb) true else .dist (.closed (es.take j)) true
          | _, none => if may then .need (needBefore r op s pb) true else .dist (.closed es) true
        else .dist (.opn es b.1 b.2 s) false

/-- An answer to a decision, with whether it is approximate, or the shards that would settle it. -/
inductive Ans (α : Type) where
  | got (v : α) (approx : Bool)
  | need (shards : List Nat)
  | empty
  deriving DecidableEq, Repr

/-- A uniform as an exact value: its 53-bit numerator over 2^53 (R155). -/
def uDy (n : Nat) : Dy := ⟨n, -53⟩

/-- Entry min(floor(u x t) + 1, t) of a list (R152). -/
def pickUniform (u : Dy) (ts : List Nat) : Option Nat :=
  let p := u.mul (Dy.ofInt ts.length)
  let k := if 0 ≤ p.e then (p.m * (2 ^ p.e.toNat : Nat)).toNat else (Int.ediv p.m (2 ^ (-p.e).toNat : Nat)).toNat
  ts[min k (ts.length - 1)]?

/-- A closed draw over entries with total W: the first above u x W, else the last with a weight above 0 (R152). -/
def pickClosed (u w : Dy) (skip : Option Nat) (es : List Wt) : Option Nat :=
  match firstGt (u.mul w) skip 0 es with
  | some j => (es[j - 1]?).map (·.tok)
  | none => ((es.filter fun x => decide (0 < x.e.m) && skip != some x.tok).getLast?).map (·.tok)

/-- Entries with a token's weight removed: every cumulative weight at or after it is reduced (R154). -/
def removeTok (x : Nat) (es : List Wt) : List Wt :=
  match es.find? fun w => w.tok == x with
  | none => es
  | some d => (es.takeWhile fun w => w.tok != x) ++ (es.dropWhile fun w => w.tok != x).map fun w => { w with c := w.c.sub d.e }

/-- The weight of a token in a list, 0 when it is not there. -/
def weightOf (x : Nat) (es : List Wt) : Dy := match es.find? fun w => w.tok == x with
  | some w => w.e
  | none => ⟨0, 0⟩

/-- A draw from a row's distribution, `skip` being a rejected draft whose weight is removed (R152 to R154). -/
def drawFrom (r : Row) (a : Seat) (d : Dist) (u : Dy) (skip : Option Nat) (may : Bool) : Ans Nat :=
  match d with
  | .uniform ts => match pickUniform u (ts.filter fun t => skip != some t) with
    | some t => .got t false
    | none => .empty
  | .closed es =>
    let es := match skip with
      | some x => removeTok x es
      | none => es
    match pickClosed u (lastC es) skip es with
    | some t => .got t false
    | none => .empty
  | .opn es slo shi s =>
    let ed := match skip with
      | some x => weightOf x es
      | none => ⟨0, 0⟩
    let es := match skip with
      | some x => removeTok x es
      | none => es
    let op := r.opens a.thresh.toNat
    let j := firstGt (u.mul (slo.sub ed)) skip 0 es
    let j' := firstGt (u.mul (shi.sub ed)) skip 0 es
    if j = j' ∧ j.isSome ∧ j.getD 0 ≤ s then match es[j.getD 0 - 1]? with
      | some w => .got w.tok false
      | none => .empty
    else if may then .need (needBefore r op s j')
    else match pickClosed u (lastC es) skip es with
      | some t => .got t true
      | none => .empty

/-- Verification of a draft against the row before it (R153, R154). -/
def verifyDraft (r : Row) (a : Seat) (d : Dist) (x : Nat) (u : Dy) (may : Bool) : Ans Bool :=
  match d with
  | .uniform ts => .got (ts.contains x && (u.mul (Dy.ofInt ts.length)).lt (Dy.ofInt 1)) false
  | .closed es =>
    let alone := es.any (fun w => w.tok == x) && es.all fun w => w.tok == x || w.e.m == 0
    .got (alone || (u.mul (lastC es)).lt (weightOf x es)) false
  | .opn es slo shi _ =>
    let op := r.opens a.thresh.toNat
    if es.any fun w => w.tok == x then
      let ed := weightOf x es
      if (u.mul shi).lt ed then .got true false
      else if ed.le (u.mul slo) then .got false false
      else if may then .need (op.map (·.shard))
      else .got ((u.mul shi).lt ed) true
    else match r.sums.find? fun y => decide (y.base ≤ x ∧ x < y.base + y.span) with
      | some y =>
        if !y.isOpen a.thresh.toNat then .got false false
        else
          let t := tempOf a
          if (exp64 ((zOf t y.nextVal).sub (zOf t r.lmax))).le (u.mul slo) then .got false false
          else if may then .need [y.shard]
          else .got false true
      | none => .got false false

/-! Rows leave, runs end. -/

/-- A seat's run. -/
def State.run (s : State) (seat : Nat) : Option SeatRun := s.sieve.runs.find? fun r => r.seat == seat

/-- A change of a seat's run. -/
def modRun (seat : Nat) (f : SeatRun → SeatRun) (s : State) : State :=
  modSieve (fun q => { q with runs := q.runs.map fun r => if r.seat == seat then f r else r }) s

/-- A row is final: its entries are freed and the deal's row statistics take it in (R142, R145). -/
def finalRow (r : Row) (approx : Bool) (s : State) : State :=
  let s := bump 0x60 s
  let s := if approx then setFlag F.SIEVE_SAMPFLAGS_APPROX (bump 0x75 s) else s
  modSieve (fun q => { q with
    rows := q.rows.filter fun x => !(x.seat == r.seat && x.row == r.row)
    rowsSeen := q.rowsSeen + 1, maxRound := max q.maxRound r.round, approxRows := q.approxRows + bit approx
    lastFinal := s.now, lastLane := r.lane, lastRounds := r.round }) s

/-- The natural logarithm of a sum of weights as R294 takes it, in binary64 bits. -/
def digestLse (r : Row) (x : SelRec) (a : Seat) : Nat :=
  let kept := r.keptList x
  let uni := fun (n : Nat) => (ln64 (Dy.ofInt n)).bits64
  if kept.isEmpty then 0xFFF0000000000000
  else if x.degen then uni kept.length
  else match tempOf a with
    | .zero => uni (kept.filter fun h => logitEq h.logit r.lmax).length
    | t =>
      let m := zOf t r.lmax
      (m.add (ln64 (lastC (weights t m ⟨0, 0⟩ kept)))).bits64

/-- A seat is named by the digest table in force (R294). -/
def State.digested (s : State) (seat gen : Nat) : Bool :=
  s.on F.OBS_CTRL_DIGEN && (List.range 64).any fun k =>
    let w := (tget 0 s.obs.digForce k).toNat
    w / 2 ^ 63 == 1 && w / 2 ^ 47 % 2 ^ 16 == seat && (w / 2 ^ 31 % 2 ^ 16 == gen || w / 2 ^ 31 % 2 ^ 16 == 0xFFFF)

/-- The two digest records of a used row (R294). -/
def digest (r : Row) (x : SelRec) (tok : Option Nat) (s : State) : State :=
  if !s.digested r.seat r.gen then s
  else
    let a := s.seat r.seat
    let e := s.epochNow
    let pos := a.nextPos.toNat + r.row
    let ents := (r.keptList x).map fun h => BitVec.ofNat 64 (h.tok + h.logit * 2 ^ 32)
    let t1 : TraceRec := ⟨pack [(6, 0x20), (10, 0), (48, e)],
      pack [(16, r.seat), (16, r.gen), (4, r.row), (20, tok.getD 0xFFFFF), (8, 0)], pack [(32, pos), (32, 0)], sip64 0 0 ents⟩
    let t2 : TraceRec := ⟨pack [(6, 0x21), (10, 0), (48, e)], selWord1 x, BitVec.ofNat 64 (digestLse r x a),
      pack [(32, r.lmax), (21, x.count), (11, 0)]⟩
    bump 0x7F (trace t2 (trace t1 s))

/-- The flag bits of a used row, as bits 10 to 3 of the result record (R160). -/
def rowFlags (x : SelRec) : List Nat :=
  (if x.approx then [10] else []) ++ (if x.limit then [9] else []) ++ (if x.short then [8] else []) ++
    (if x.degen then [7] else []) ++ (if x.tieOver then [6] else []) ++ (if x.dup then [5] else []) ++
    (if x.nanIn then [4] else []) ++ (if x.sortErr then [3] else [])

/-- A used row is final: its flags join the seat's, its digest is written (R160, R294). -/
def useRow (r : Row) (x : SelRec) (approx : Bool) (tok : Option Nat) (s : State) : State :=
  let x := { x with approx := approx }
  finalRow r approx (modRun r.seat (fun q => { q with flags := nodupNat (q.flags ++ rowFlags x) }) (digest r x tok s))

/-- The stop condition that a newly emitted token meets (R159): the emitted tokens of the deal include it. -/
def stopWith (s : State) (seat : Nat) (emitted : List Nat) : Option Nat :=
  let a := s.seat seat
  let g := a.generated.toNat + emitted.length
  let all := a.tail.map (·.toNat) ++ emitted
  let seqHit := (List.range 8).any fun k =>
    let q := (s.side seat).stops.getD k []
    a.stopMask.getLsbD k && decide (q.length ≤ g) && q.length != 0 && decide (q.length ≤ all.length) &&
      all.drop (all.length - q.length) == q
  if emitted.getLast? = some a.endTok.toNat then some 1
  else if seqHit then some 2
  else if g = a.maxTok.toNat then some 3
  else none

/-- A token is emitted: matched for stops, and the run ends where one is met or `last` says so (R157, R159). -/
def emitTok (seat tok : Nat) (acc last : Bool) (s : State) : State :=
  match s.run seat with
  | none => s
  | some q =>
    let em := q.emitted ++ [tok]
    let st := stopWith s seat em
    modRun seat (fun q => { q with emitted := em, nacc := q.nacc + bit acc, i := q.i + 1, stop := st, ended := last || st.isSome }) s

/-- A row becomes final without a draw. That of a cancelled seat gets its selection record with ABANDONED set, whatever the round it
has reached (R140, R143). -/
def closeRow (r : Row) (s : State) : State :=
  let a := s.seat r.seat
  if a.cancel && r.sel.isNone then
    let x : SelRec := { r.select a with abandoned := true }
    let r := { r.mark a x with sel := some x, waiting := none }
    finalRow r false (countSel r x (putRow r s))
  else finalRow r false s

/-- The rows of an ended run become final once no round of theirs is outstanding (R143, R157). -/
def closeRows (seat : Nat) (s : State) : State :=
  each (fun (r : Row) s => if r.lastShard.isSome && r.want.isEmpty then closeRow r s else s)
    (s.sieve.rows.filter fun r => r.seat == seat) s

/-- The seat's result record is written when its last row is final (R160). -/
def writeResult (seat : Nat) (s : State) : State :=
  match s.run seat with
  | none => s
  | some q =>
    if q.ended ∧ (s.sieve.rows.all fun r => r.seat != seat) = true then
      let nd := (q.drafts.getD []).length
      let shortD := q.kind == 2 && q.drafts.isSome && decide (nd < q.dlen)
      let s := if shortD then setFlag F.SIEVE_SAMPFLAGS_SHORTDRAFT (bump 0x77 s) else s
      let s := if q.emptyDraw then setFlag F.SIEVE_SAMPFLAGS_EMPTYDRAW (bump 0x78 s) else s
      let res : Result := ⟨seat, q.gen, q.kind, q.dlen, nd, q.nacc, q.stop, q.emitted, (s.seat seat).nextPos.toNat, q.flags, shortD,
        q.emptyDraw, false, q.drafts.isSome⟩
      modSieve (fun p => { p with runs := p.runs.filter (fun r => r.seat != seat), results := p.results ++ [res] }) s
    else s

/-- A refill for a decision: the row is selected anew where its rounds end instead (R137, R153). -/
def refillFor (r : Row) (shards : List Nat) (sampling : Bool) (s : State) : Bool × State :=
  let t := askRefill r shards sampling s
  if t.1 then
    let r := (limitRow r s).1
    let x := r.select (s.seat r.seat)
    (true, putRow { r.mark (s.seat r.seat) x with sel := some x } t.2)
  else (false, t.2)

/-- The correction after a rejected draft, or a plain or bonus draw, from a row (R152, R154, R156, R157). -/
def drawRow (r : Row) (x : SelRec) (d : Dist) (ap : Bool) (skip : Option Nat) (may : Bool) (s : State) : Bool × State :=
  let a := s.seat r.seat
  let u := uDy (uniform53 a.rngKey 0 (a.nextPos.toNat + r.row) (a.drawIdx.toNat + bit skip.isSome))
  match drawFrom r a d u skip may with
  | .got t ap' => (true, emitTok r.seat t false true (useRow r x (ap || ap') (some t) s))
  | .need l => refillFor r l true s
  | .empty => (true, modRun r.seat (fun q => { q with ended := true, emptyDraw := true }) (useRow r x ap none s))

/-- An undefined row (R127, R131): every decision of it is a free value. -/
def undefRow (r : Row) (x : SelRec) (draft : Option Nat) (s : State) : Bool × State :=
  let f := takeFree s
  let s := f.2
  match draft with
  | some d =>
    if f.1 % 2 = 0 then (true, emitTok r.seat d true false (useRow r x false (some d) s))
    else
      let g := takeFree s
      (true, emitTok r.seat (g.1 % 2 ^ 20) false true (useRow r x false (some (g.1 % 2 ^ 20)) g.2))
  | none => (true, emitTok r.seat (f.1 % 2 ^ 20) false true (useRow r x false (some (f.1 % 2 ^ 20)) s))

/-- One decision of a seat's run, when its row is ready; the Bool says that the run went on (R157). -/
def decideRow (q : SeatRun) (s : State) : Bool × State :=
  let a := s.seat q.seat
  if q.ended then (false, s)
  else if a.cancel ∨ (a.state ≠ .dealt ∧ a.state ≠ .prefilling) then (true, modRun q.seat (fun q => { q with ended := true }) s)
  else match q.drafts, s.row q.seat q.i with
    | some ds, some r =>
      match r.sel with
      | none => (false, s)
      | some x =>
        if r.waiting.isSome then (false, s)
        else if q.kind = 4 ∧ a.maxTok = 0 then (true, modRun q.seat (fun q => { q with ended := true, stop := some 0 }) s)
        else if r.undef then undefRow r x ds[q.i]? s
        else
          let may := !r.sampUsed && decide (r.round < s.rd F.SIEVE_CANDCFG_MAXROUND)
          match rowDist r x a may with
          | .empty => (true, modRun q.seat (fun q => { q with ended := true, emptyDraw := true }) (useRow r x false none s))
          | .need l smp => refillFor r l smp s
          | .dist d ap => match ds[q.i]? with
            | none => drawRow r x d ap none may s
            | some t =>
              let u := uDy (uniform53 a.rngKey 1 (a.nextPos.toNat + q.i) 0)
              match verifyDraft r a d t u may with
              | .got true ap' => (true, emitTok q.seat t true false (useRow r x (ap || ap') (some t) s))
              | .got false ap' => drawRow r x d (ap || ap') (some t) may s
              | .need l => refillFor r l true s
              | .empty => (false, s)
    | _, _ => (false, s)

/-- A seat's run goes on as far as its rows allow (R157). -/
def pumpRun (seat : Nat) : Nat → State → State
  | 0, s => s
  | f + 1, s => match s.run seat with
    | none => s
    | some q =>
      let r := decideRow q s
      if r.1 then pumpRun seat f r.2 else if q.ended then writeResult seat (closeRows seat r.2) else r.2

/-- Decisions a run can take: nine rows, each with its refill and its end. -/
def pumpFuel : Nat := 40

/-- Every run goes on as far as it can. -/
def sievePump (s : State) : State := each (fun (q : SeatRun) s => pumpRun q.seat pumpFuel s) s.sieve.runs s

/-- A stray list or DRAFTS is discarded and counted (R129). -/
def stray (c : Nat) (s : State) : State := setFlag F.SIEVE_FLAGS_STRAY (bump c s)

/-- A row's complete round is evaluated; rows of an ended or cancelled run are not (R143, R157). -/
def roundDone (r : Row) (s : State) : State :=
  let dead := (s.seat r.seat).cancel || match s.run r.seat with
    | some q => q.ended
    | none => true
  pumpRun r.seat pumpFuel (if dead then s else evalRow r s)

/-- CAND_LIST is taken in (R126 to R131, R136, R137). -/
def candTaken (m : CandMsg) (s : State) : State :=
  if strayList s m then stray 0x63 s
  else match s.row m.seat.toNat m.row.toNat with
    | none => stray 0x63 s
    | some r =>
      let p := mergeList r m s
      if p.1.want.isEmpty then roundDone p.1 p.2 else p.2

/-- The lane of a list's row has no room for it, in its store and its overflow region together (R142). -/
def State.laneFull (s : State) (m : CandMsg) : Bool := match s.row m.seat.toNat m.row.toNat with
  | some r => !strayList s m && r.round == 0 && decide (laneRoom < s.laneLoad r.lane + m.entries.length)
  | none => false

/-- A list that its lane has no room for stays with port F, which gives no credit for it (R142); the others are taken in. -/
def candIn (m : CandMsg) (s : State) : State :=
  if s.laneFull m then modSieve (fun q => { q with back := q.back ++ [m] }) s else candTaken m s

/-- The lists that port F keeps back reach their lanes in order, as far as there is room (R142). -/
def candBack (s : State) : State :=
  each candIn s.sieve.back (modSieve (fun q => { q with back := [] }) s)

/-- CAND_LIST arrives on port F. -/
def execCandList (t : BitVec 64) (m : CandMsg) (s : State) : Host.Outcome State Fault Refusal :=
  if !s.mainOn then .next (tick t s) else
  let s := tick t s
  if !s.portOpen .F then .next s
  else .next (candIn m (candBack (bump 0xFE s)))

/-- Rows of a lane that wait for room, in the order in which they began to wait (R137). -/
def State.waitingRows (s : State) (lane : Nat) : List Row :=
  let key := fun (r : Row) => match r.waiting with
    | some (_, n, _) => n
    | none => 0
  sortBy (fun a b => decide (key a ≤ key b)) (s.sieve.rows.filter fun r => r.lane == lane && r.waiting.isSome)

/-- Waiting rows are served in order while their replies fit (R137). -/
def serveWaiting : List Row → State → State
  | [], s => s
  | r :: l, s => match r.waiting with
    | some (sh, _, smp) =>
      if s.laneLoad r.lane + sh.length * s.rd F.SIEVE_CANDCFG_REFILLN ≤ laneRoom then serveWaiting l (sendRefill r sh smp s) else s
    | none => serveWaiting l s

/-- Room has come free on a lane: REFILLs that waited for it leave (R137). -/
def execRefillRoomFreed (t : BitVec 64) (lane : BitVec 5) (s : State) : Host.Outcome State Fault Refusal :=
  if !s.mainOn then .next (tick t s) else
  let s := tick t s
  let s := candBack s
  .next (serveWaiting (s.waitingRows lane.toNat) s)

/-- DRAFTS of a seat whose run has ended: the first of a cancelled trick's is accepted and has no effect, any other is stray
(R129, R148). -/
def draftsLate (ok : Bool) (m : DraftsMsg) (s : State) : State :=
  let mine := fun (r : Result) => r.seat == m.seat.toNat && r.gen == m.gen.toNat && r.kind == 2 && !r.drafted
  if ok && (s.seat m.seat.toNat).gen == m.gen && s.sieve.results.any mine then
    modSieve (fun q => { q with results := q.results.map fun r => if mine r then { r with drafted := true } else r }) s
  else stray 0x79 s

/-- The drafts that a DRAFTS message gives a run. One that gives more than D, which R148 does not provide for, leaves D free values
(log entry 62). -/
def draftsOf (q : SeatRun) (m : DraftsMsg) (s : State) : List Nat × State :=
  if m.drafts.length ≤ q.dlen then (m.drafts.map (·.toNat), s)
  else ((List.range q.dlen).map fun k => Config.freeNat (s.free + k) % 1048576, { s with free := s.free + q.dlen })

/-- DRAFTS arrives: stray ones are discarded, the others open the trick's decisions (R129, R148). -/
def execDrafts (t : BitVec 64) (m : DraftsMsg) (s : State) : Host.Outcome State Fault Refusal :=
  if !s.mainOn then .next (tick t s) else
  let s := tick t s
  if !s.portOpen .F then .next s
  else
    let s := bump 0xFE s
    let ok := match s.deals.running with
      | some r => r.deal.epoch == m.epoch.toNat && !r.abandoned
      | none => false
    match s.run m.seat.toNat with
    | none => .next (draftsLate ok m s)
    | some q =>
      if !ok || q.gen != m.gen.toNat || (s.seat m.seat.toNat).gen != m.gen || q.kind != 2 || q.drafts.isSome then .next (stray 0x79 s)
      else
        let d := draftsOf q m s
        .next (pumpRun q.seat pumpFuel (modRun q.seat (fun q => { q with drafts := some d.1 }) d.2))

end Sys2Proof.Machine
end

