-- ==== Sys2Proof/Machine/Sequencer.lean ====
section
/-! DEFINITION. Models, the hot set, the prefetch schedule, tier errors and second sources (R203 to R219, R257, R273). -/
namespace Sys2Proof.Machine

/-- A weight object descriptor of a version by object index (R206). -/
def State.desc (s : State) (m v o : Nat) : Desc := tget Desc.empty s.seq.store ((s.model m v).f.objFirst.toNat + o)

/-- A change of a descriptor. -/
def modDesc (m v o : Nat) (f : Desc → Desc) (s : State) : State :=
  modSeq (fun q => { q with store := tput Desc.empty q.store ((s.model m v).f.objFirst.toNat + o) (f (s.desc m v o)) }) s

/-- Object indices of a version, in store order. -/
def State.objs (s : State) (m v : Nat) : List Nat := List.range (s.model m v).f.objCount.toNat

/-- Object indices of a version with a placement. -/
def State.objsAt (s : State) (m v place : Nat) : List Nat := (s.objs m v).filter fun o => (s.desc m v o).place.toNat == place

/-- Class H. -/
def State.classH (s : State) (m v : Nat) : Bool := (s.model m v).f.cls == 1

/-- The tier of a source is up; Bedrock mode holds HBMUP 1 and FLASHUP 0 (R271). -/
def State.tierUp (s : State) (tier : Nat) : Bool :=
  if s.bedrock then tier == 1 else if tier = 1 then s.seq.hbmUp else if tier = 2 then s.seq.flashUp else false

/-- Every tier that a version's objects name is up (R207). -/
def State.tiersUp (s : State) (m v : Nat) : Bool := (s.objs m v).all fun o => s.tierUp (s.desc m v o).srcTier.toNat

/-- READY of every live version follows the tiers (R207). -/
def setReady (s : State) : State :=
  modSeq (fun q => { q with models := tmap ModelSlot.empty (fun k x =>
    if x.live then { x with ready := s.tiersUp (k / 4) (k % 4) } else x) q.models }) s

/-- A version is READY and not POISONED. -/
def ModelSlot.usable (x : ModelSlot) : Bool := x.live && x.ready && !x.poisoned

/-- MOD_STATUS.READYVERS. -/
def State.readyVers (s : State) : Nat := (s.seq.models.filter fun e => e.2.usable).length

/-- Firmware opens admission once port G is open and a version is READY and not POISONED; START_TIMES.ADMITOPEN takes the first
such moment (R207, R273). -/
def admissionOpens (s : State) : State :=
  if s.pwr.admitOpen = 0xFFFF ∧ s.portOpen .G = true ∧ 0 < s.readyVers then
    modPwr (fun p => { p with admitOpen := min 0xFFFE (s.now / 1000000) }) (setFld F.ADM_CTRL_OPEN 1 s)
  else s

/-! Fetches (R209, R211). -/

/-- DSTADDR of a fetch: ring position, on-chip set, hot copy, or the object's home. -/
def State.dstAddr (s : State) (f : Fetch) : Nat :=
  let d := s.desc f.m f.s f.obj
  match f.dst with
  | 0 => (s.reg 0x3020).toNat + 4096 * f.pos.getD 0
  | 1 => 4096 * (s.fld F.MOD_CHIPCFG_BASE + d.dstOff.toNat)
  | 2 => 4096 * ((s.model f.m f.s).hotBase + d.dstOff.toNat)
  | _ => d.srcAddr.toNat

/-- The stage ring has room for an object (R211). -/
def State.ringRoom (s : State) (units : Nat) : Bool :=
  decide (sumOf (s.seq.ring.map fun e => e.2.2.1) + units ≤ s.fld F.MOD_STAGESIZE_BYTES)

/-- Where the next object goes: past the newest in the ring, whose space wraps round (R211; log entry 55). -/
def State.ringNext (s : State) : Nat := match s.seq.ring.getLast? with
  | some e => (e.2.2.2 + e.2.2.1) % max 1 (s.fld F.MOD_STAGESIZE_BYTES)
  | none => s.seq.ringPos

/-- The session that reaches a version's second source: port C, or the peer session of SECNODE (R205, R214). -/
def State.secPort (s : State) (m v : Nat) : Option (Port × Nat) :=
  let f := (s.model m v).f
  if f.secKind = 2 then (if s.live .C 0 && s.portOpen .C then some (.C, 0) else none)
  else if f.secKind = 1 then (if s.portOpen .N then (s.peerOf f.secNode.toNat).map fun p => (Port.N, p) else none)
  else none

/-- A second-source fetch may be made for an object (R214). -/
def State.secOk (s : State) (m v o : Nat) : Bool :=
  s.on F.MOD_CTRL_SECONDEN && (s.secPort m v).isSome && (s.desc m v o).secHandle != 0

/-- OBJ_FETCH of an object from its second source, into the same destination (R214, R257). -/
def objFetchSend (f : Fetch) (s : State) : State :=
  match s.secPort f.m f.s with
  | none => s
  | some (p, peer) =>
    let d := s.desc f.m f.s f.obj
    let t := newTag (.repair f.m f.s f.obj f.dst f.epoch s.now) s
    sendMsg (mkMsg p peer 0x3D [(44, 0)] [pack [(40, 0), (24, t.1)], d.secHandle, pack [(32, d.bytes.toNat), (32, 0)]] 0 [])
      (if p = .N then 2 else 1) t.2

/-- A seat still runs its part of the running deal: its reference is current, its rows are not void, and it has not left
Prefilling or Dealt (R20, R31). -/
def State.runs (s : State) (r : Running) (x : DealSeat) : Bool :=
  s.current x.seat x.gen && !r.voided.contains x.seat && ((s.seat x.seat).state == .prefilling || (s.seat x.seat).state == .dealt)

/-- Seats of a deal that use an object of a version: every seat of a deal of that main model, or a seat whose pinned draft it is
and that runs a trick (R214). -/
def State.usersOf (s : State) (r : Running) (m v : Nat) : List Nat :=
  (r.deal.seats.filter fun x => s.runs r x && (
    (r.deal.model == m && r.deal.slot == v) ||
    ((s.seat x.seat).draftOn && (s.seat x.seat).draftM.toNat == m && (s.seat x.seat).draftVs.toNat == v &&
      r.feed.any fun e => e.seat == x.seat && e.gen == x.gen && !e.void && decide (0 < e.draftLen)))).map (·.seat)

/-- The running deal's users of a version. -/
def State.usersNow (s : State) (m v : Nat) : List Nat := match s.deals.running with
  | some r => s.usersOf r m v
  | none => []

/-- Rank of a close reason that a deal's failure gives, by R32. -/
def failRank (r : Nat) : Nat :=
  match r with
  | 0x7F => 1
  | 0x30 => 2
  | 0x40 => 3
  | 0x10 => 4
  | 0x00 => 5
  | 0x01 => 5
  | 0x02 => 5
  | 0x03 => 5
  | 0x20 => 6
  | 0x21 => 7
  | _ => 8

/-- Firmware closes a seat for a failure: a seat of the running deal closes at the boundary with the reason that stands under
R32; any other seat closes now. -/
def failSeat (i reason : Nat) (s : State) : State :=
  let st := (s.seat i).state
  let g := (s.seat i).gen.toNat
  let running := match s.deals.running with
    | some r => r.deal.holds i g
    | none => false
  if (st = .prefilling ∨ st = .ready ∨ st = .dealt) ∧ running = true ∧ s.deals.stopped = false then
    modSide i (fun d => { d with badReason :=
      if d.badReason = 0 ∨ failRank reason < failRank d.badReason then reason else d.badReason }) s
  else closeSeat i reason s

/-- The running deal's users of a version close with 0x30 (R105, R214). -/
def closeUsers (m v : Nat) (s : State) : State := each (fun i s => failSeat i 0x30 s) (s.usersNow m v) s

/-- An object fails from every source: it and its version are POISONED, and the seats of the running deal that use it close
and are counted in MOD_POISON (R105, R214, R219). -/
def poison (m v o : Nat) (s : State) : State :=
  let d := s.desc m v o
  let s := modModel m v (fun x => { x with poisoned := true }) (modDesc m v o (fun d => { d with poisoned := true }) s)
  let s := setReg 0x3070 (pack [(6, m), (2, v), (18, o), (12, d.layer.toNat), (16, sat 0xFFFF (s.usersNow m v).length), (10, 0)]) s
  closeUsers m v (setFlag F.MOD_FLAGS_POISON (bump 0x9D s))

/-- An object has an uncorrectable error: one re-fetch from the second source, else it is poisoned (R214). -/
def objError (f : Fetch) (s : State) : State × Bool :=
  if s.secOk f.m f.s f.obj then (objFetchSend f s, true) else (poison f.m f.s f.obj s, false)

/-- MiB of an object, rounded up, added to the read counter of its tier (R285). -/
def countRead (d : Desc) (s : State) : State := bumpN (if d.srcTier = 2 then 0x96 else 0x97) (ceilDiv d.bytes.toNat 256) s

/-! The hot set (R213). -/

/-- Versions that occupy the hot region, as (key, base, units). -/
def State.hotUsed (s : State) : List (Nat × Nat × Nat) :=
  (s.seq.models.filter fun e => e.2.hotres || (e.2.loading && e.2.f.cls == 1)).map fun e => (e.1, e.2.hotBase, e.2.chipBytes)

/-- The version is used by a deal: its main model, or the draft model of a seat with trick rows. -/
def State.dealUses (s : State) (d : Deal) (m v : Nat) : Bool :=
  (d.model == m && d.slot == v) || d.seats.any fun x =>
    x.kind == 2 && (s.seat x.seat).draftM.toNat == m && (s.seat x.seat).draftVs.toNat == v

/-- The version is used by the running or the handed-off deal: it is not evicted. DESIGN CHOICE: nor is a version that a composition
not yet handed off uses (log entry 55). -/
def State.hotHeld (s : State) (m v : Nat) : Bool :=
  s.deals.running.any (fun r => s.dealUses r.deal m v) || s.deals.handed.any (fun d => s.dealUses d m v) ||
    s.deals.composing.any (fun d => s.dealUses d m v)

/-- The lowest base, in 4 KiB units, at which `n` units fit among the used ranges of the hot region. -/
def State.hotFit (s : State) (used : List (Nat × Nat × Nat)) (n : Nat) : Option Nat :=
  let lo := s.fld F.MOD_HOTCFG_BASE
  let hi := lo + s.fld F.MOD_HOTCFG_BYTES
  let ok := fun b => decide (b + n ≤ hi) && used.all fun u => decide (b + n ≤ u.2.1 ∨ u.2.1 + u.2.2 ≤ b)
  bestOf (fun (a b : Nat) => decide (a < b)) ((lo :: used.map fun u => u.2.1 + u.2.2).filter ok)

/-- Resident versions that may be evicted, oldest STAMP first, then model index and slot. -/
def State.hotVictims (s : State) : List Nat :=
  sortBy (fun a b => decide ((tget ModelSlot.empty s.seq.models a).stamp < (tget ModelSlot.empty s.seq.models b).stamp) ||
      ((tget ModelSlot.empty s.seq.models a).stamp == (tget ModelSlot.empty s.seq.models b).stamp && decide (a ≤ b)))
    ((s.seq.models.filter fun e => e.2.hotres && !s.hotHeld (e.1 / 4) (e.1 % 4)).map (·.1))

/-- The victims to evict so that `n` units fit, and the base found; none when even all of them do not give room. -/
def hotPlan (s : State) (n : Nat) : List Nat → List Nat → List (Nat × Nat × Nat) → Option (List Nat × Nat)
  | ev, [], used => (s.hotFit used n).map fun b => (ev, b)
  | ev, k :: r, used => match s.hotFit used n with
    | some b => some (ev, b)
    | none => hotPlan s n (ev ++ [k]) r (used.filter fun u => u.1 != k)

/-- A version leaves the hot set. -/
def hotEvict (k : Nat) (s : State) : State :=
  bump 0x9A (modModel (k / 4) (k % 4) (fun x => { x with hotres := false }) s)

/-- The load of a class H version starts: placed first-fit, evicting in order, its fetches queued; without room it waits
(R213). -/
def hotStart (m v : Nat) (s : State) : State :=
  let x := s.model m v
  if !x.live || x.f.cls != 1 || x.hotres || x.loading then
    modSeq (fun q => { q with hotWait := q.hotWait.filter fun e => e != (m, v) }) s
  else match hotPlan s x.chipBytes [] s.hotVictims s.hotUsed with
    | none => modSeq (fun q => { q with hotWait := if q.hotWait.contains (m, v) then q.hotWait else q.hotWait ++ [(m, v)] }) s
    | some (ev, b) =>
      let s := each hotEvict ev s
      let s := modSeq (fun q => { q with
        hotWait := q.hotWait.filter fun e => e != (m, v)
        queue := q.queue ++ (s.objs m v).map fun o => ⟨m, v, o, 2, 0, s.now, none⟩ }) s
      let s := modModel m v (fun x => { x with loading := true, hotBase := b }) (bump 0x99 s)
      if s.objs m v = [] then modModel m v (fun x => { x with loading := false, hotres := true }) s else s

/-- Loads that wait for room try again, in order (R213). -/
def hotRetry (s : State) : State := each (fun e s => hotStart e.1 e.2 s) s.seq.hotWait s

/-- A version has a fetch or a repair still to come for a load. -/
def State.loadOwed (s : State) (m v dst : Nat) : Bool :=
  let mine := fun (f : Fetch) => f.m == m && f.s == v && f.dst == dst
  s.seq.queue.any mine || s.seq.out.any (fun e => mine e.2) || s.seq.down.any mine ||
    s.kv.tags.any fun e => match e.2 with
      | .repair m' v' _ d _ _ => m' == m && v' == v && d == dst
      | _ => false

/-! Switches (R212). -/

/-- The on-chip set of a version starts loading for an epoch; a version without one leaves the loaded set as it is. -/
def chipStart (m v epoch : Nat) (s : State) : State :=
  let os := s.objsAt m v 3
  let stale := fun (f : Fetch) => f.dst == 1
  if os = [] then modSeq (fun q => { q with chipNext := none }) s
  else
    let s := modSeq (fun q => { q with
      queue := q.queue.filter (fun f => !stale f) ++ os.map fun o => ⟨m, v, o, 1, epoch, s.now, none⟩
      down := q.down.filter fun f => !stale f
      out := q.out.filter fun e => !stale e.2
      chipSet := none
      chipLoad := some (m, v, epoch, s.now)
      chipNext := none
      models := tmap ModelSlot.empty (fun _ x => if x.f.cls = 0 then { x with loading := false } else x) q.models }) s
    modModel m v (fun x => { x with loading := true }) (bump 0x98 s)

/-- The sequencer learns the main model of a composition: a class S switch loads its on-chip set when the running deal completes,
or at once with no deal running (R212). -/
def chipFor (m v epoch : Nat) (s : State) : State :=
  if s.classH m v then s
  else match s.deals.running with
    | some r =>
      if (r.deal.model, r.deal.slot) = (m, v) ∨ s.seq.chipSet = some (m, v) then modSeq (fun q => { q with chipNext := none }) s
      else modSeq (fun q => { q with chipNext := some (m, v, epoch) }) s
    | none =>
      let under := match s.seq.chipLoad with
        | some (m', v', _, _) => m' == m && v' == v
        | none => false
      if s.seq.chipSet = some (m, v) ∨ under = true then s else chipStart m v epoch s

/-- The running deal completes: a switch that waited for it starts its load (R212). -/
def chipAtComplete (s : State) : State :=
  match s.seq.chipNext with
  | some (m, v, e) => if s.seq.chipSet = some (m, v) then modSeq (fun q => { q with chipNext := none }) s else chipStart m v e s
  | none => s

/-! The stage ring (R211). -/

/-- A composition fixes the deal's model: its PLACE 2 objects queue for the ring; objects staged for the same epoch are kept when
the version is the same, else the ring is emptied (R211, R217, R328). -/
def stageFor (m v epoch : Nat) (s : State) : State :=
  match s.seq.ringEpochs.find? fun e => e.1 == epoch with
  | some (_, m', v') =>
    if m' = m ∧ v' = v then s
    else
      let old := fun (f : Fetch) => f.dst == 0 && f.epoch == epoch
      modSeq (fun q => { q with
        ringEpochs := (q.ringEpochs.filter fun e => e.1 != epoch) ++ [(epoch, m, v)]
        ring := q.ring.filter fun e => e.1 != epoch
        placed := q.placed.filter fun f => !old f
        down := q.down.filter fun f => !old f
        out := q.out.filter fun e => !old e.2
        queue := (q.queue.filter fun f => !old f) ++ (s.objsAt m v 2).map fun o => ⟨m, v, o, 0, epoch, s.now, none⟩ }) s
  | none =>
    modSeq (fun q => { q with
      ringEpochs := q.ringEpochs ++ [(epoch, m, v)]
      queue := q.queue ++ (s.objsAt m v 2).map fun o => ⟨m, v, o, 0, epoch, s.now, none⟩ }) s

/-- Ring space of the layers of a deal that are done is freed (R211). -/
def ringFree (epoch layer : Nat) (s : State) : State :=
  modSeq (fun q => { q with ring := q.ring.filter fun e => !(e.1 == epoch && decide (e.2.1 ≤ layer)) }) s

/-- A deal has completed or is given up for good: what the ring holds for it goes. -/
def ringDone (epoch : Nat) (s : State) : State :=
  let old := fun (f : Fetch) => f.dst == 0 && f.epoch == epoch
  modSeq (fun q => { q with
    ringEpochs := q.ringEpochs.filter fun e => e.1 != epoch
    ring := q.ring.filter fun e => e.1 != epoch
    placed := q.placed.filter fun f => !old f
    queue := q.queue.filter fun f => !old f
    down := q.down.filter fun f => !old f
    out := q.out.filter fun e => !old e.2 }) s

/-- A repair of an object is outstanding. -/
def State.repairing (s : State) (m v o : Nat) : Bool :=
  s.kv.tags.any fun e => match e.2 with
    | .repair m' v' o' _ _ _ => m' == m && v' == v && o' == o
    | _ => false

/-- An object is in place for a deal's epoch, or has failed from every source (R105, R211). -/
def State.objIn (s : State) (m v epoch o : Nat) : Bool :=
  let d := s.desc m v o
  d.poisoned ||
    (match d.place.toNat with
      | 1 => (s.model m v).ready && !s.repairing m v o
      | 2 => s.seq.placed.any fun f => f.dst == 0 && f.m == m && f.s == v && f.obj == o && f.epoch == epoch
      | 3 => if s.classH m v then (s.model m v).hotres else s.seq.chipSet == some (m, v)
      | _ => false)

/-- Objects of a layer that are not in place. -/
def State.missing (s : State) (m v epoch layer : Nat) : List Nat :=
  (s.objs m v).filter fun o => (s.desc m v o).layer.toNat == layer && !s.objIn m v epoch o

/-- Every weight object of a layer is in place; while an on-chip set loads none is (R211, R212). -/
def State.layerIn (s : State) (m v epoch layer : Nat) : Bool :=
  !((s.model m v).loading && !s.classH m v) && (s.missing m v epoch layer).isEmpty

/-! Layer holds (R103, R104, R119). -/

/-- Descriptor, feed, key, BIAS and CAND_CFG messages have left port F (R90, R258). -/
def State.feedLeft (s : State) : Bool :=
  s.ports.fQueue.all fun e => !([0x41, 0x42, 0x43, 0x44, 0x45, 0x46, 0x48, 0x49].contains e.2.op)

/-- Leads of the running deal whose live rows exchange with followers (R103, R108). -/
def State.jointSeats (s : State) : List Nat := match s.deals.running with
  | some r => (r.deal.seats.filter fun x => x.split && (x.kind == 1 || x.kind == 2) && !r.voided.contains x.seat).map (·.seat)
  | none => []

/-- Every follower partial of the layer before is in, for every split seat of the deal (R103). -/
def State.peersIn (s : State) (r : Running) (layer : Nat) : Bool := s.jointSeats.all fun i => decide (layer ≤ tget 0 r.peers i)

/-- A layer of the running deal can be released, but for the layers below it (R103). -/
def State.layerReady (s : State) (r : Running) (layer : Nat) : Bool :=
  s.layerIn r.deal.model r.deal.slot r.deal.epoch layer && s.peersIn r layer

/-- Layers of a version. -/
def State.layersOf (s : State) (m v : Nat) : Nat := (s.model m v).f.layers.toNat

/-- One more than the highest layer that can be released: layers are taken in order from `layer` (R103). -/
def releaseTo (s : State) (r : Running) : Nat → Nat → Nat
  | 0, layer => layer
  | f + 1, layer => if s.layerReady r layer then releaseTo s r f (layer + 1) else layer

/-- THROUGH that can be sent now, as one more than the layer (R103). -/
def State.releasable (s : State) (r : Running) : Nat := releaseTo s r (s.layersOf r.deal.model r.deal.slot - r.through) r.through

/-- LAUNCH would be sent but for layer 0 (R27 step 9, R90, R103). -/
def State.launchDue (s : State) : Bool :=
  s.deals.running.isNone && s.deals.handed.isSome && s.deals.feedSent && s.feedLeft && s.on F.HER_CTRL_LAUNCHEN &&
    !s.deals.stopped && !s.deals.stopping

/-- The deal that LAUNCH would start, as a running deal with nothing released. -/
def Deal.asRun (d : Deal) (feed : List FeedEnt) (at_ : Nat) : Running := ⟨d, feed, at_, 0, none, 0, 0, [], [], false⟩

/-- PARTIALs of a layer still owed to the running deal, as (seat, member). -/
def State.owedAt (s : State) (layer : Nat) : List (Nat × Nat) :=
  (s.deals.peerWaits.filter fun w => w.layer == layer && w.since.isSome).flatMap fun w => w.owed.map fun k => (w.seat, k)

/-- The one PARTIAL for which layer `layer` is held: every QUERY of the layer before has left and one answer is owed; as (node,
split-seat entry) (R104). DESIGN CHOICE: while several are owed no hold for a peer is recorded, as the worked example of R114 records
one from the last PARTIAL but one (log entry 51). -/
def State.peerHeld (s : State) (r : Running) (layer : Nat) : Option (Nat × Nat) :=
  if layer = 0 then none
  else
    let l := s.owedAt (layer - 1)
    let out := s.jointSeats.all fun i => decide (layer ≤ tget 0 r.peers i) || l.any fun x => x.1 == i
    match l with
    | [(i, k)] =>
      let e := (s.seat i).splitIdx.toNat
      if out then some ((((tget SplitEnt.empty s.deals.splits e).members[k]?).map (·.1)).getD 0, e) else none
    | _ => none

/-- The hold that R104 records now for the next layer to be released. -/
def State.holdNow (s : State) : Option Hold :=
  match s.deals.running with
  | some r =>
    let m := r.deal.model
    let v := r.deal.slot
    let n := r.through
    if r.abandoned || decide (s.layersOf m v ≤ n) then none
    else
      let w := !s.layerIn m v r.deal.epoch n
      let obj := ((s.missing m v r.deal.epoch n).head?).getD 0
      if s.peersIn r n then (if w then some ⟨n, 1, obj, 0, 0, s.now⟩ else none)
      else match s.peerHeld r n with
        | some (node, e) => some ⟨n, if w then 3 else 2, if w then obj else 0, node, e, s.now⟩
        | none => none
  | none => match s.deals.handed with
    | some d =>
      if s.launchDue && !s.layerIn d.model d.slot d.epoch 0 then
        some ⟨0, 1, ((s.missing d.model d.slot d.epoch 0).head?).getD 0, 0, 0, s.now⟩
      else none
    | none => none

/-- The deal that a hold concerns. -/
def State.heldDeal (s : State) : Option Deal := match s.deals.running with
  | some r => some r.deal
  | none => s.deals.handed

/-- A hold ends: counted, traced and added to the deal's hold time; `cut` says that a stop ended it (R104, R290, R297). -/
def endHold (cut : Bool) (s : State) : State :=
  match s.deals.hold with
  | none => s
  | some h =>
    let ns := s.now - h.since
    let e := (s.heldDeal.map (·.epoch)).getD 0
    let m := (s.heldDeal.map (·.model)).getD 0
    let s := if h.why = 2 then s else bump 0x51 s
    let s := if h.why = 1 then s else bump 0x52 s
    let s := bumpN 0x53 (ns / 64) s
    let s := trace (mkTrc h.why e (if h.why = 1 then h.obj else h.node) 0 h.layer h.since ns cut
      (if h.why = 1 then m else if h.why = 2 then h.entry else h.obj)) s
    let more := fun (r : Running) => { r with holdNs := r.holdNs + ns }
    modDeals (fun d => { d with hold := none, running := d.running.map more }) s

/-- The hold follows what the layer waits for; a hold whose last condition is met lasts until the release (R104, R119). -/
def holdStep (s : State) : State :=
  match s.deals.hold, s.holdNow with
  | none, none => s
  | some _, none => s
  | none, some n => modDeals (fun d => { d with hold := some n }) s
  | some h, some n =>
    if h.layer = n.layer ∧ h.why = n.why then modDeals (fun d => { d with hold := some { n with since := h.since } }) s
    else modDeals (fun d => { d with hold := some n }) (endHold false s)

/-! Arrivals. -/

/-- Loads whose last object is in place finish (R212, R213). -/
def finishLoads (m v dst : Nat) (s : State) : State :=
  if s.loadOwed m v dst then s
  else if dst = 2 ∧ (s.model m v).loading = true then
    hotRetry (modModel m v (fun x => { x with loading := false, hotres := true }) s)
  else if dst = 1 then
    match s.seq.chipLoad with
    | some (m', v', _, since) =>
      if m' = m ∧ v' = v then
        setFld F.MOD_LASTSTEP_SWITCHT (sat 0xFFFFFFFF ((s.now - since) / 64))
          (modModel m v (fun x => { x with loading := false })
            (modSeq (fun q => { q with chipSet := some (m, v), chipLoad := none }) s))
      else s
    | none => s
  else s

/-- An object of a fetch is in place. -/
def objPlaced (f : Fetch) (s : State) : State :=
  let s := if f.dst = 0 then modSeq (fun q => { q with placed := q.placed ++ [f] }) s else s
  finishLoads f.m f.s f.dst s

/-- The sequencer's issue of its next fetch (R209, R211): stage fetches in order and only with ring room, loads beside them; a
SECONDARY object is asked of its second source. A fetch issued again keeps its ring place. While the node is stopped, prefetch and
on-chip loads for the next deal wait (R116, R217). -/
def issueNext (s : State) : State :=
  let halted := s.deals.stopped || s.deals.stopping
  let waits := fun (f : Fetch) => f.dst == 0 && f.pos.isNone && !s.ringRoom (s.desc f.m f.s f.obj).bytes.toNat
  let firstStage := if halted then none else s.seq.queue.find? fun f => f.dst == 0
  let blocked := match firstStage with
    | some f => waits f
    | none => false
  let s := if blocked = true ∧ s.seq.stageWait.isNone then
      setFlag F.MOD_FLAGS_STAGEWAIT (bump 0x9B (modSeq (fun q => { q with stageWait := some s.now }) s))
    else s
  match s.seq.queue.find? fun f => if halted then decide (2 ≤ f.dst) else f.dst != 0 || !blocked with
  | none => s
  | some f =>
    let s := modSeq (fun q => { q with queue := q.queue.erase f }) s
    let d := s.desc f.m f.s f.obj
    let s := match s.seq.stageWait with
      | some since => if f.dst = 0 then
          modSeq (fun q => { q with stageWait := none })
            (trace (mkTrc 0x0C f.epoch f.obj 0 0xFFF since (s.now - since) false f.m) s)
        else s
      | none => s
    let pos := s.ringNext
    let new := decide (f.dst = 0) && f.pos.isNone
    let s := if new then modSeq (fun q => { q with
        ring := q.ring ++ [(f.epoch, d.layer.toNat, d.bytes.toNat, pos)]
        ringPos := (pos + d.bytes.toNat) % (max 1 (s.fld F.MOD_STAGESIZE_BYTES)) }) s
      else s
    let f := { f with pos := if new then some pos else f.pos, since := s.now }
    if d.secondary ∧ f.dst = 0 then
      if s.secOk f.m f.s f.obj then objFetchSend f s
      else poison f.m f.s f.obj s
    else
      let t := s.seq.nextTag % 2 ^ 24
      let s := modSeq (fun q => { q with nextTag := (t + 1) % 2 ^ 24, out := tins q.out t f }) (bump 0x95 s)
      sendMsg (mkMsg .T 0 0x61 [(24, t), (2, f.dst), (2, d.srcTier.toNat), (16, 0)]
        [d.srcAddr, BitVec.ofNat 64 (s.dstAddr f), pack [(32, d.bytes.toNat), (32, 0)], pack [(48, f.epoch), (16, 0)]] 0 []) 0 s

/-- TFETCH (R209, R211): one fetch leaves when the sequencer runs, port T is open and the streamer has granted credit. -/
def execTfetch (t : BitVec 64) (s : State) : Host.Outcome State Fault Refusal :=
  if !s.mainOn then .next (tick t s) else
  let s := tick t s
  if s.on F.MOD_CTRL_ENABLE ∧ s.live .T 0 = true ∧ s.portOpen .T = true ∧ 0 < s.outCredit .T 0 0 then .next (holdStep (issueNext s))
  else .next s

/-- TDONE (R209, R214, R217): in place; an error, which goes to repair; or a tier that is down, whose fetch waits for it. -/
def tdoneTaken (tag status : Nat) (s : State) : State :=
  match (s.seq.out.find? fun e => e.1 == tag).map (·.2) with
  | none => s
  | some f =>
    let s := modSeq (fun q => { q with out := tdel q.out tag }) s
    match status with
    | 0 => objPlaced f (countRead (s.desc f.m f.s f.obj) s)
    | 1 => let r := objError f s
           if r.2 then r.1 else finishLoads f.m f.s f.dst r.1
    | 2 => modSeq (fun q => { q with down := q.down ++ [f] }) s
    | _ => s

/-- TDONE arrives. -/
def execTdone (t : BitVec 64) (tag : BitVec 24) (status : BitVec 4) (badAddr : Word) (s : State) :
    Host.Outcome State Fault Refusal :=
  if !s.mainOn then .next (tick t s) else
  .next (taking .T 0 0 0x62 badAddr 0 (fun s => holdStep (drain (idleActions (tdoneTaken tag.toNat status.toNat s)))) (tick t s))

/-- The live PLACE 1 objects whose home holds an address (R214). -/
def State.homesAt (s : State) (addr : Nat) : List (Nat × Nat × Nat) :=
  (s.seq.models.filter fun e => e.2.live).flatMap fun e =>
    ((s.objsAt (e.1 / 4) (e.1 % 4) 1).filter fun o =>
      let d := s.desc (e.1 / 4) (e.1 % 4) o
      decide (d.srcAddr.toNat ≤ addr ∧ addr < d.srcAddr.toNat + 4096 * d.bytes.toNat)).map fun o => (e.1 / 4, e.1 % 4, o)

/-- One object of a TERR: a released layer's users close, and the repair runs (R214). -/
def terrOne (x : Nat × Nat × Nat) (s : State) : State :=
  let m := x.1
  let v := x.2.1
  let o := x.2.2
  if s.repairing m v o || (s.desc m v o).poisoned then s
  else
    let released := match s.deals.running with
      | some r => r.deal.model == m && r.deal.slot == v && decide ((s.desc m v o).layer.toNat < r.through)
      | none => false
    let s := if released then closeUsers m v s else s
    (objError ⟨m, v, o, 3, 0, s.now, none⟩ s).1

/-- TERR (R209, R214). -/
def execTerr (t : BitVec 64) (addr : Word) (s : State) : Host.Outcome State Fault Refusal :=
  if !s.mainOn then .next (tick t s) else
  .next (taking .T 0 0 0x63 addr 0 (fun s => holdStep (drain (idleActions (each terrOne (s.homesAt addr.toNat) s)))) (tick t s))

/-- Fetches in the order in which they were first issued: by epoch, then store order. -/
def issueOrder (l : List Fetch) : List Fetch :=
  sortBy (fun a b => decide (a.epoch < b.epoch) || (a.epoch == b.epoch && decide (a.obj ≤ b.obj))) l

/-- The tiers' state changes: READY follows, fetches that waited for a tier are reissued, admission may open (R207, R217). -/
def tiersChange (flashUp hbmUp : Bool) (s : State) : State :=
  let s := if !flashUp || !hbmUp then setFlag F.MOD_FLAGS_TIERDOWN (bump 0x9E s) else s
  let s := setReady (modSeq (fun q => { q with flashUp := flashUp, hbmUp := hbmUp }) s)
  let up := fun (f : Fetch) => s.tierUp (s.desc f.m f.s f.obj).srcTier.toNat
  admissionOpens (modSeq (fun q => { q with
    queue := issueOrder (q.down.filter up) ++ q.queue, down := q.down.filter fun f => !up f }) s)

/-- The outcome of a second-source fetch (R214). -/
def repairDone (m v o dst epoch : Nat) (ok : Bool) (s : State) : State :=
  let d := s.desc m v o
  let f : Fetch := ⟨m, v, o, dst, epoch, s.now, none⟩
  if ok then
    let s := if d.secondary then s else setFlag F.MOD_FLAGS_REFETCH (bump 0x9C s)
    let s := if d.place = 2 then modDesc m v o (fun d => { d with secondary := true }) s else s
    objPlaced f s
  else finishLoads m v dst (poison m v o s)

/-- OBJ_DATA answers a tag (R214, R257). -/
def objDataTaken (tag : Nat) (ok : Bool) (s : State) : State :=
  match s.tagUse tag with
  | some (.repair m v o dst epoch _) => repairDone m v o dst epoch ok (endTag tag s)
  | _ => s

/-- The payload of an OBJ_DATA has moved (R214, R257). -/
def objDataIn (tag : Nat) (ok : Bool) (s : State) : State := holdStep (drain (idleActions (objDataTaken tag ok s)))

/-- OBJ_DATA arrives on port C or N: STATUS 0 brings the object, whose payload moves through its port's gate as REPAIR's; another STATUS has
no payload (R214, R220, R221, R257). -/
def execObjData (t : BitVec 64) (p : Port) (tag : BitVec 24) (status : BitVec 4) (s : State) :
    Host.Outcome State Fault Refusal :=
  if !s.mainOn then .next (tick t s) else
  let s := tick t s
  let bytes := match s.tagUse tag.toNat with
    | some (.repair m v o _ _ _) => if status = 0 then 4096 * (s.desc m v o).bytes.toNat else 0
    | _ => 0
  let peer := match s.tagUse tag.toNat with
    | some (.repair m v _ _ _ _) => match s.secPort m v with
      | some (_, k) => k
      | none => 0
    | _ => 0
  let unit := if p = .N then (2, 2) else (0, 5)
  let x : Gated := ⟨.objData t p tag status, unit.1, unit.2, tag.toNat, p, peer, 0, beatsOf bytes⟩
  .next (takingGated x 0x3E (payWord bytes tag.toNat) (objDataIn tag.toNat (status == 0)) s)

/-- SECWAIT passes for a second-source fetch: it has failed (R214). -/
def execSecwaitExpiry (t : BitVec 64) (tag : BitVec 24) (s : State) : Host.Outcome State Fault Refusal :=
  if !s.mainOn then .next (tick t s) else
  let s := tick t s
  if tget 0 s.kv.tagAt tag.toNat + 1000 * s.fld F.MOD_CTRL_SECWAIT ≤ s.now then
    .next (holdStep (drain (idleActions (objDataTaken tag.toNat false s))))
  else .next s

/-- OBJ_FETCH from a peer (R257): served from the HBM home of a live version's unpoisoned PLACE 1 object, else STATUS 1. -/
def objFetchTaken (peer tag : Nat) (handle : Word) (s : State) : State :=
  let m := handle.toNat / 2 ^ 58
  let ver := handle.toNat / 2 ^ 42 % 2 ^ 16
  let o := handle.toNat / 2 ^ 24 % 2 ^ 18
  let hit := match s.modelVer m ver with
    | some v => if o < (s.model m v).f.objCount.toNat ∧ (s.desc m v o).place = 1 ∧ !(s.desc m v o).poisoned then
        some (4096 * (s.desc m v o).bytes.toNat) else none
    | none => none
  match hit with
  | some n => sendN peer 0x3E 0 [(44, 0)] [payWord n tag, 0] (beatsOf n) [] s
  | none => sendN peer 0x3E 0 [(44, 0)] [payWord 0 tag, pack [(4, 1), (60, 0)]] 0 [] s

/-- OBJ_FETCH arrives on port N. -/
def execObjFetch (t : BitVec 64) (peer : BitVec 6) (tag : BitVec 24) (handle : Word) (bytes : BitVec 32) (s : State) :
    Host.Outcome State Fault Refusal :=
  if !s.mainOn then .next (tick t s) else
  .next (taking .N peer.toNat 2 0x3D (pack [(40, 0), (24, tag.toNat)]) 0
    (fun s => let _ := bytes; objFetchTaken peer.toNat tag.toNat handle s) (tick t s))

/-! Registration (R205 to R208). -/

/-- The slot MOD_SEL selects. -/
def State.modSel (s : State) : Nat × Nat := (s.fld F.MOD_SEL_MODEL, s.fld F.MOD_SEL_SLOT)

/-- RESULT of MOD_STAT. -/
def modResult (r : Nat) (s : State) : State := setFld F.MOD_STAT_RESULT r s

/-- RESULT reads 0xF: a scan is under way, and MOD_SEL and MOD_CMD must not be written (R218). -/
def State.modBusy (s : State) : Bool := s.seq.scan.isSome

/-- A descriptor of the store belongs to a LIVE slot. -/
def State.descLive (s : State) (n : Nat) : Bool :=
  s.seq.models.any fun e => e.2.live && decide (e.2.f.objFirst.toNat ≤ n ∧ n < e.2.f.objFirst.toNat + e.2.f.objCount.toNat)

/-- What software writes into a descriptor changes it: POISONED and SECONDARY are not its to write (R206). -/
def descChanges (d old : Desc) : Bool := { d with poisoned := old.poisoned, secondary := old.secondary } != old

/-- A descriptor of a LIVE slot would be changed (R206). -/
def changesLive (s : State) : Nat → List Desc → Bool
  | _, [] => false
  | n, d :: r => (s.descLive n && descChanges d (tget Desc.empty s.seq.store n)) || changesLive s (n + 1) r

/-- The descriptors written from an index on; those of a LIVE slot stay as they are. -/
def putDescs : Nat → List Desc → State → State
  | _, [], s => s
  | n, d :: r, s => putDescs (n + 1) r (if s.descLive n then s else
      modSeq (fun q => { q with store := tput Desc.empty q.store n { d with poisoned := false, secondary := false } }) s)

/-- The rule that a registration's writes break: fields of a slot in use (R205), descriptors of a LIVE slot (R206), or any write
while RESULT reads 0xF (R218). -/
def State.registerMisuse (s : State) (f : ModelFields) (ds : List Desc) : Option Nat :=
  let x := s.model s.modSel.1 s.modSel.2
  if s.modBusy then some 218
  else if (x.live || x.waitPop) && f != x.f then some 205
  else if changesLive s f.objFirst.toNat ds then some 206
  else none

/-- Software writes the slot and its descriptors and writes REGISTER: the scan begins (R207). A slot in use is not written. -/
def modRegisterStart (f : ModelFields) (ds : List Desc) (s : State) : State :=
  let m := s.modSel.1
  let v := s.modSel.2
  let x := s.model m v
  let s := if x.live || x.waitPop then s
    else putDescs f.objFirst.toNat ds (modModel m v (fun _ => { ModelSlot.empty with f := f }) s)
  modResult 0xF (modSeq (fun q => { q with scan := some (m, v) }) s)

/-- A descriptor passes the tests of RESULT 5 (R206, R207). -/
def descValid (hot : Bool) (d : Desc) : Bool :=
  decide (d.layer.toNat ≤ 4094) && (d.place == 1 || d.place == 2 || d.place == 3) && (d.srcTier == 1 || d.srcTier == 2) &&
    (d.place != 1 || d.srcTier == 1) && (d.place != 2 || d.srcTier == 2) && (!hot || d.place == 3) && decide (d.format.toNat ≤ 4)

/-- Layers run in ascending order. -/
def ascending : List Nat → Bool
  | a :: b :: r => decide (a ≤ b) && ascending (b :: r)
  | _ => true

/-- RESULT 5 (R205, R207). -/
def State.regInvalid (s : State) (m v : Nat) : Bool :=
  let f := (s.model m v).f
  let ds := (s.objs m v).map (s.desc m v)
  f.layers == 0 || f.objCount == 0 || decide (131072 < f.objCount.toNat) || f.vocab == 0 || decide (1048576 < f.vocab.toNat) ||
    decide (100000000000000 < f.params.toNat) || f.secKind == 3 ||
    decide (s.fld F.MOD_OBJSTORE_CAP < f.objFirst.toNat + f.objCount.toNat) ||
    !(ds.all (descValid (f.cls == 1))) || !ascending (ds.map fun d => d.layer.toNat)

/-- 4 KiB units of the objects of a version with a placement. -/
def State.unitsAt (s : State) (m v place : Nat) : Nat := sumOf ((s.objsAt m v place).map fun o => (s.desc m v o).bytes.toNat)

/-- RESULT 4 (R207). -/
def State.regTooLarge (s : State) (m v : Nat) : Bool :=
  decide ((if s.classH m v then s.fld F.MOD_HOTCFG_BYTES else s.fld F.MOD_CHIPCFG_BYTES) < s.unitsAt m v 3) ||
    (s.objsAt m v 2).any fun o => decide (s.fld F.MOD_STAGESIZE_BYTES <
      sumOf (((s.objsAt m v 2).filter fun k => (s.desc m v k).layer == (s.desc m v o).layer).map fun k => (s.desc m v k).bytes.toNat))

/-- A slot ceases to be current, and retires when it has no pin (R208). -/
def uncurrentModel (m v : Nat) (s : State) : State := retireModel m v (modModel m v (fun x => { x with current := false }) s)

/-- The scan ends with the first refusal that applies, in the order 2, 3, 5, 4, or the registration (R207). -/
def modRegisterEnd (s : State) : State :=
  match s.seq.scan with
  | none => s
  | some (m, v) =>
    let s := modSeq (fun q => { q with scan := none }) s
    let x := s.model m v
    let dup := (List.range 4).any fun k => k != v && (s.model m k).live && (s.model m k).f.version == x.f.version
    if x.live || x.waitPop then modResult 2 s
    else if dup then modResult 3 s
    else if s.regInvalid m v then modResult 5 s
    else if s.regTooLarge m v then modResult 4 s
    else
      let old := s.modelCur m
      let s := modModel m v (fun x => { x with
        live := true, current := true, chipBytes := s.unitsAt m v 3, flashBytes := ceilDiv (s.unitsAt m v 2) 256
        ready := s.tiersUp m v }) s
      let s := match old with
        | some y => uncurrentModel m y s
        | none => s
      admissionOpens (bump 0x93 (modResult 1 s))

/-- REGISTER is written to MOD_CMD with the slot's fields and descriptors in place (R207). -/
def execModRegister (f : ModelFields) (ds : List Desc) (s : State) : Host.Outcome State Fault Refusal :=
  if !s.cmdOn then .next s else
  match s.registerMisuse f ds with
  | some r => .fault (.misuse r)
  | none => .next (modRegisterStart f ds s)

/-- The sequencer reports RESULT (R207). -/
def execModRegisterDone (t : BitVec 64) (s : State) : Host.Outcome State Fault Refusal :=
  if !s.mainOn then .next (tick t s) else
  .next (hotRetry (modRegisterEnd (tick t s)))

/-- WITHDRAW: the selected model has no current version (R207, R208). -/
def modWithdraw (s : State) : State :=
  match s.modelCur s.modSel.1 with
  | none => modResult 6 s
  | some y => modResult 1 (uncurrentModel s.modSel.1 y s)

/-- WITHDRAW is written to MOD_CMD. -/
def execModWithdraw (s : State) : Host.Outcome State Fault Refusal :=
  if !s.cmdOn then .next s else
  if s.modBusy then .fault (.misuse 218) else .next (hotRetry (modWithdraw s))

/-- HOTLOAD is written to MOD_CMD (R213). -/
def execModHotload (t : BitVec 64) (s : State) : Host.Outcome State Fault Refusal :=
  if !s.cmdOn then .next (tick t s) else
  if s.modBusy then .fault (.misuse 218) else .next (hotStart s.modSel.1 s.modSel.2 (tick t s))

/-- REOBJ clears a poisoned object, with what software put right in its descriptor (R215). -/
def modReobj (fix : Option Desc) (s : State) : State :=
  let m := s.modSel.1
  let v := s.modSel.2
  let o := s.fld F.MOD_SEL_OBJIDX
  let x := s.model m v
  if !x.live || decide (x.f.objCount.toNat ≤ o) then modResult 5 s
  else if !(s.desc m v o).poisoned then modResult 1 s
  else
    let s := modDesc m v o (fun d => match fix with
      | some n => { d with poisoned := false, secondary := false, srcAddr := n.srcAddr, secHandle := n.secHandle }
      | none => { d with poisoned := false, secondary := false }) s
    let s := if (s.objs m v).any fun k => (s.desc m v k).poisoned then s else modModel m v (fun x => { x with poisoned := false }) s
    let s := if x.f.cls = 1 then modModel m v (fun x => { x with hotres := false }) s else s
    admissionOpens (modResult 1 s)

/-- REOBJ is written to MOD_CMD. -/
def execModReobj (fix : Option Desc) (s : State) : Host.Outcome State Fault Refusal :=
  if !s.cmdOn then .next s else
  if s.modBusy then .fault (.misuse 218) else .next (hotRetry (modReobj fix s))

/-- POP of MOD_RETIREACK: the head entry goes and its slot is free (R208). -/
def modPop (s : State) : State :=
  match s.seq.retire with
  | [] => s
  | (m, v, _) :: r =>
    modSeq (fun q => { q with retire := r ++ q.retireWait.take 1, retireWait := q.retireWait.drop 1 })
      (modModel m v (fun x => { x with waitPop := false }) s)

/-- POP is written to MOD_RETIREACK. -/
def execModRetirePop (s : State) : Host.Outcome State Fault Refusal :=
  if !s.cmdOn then .next s else
  .next (modPop s)

end Sys2Proof.Machine
end

