-- ==== Sys2Proof/Machine/Lookup.lean ====
section
/-! DEFINITION. From the prompt to its route: latency prediction (R54, R56), the prompt store (R180, R249), prefix lookup with
verification (R178, R181 to R185), routing and shipping (R59, R193, R194). -/
namespace Sys2Proof.Machine

/-! Prediction (R54, R56). -/

/-- num / den rounded to nearest, ties to even; 0 when den is 0. -/
def roundDiv (num den : Nat) : Nat :=
  if den = 0 then 0
  else
    let q := num / den
    let r := num % den
    if 2 * r > den ∨ (2 * r = den ∧ q % 2 = 1) then q + 1 else q

/-- GAINSHIFT. -/
def State.gain (s : State) : Nat := s.fld F.ADM_TUNE_GAINSHIFT

/-- An estimator kept between a quarter and four times its prior, within its field; 0 when the prior is 0 (R54). -/
def clampPrior (prior lim v : Nat) : Nat :=
  if prior = 0 then 0 else min (max v (ceilDiv prior 4)) (min (4 * prior) lim)

/-- The multiplicative update e x (1 + g (t - p) / p), rounded (R54); the free value where p is 0, which the spec leaves
without a result. -/
def multUpd (e g t p free : Nat) : Nat := if p = 0 then free else roundDiv (e * (p * 2 ^ g + t - p)) (p * 2 ^ g)

/-- Chunk tokens of a seat: 64 x CHUNK, or 64 x CHUNKDEF of its class (R56, R67). -/
def State.chunkTok (s : State) (i : Nat) : Nat :=
  let a := s.seat i
  64 * (if a.chunk = 0 then s.rd (F.ADM_CLASS_POLICY_CHUNKDEF a.cls.toNat) else a.chunk.toNat)

/-- Rows of the next deal that a seat is counted with: 1 + DRAFTLEN in Ready or Dealt with its flags clear (R56). -/
def Seat.nextRows (a : Seat) : Nat :=
  if (a.state = .ready ∨ a.state = .dealt) ∧ !a.pauseReq ∧ !a.cancel ∧ !a.stopSeen then 1 + a.draftLen.toNat else 0

/-- rows_next of R56. -/
def State.rowsNext (s : State) : Nat := sumOf (s.led.seats.map fun e => e.2.nextRows)

/-- The deal's chunk budget, as the latest deal handed off recorded it (R74). -/
def State.chunkBudget (s : State) : Nat := 64 * s.fld F.DEAL_LAST1_CBUDGET

/-- Prefilling seats that run chunks: a follower's stretch is filled without them (R198; log entry 53). -/
def State.chunkSeats (s : State) : List Nat := (s.seatsIn [.prefilling]).filter fun i => (s.seat i).role != 2

/-- Chunk tokens of Prefilling seats with PAUSEREQ clear (R56). -/
def State.chunkSum (s : State) : Nat := sumOf ((s.chunkSeats.filter fun i => !(s.seat i).pauseReq).map s.chunkTok)

/-- s of R56 for a number of rows and chunk tokens, in ns. -/
def State.stepFor (s : State) (rows chunks : Nat) : Nat := s.est.base + s.est.rowCost * rows + s.est.chunkCost * chunks

/-- s of R56, in ns. -/
def State.stepNext (s : State) : Nat := s.stepFor s.rowsNext (min s.chunkBudget s.chunkSum)

/-- tpot(c) exceeds num/den of TPOTBUD(c), for a step of `st` ns; TPD is unsigned 8.8 (R56). -/
def State.tpotOver (s : State) (st c num den : Nat) : Bool :=
  decide (num * s.fld (F.ADM_CLASS_TIME_TPOT c) * 1000 * (s.cls c).tpd < den * st * 256)

/-- Uest at admission: PROMPTLEN x (1 - HITFRAC), up to a multiple of 64 (R56). -/
def State.uest (s : State) (i : Nat) : Nat :=
  let a := s.seat i
  64 * ceilDiv (a.promptLen.toNat * (65536 - (s.tenant a.tenant.toNat).hitFrac.toNat)) (65536 * 64)

/-- Q of R56: chunk tokens still to run for Prefilling seats of equal or more urgent classes. -/
def State.chunkQueue (s : State) (c : Nat) : Nat :=
  sumOf ((s.chunkSeats.filter fun j => decide ((s.seat j).cls.toNat ≤ c)).map fun j =>
    64 * ceilDiv ((s.seat j).promptLen.toNat - (s.seat j).prefilled.toNat) 64)

/-- ttft_local of R56 in ns for `u` uncovered tokens; where the chunk budget or the chunk size is 0 the quotient has no
stated value and the free value stands for the term. -/
def State.ttftLocal (s : State) (i u : Nat) : Nat :=
  let st := s.stepNext
  let ct := s.chunkTok i
  let b := s.chunkBudget
  s.sinceArrival i + ((if ct = 0 then Config.freeNat s.free else ceilDiv u ct) + 1) * st +
    st * (if b = 0 then Config.freeNat s.free else s.chunkQueue (s.seat i).cls.toNat / b)

/-- ttft_ship of R56 in ns. -/
def State.ttftShip (s : State) (i u : Nat) : Nat :=
  s.sinceArrival i + s.est.poolBase * 100000 + s.est.poolKtok * (u - 64) + 2 * s.stepNext

/-- The prompt would be shipped for `u` uncovered tokens (R59). -/
def State.wouldShip (s : State) (i u : Nat) : Bool :=
  s.on F.ADM_CTRL_SHIPEN && s.live .P 0 && s.portOpen .P && decide (0 < s.outCredit .P 0 0) &&
    (decide (s.fld F.ADM_SHIP_THRESH ≤ u) ||
      (s.on F.ADM_CTRL_SHIPLOAD && !s.est.cold && decide (s.fld F.ADM_SHIP_LOADMIN ≤ u) &&
        decide (1000 * (s.seat i).ttftBud.toNat < s.ttftLocal i u)))

/-- The next budget window edge (R42): a change of WINLEN applies from it (R64). -/
def State.nextEdge (s : State) : Nat := s.est.edgeAt + 1000 * s.est.winLen

/-- Estimator updates are made (R54). -/
def State.tuning (s : State) : Bool := !s.on F.ADM_CTRL_TUNEFREEZE

/-- HITFRAC of a tenant at the end of a lookup that found `h` tokens (R54). -/
def updHitFrac (i h : Nat) (s : State) : State :=
  let a := s.seat i
  let pl := a.promptLen.toNat
  if !s.tuning then s
  else modTenant a.tenant.toNat (fun t => { t with
    hitFrac := BitVec.ofNat 16 (min 65535
      (roundDiv (t.hitFrac.toNat * pl * (2 ^ s.gain - 1) + 65536 * h) (2 ^ s.gain * pl))) }) s

/-- POOLBASE and POOLKTOK after a complete shipped return of `n` tokens that took `t` ns (R54). -/
def updPool (n t : Nat) (s : State) : State :=
  if !s.tuning then s
  else
    let p := s.est.poolBase * 100000 + s.est.poolKtok * n
    let fr := Config.freeNat s.free
    let u := fun e prior => clampPrior prior 0xFFFF (multUpd e s.gain t p fr)
    { s with
      free := if p = 0 then s.free + 1 else s.free
      est := { s.est with
        poolBase := u s.est.poolBase (s.fld F.ADM_PRIOR1_POOLBASE)
        poolKtok := if 0 < n then u s.est.poolKtok (s.fld F.ADM_PRIOR1_POOLKTOK) else s.est.poolKtok } }

/-! Shipping (R193, R194, R254). -/

/-- Prompt blocks of a seat: n of R168. -/
def State.nPrompt (s : State) (i : Nat) : Nat := ceilDiv (s.seat i).promptLen.toNat 64

/-- New blocks in a given state join a seat's chain, at most `n`; false when one could not be taken. -/
def growChain (i : Nat) (st : BlkState) : Nat → State → Bool × State
  | 0, s => (true, s)
  | n + 1, s => match newBlock i st s with
    | none => (false, s)
    | some (b, s) => growChain i st n (appendBlock i b s)

/-- The seat is routed to local chunks (R59). -/
def routeLocal (i : Nat) (s : State) : State := bump 0x3E (modSeat i (fun a => { a with state := .prefilling }) s)

/-- Blocks of a seat's own chain that its lookup hit: a lead's d is its first member's (R198). -/
def State.ownHits (s : State) (i : Nat) : Nat := if (s.seat i).role = 1 then 0 else (s.side i).hits / 64

/-- The blocks of a seat's hit run, in order. -/
def State.hitRun (s : State) (i : Nat) : List Nat := (s.chain i).take (s.ownHits i)

/-- The last block that a lookup may cover: all but the last block of a prompt (R168); every full block of a stretch. -/
def State.scanEnd (s : State) (i : Nat) : Nat :=
  if (s.seat i).role = 2 then (s.seat i).promptLen.toNat / 64 else s.nPrompt i - 1

/-- The last block that a prompt pool returns: the last but one of a prompt (R15, R193); the last of a follower's stretch. -/
def State.shipEnd (s : State) (i : Nat) : Nat := if (s.seat i).role = 2 then s.blkBase i + s.nPrompt i else s.nPrompt i - 1

/-- The last block before those that a prompt pool returns: of the hits, or of what lies before the stretch. -/
def State.shipBase (s : State) (i : Nat) : Nat := s.blkBase i + s.ownHits i

/-- Blocks that a prompt pool returns. -/
def State.shipLen (s : State) (i : Nat) : Nat := s.shipEnd i - s.shipBase i

/-- SPLIT_OPENED to the lead (R198, R256). -/
def sendSplitOpened (peer : Nat) (reqid : Word) (seat gen self : Nat) (refused : Bool) (hits : Nat) (s : State) : State :=
  sendN peer 0x71 1 [(44, 0)]
    [reqid, pack [(16, seat), (16, gen), (5, self), (1, bit refused), (26, 0)], pack [(18, hits), (46, 0)]] 0 [] s

/-- A follower's stretch cannot be filled: its seat closes with 0x31, and the lead is told that it cannot open (R45, R231). -/
def stretchFail (i : Nat) (s : State) : State :=
  let a := s.seat i
  let e := tget SplitEnt.empty s.deals.splits a.splitIdx.toNat
  let p := (s.side i).leadPeer
  sendSplitOpened p a.reqid 0 0 e.self true 0 (closeSeat i 0x31 s)

/-- Shipping steps 1 to 3: port P credit, blocks d + 1 to n - 1 in one allocation, and KV_PUT of run blocks the pool does not
hold; the seat enters Routed-to-prompt (R193). A follower cannot run chunks instead. -/
def shipSeat (i : Nat) (s : State) : State :=
  let want := s.shipLen i
  let local_ := fun s => if (s.seat i).role = 2 then stretchFail i s else routeLocal i s
  if s.outCredit .P 0 0 = 0 then local_ s
  else if !s.canTake want then local_ (setFlag F.PKV_FLAGS_ALLOCSHORT (bump 0x8E s))
  else
    let s := modSess .P 0 (fun e => { e with out := modNth (· - 1) e.out 0 }) s
    let s := (growChain i .returning want s).2
    let s := modSide i (fun x => { x with ship := some ⟨false, 0, 0, s.shipBase i + 1, 0⟩ }) s
    let s := modSeat i (fun a => { a with state := .routed, shipped := true }) (bump 0x3D s)
    let g := (s.seat i).gen.toNat
    each (fun b s => if (s.blk b).pool || (s.blk b).putting then s else putBlock (.putShip i g b) b s) (s.hitRun i) s

/-- Routing when the lookup ends (R59); nothing to return leaves the prompt local. -/
def routeSeat (i : Nat) (s : State) : State :=
  let u := (s.seat i).promptLen.toNat - (s.side i).hits
  if (s.seat i).state ≠ .opening ∨ (s.seat i).role ≠ 0 then s
  else if s.wouldShip i u ∧ (s.side i).hits / 64 + 1 < s.nPrompt i then shipSeat i s
  else routeLocal i s

/-- A shipment fails: SHIPFAIL, PREFILL_ABANDON, and the seat closes with 0x31 (R194). -/
def shipFail (i : Nat) (s : State) : State :=
  let s := setFlag F.PKV_FLAGS_SHIPFAIL (bump 0x8D s)
  if (s.seat i).role = 2 then stretchFail i s else closeSeat i 0x31 s

/-- The shipment can leave: every run block is in the pool and every token it carries has reached the store (R193). -/
def State.shipReady (s : State) (i : Nat) : Bool :=
  match (s.side i).ship with
  | some h => !h.sent && (s.hitRun i).all (fun b => (s.blk b).pool) &&
      decide (min (64 * s.shipEnd i - s.tokOff i) (s.seat i).promptLen.toNat ≤ (s.side i).toks.length)
  | none => false

/-- The TAG under which a shipment can leave now: SHIP owns the C-link gate with a transfer that is no return of a shipment, or the path
is idle and grants it at once (R220, R221; log entry 59). -/
def State.shipTag (s : State) : Option Nat :=
  match (s.gate 0).p0.owner with
  | some r =>
    let t := ((s.gate 0).req 0 r).tag
    let back := s.led.sides.any fun e => match e.2.ship with
      | some h => h.sent && h.tag == t
      | none => false
    if r = 4 ∧ back = false then some t else none
  | none => if s.gateFrozen 0 || !s.on (F.GATE_SHARE_ENABLE 0 4) then none else some (s.kv.nextTag % 2 ^ 24)

/-- PREFILL_SHIP leaves under a TAG, its payload as far as payload credit is held (R242): run entries, context record, RKEY and the tokens of the blocks to build; the pages of shipped blocks
are released (R180, R193, R254). -/
def sendShip (i t : Nat) (s : State) : State :=
  let d := s.ownHits i
  let o := s.shipBase i
  let g := (s.seat i).gen.toNat
  let toks := ((s.side i).toks.drop (64 * o - s.tokOff i)).take (64 * s.shipLen i)
  let run := (s.hitRun i).flatMap fun b => [(s.blk b).name, pack [(32, (s.blk b).handle), (32, 0)]]
  let s := modKv (fun k => { k with nextTag := if k.nextTag % 2 ^ 24 = t then (t + 1) % 2 ^ 24 else k.nextTag }) s
  let bytes := 16 * d + 4 * toks.length
  let m := mkMsg .P 0 0x20 [(44, 0)]
    ([payWord bytes t, pack [(16, i), (16, g), (18, d), (14, 0)], pack [(24, 64 * o), (24, toks.length), (16, 0)]] ++
      contextRecord s i ++ [match (s.side i).rkey with
        | some k => k
        | none => roundKey (s.seat i).rngKey]) (beatsOf bytes) (run ++ slotWords toks.length toks)
  let s := bump 0x8C (depart m (modSess .P 0 (fun e => Sess.moveOwed { e with owed := e.owed + m.beats }) s))
  freePagesOf i (fun j => decide (o < j ∧ j ≤ s.shipEnd i))
    (modSide i (fun x => { x with ship := some ⟨true, t, s.now, o + 1, s.now⟩ }) s)

/-- The checks of R178 on a block's tag against a seat's tokens, depth and context, and the name its parent must have. -/
def tagMatches (s : State) (i j : Nat) (parent : BitVec 64) (x : Blk) : Bool :=
  x.toks == s.blockToks i j (64 * j) && x.depth == j && x.ctx == (s.side i).ctx && x.parent == parent

/-- A carrier's tag as a block record. -/
def tagBlk (c : BlockTag) (x : Blk) : Blk :=
  { x with name := c.name, toks := c.toks.map (·.toNat), ctx := c.ctx, depth := c.depth.toNat, parent := c.parent, hash := c.hash }

/-- MISMATCH (R178). -/
def mismatch (s : State) : State := setFlag F.PKV_FLAGS_MISMATCH (bump 0x84 s)

/-- The first block of a stretch still owed is checked once it and its tokens have arrived, without the parent check at the
stretch's first block (R178, R198): it passes, or the seat closes with 0x31. -/
def stretchOne (i : Nat) (s : State) : Bool × State :=
  match (s.side i).splitReady with
  | [] => (false, s)
  | b :: r =>
    let l := s.chain i
    let k := (l.takeWhile fun x => x != b).length
    let x := s.blk b
    if x.state ≠ .complete ∨ (s.side i).toks.length < min (64 * (k + 1)) (s.seat i).promptLen.toNat then (false, s)
    else
      let par := if k = 0 then x.parent else match l[k - 1]? with
        | some p => (s.blk p).name
        | none => 0
      if tagMatches s i (s.blkBase i + k + 1) par x then (true, modSide i (fun d => { d with splitReady := r }) s)
      else (false, stretchFail i (mismatch s))

/-- A follower's stretch is verified as far as it has arrived; when it is all in place the seat enters Prefilling (R25, R198). -/
def stretchStep (i : Nat) : Nat → State → State
  | 0, s => s
  | f + 1, s =>
    let r := stretchOne i s
    if !r.1 then r.2
    else if (r.2.side i).splitReady = [] then modSeat i (fun a => { a with state := .prefilling }) r.2
    else stretchStep i f r.2

/-! Lookup (R181 to R185). -/

/-- SHARED of every owner in a run linked through the index rises to the deepest block of the run it owns (R185). -/
def raiseShared (i : Nat) (run : List Nat) (s : State) : State :=
  (each (fun b (p : Nat × State) =>
    let j := p.1 + 1
    let s := p.2
    let x := s.blk b
    let s := if x.owned ∧ x.owner ≠ i ∧ s.current x.owner x.ownerGen = true ∧ (s.seat x.owner).shared.toNat < j then
      modSeat x.owner (fun a => { a with shared := BitVec.ofNat 20 j }) s else s
    (j, s)) run (0, s)).2

/-- PREV of each block of a run names the block before it. -/
def linkRun : List Nat → State → State
  | a :: b :: r, s => linkRun (b :: r) (modBlk b (fun x => { x with prev := some a }) s)
  | _, s => s

/-- A follower's stretch beyond its hits is filled through the prompt pool, or from the handles of its SPLIT_OPEN, which are asked for
in order as DEPTH allows (R198, R202). -/
def fillStretch (i : Nat) (s : State) : State :=
  let d := s.side i
  let h := d.hits / 64
  if s.nPrompt i ≤ h then modSeat i (fun a => { a with state := .prefilling }) s
  else if d.fromPool then shipSeat i s
  else
    let r := growChain i .fetching (s.nPrompt i - h) s
    if !r.1 then stretchFail i (setFlag F.PKV_FLAGS_ALLOCSHORT (bump 0x8E r.2))
    else
      let owed := (r.2.chain i).drop h
      let s := modSide i (fun x => { x with splitReady := owed }) (modSeat i (fun a => { a with state := .routed }) r.2)
      (each (fun b (p : Nat × State) => (p.1 + 1, modBlk b (fun x => { x with handle := d.handles.getD p.1 0 }) p.2)) owed (h, s)).2

/-- What every lookup that ends leaves: SHARED of the seat and of the owners in its run, and PKV_LASTLOOKUP (R183, R185). -/
def recordLookup (i : Nat) (run : List Nat) (fetched why : Nat) (s : State) : State :=
  let d := run.length
  let s := raiseShared i run (modSeat i (fun a => { a with shared := BitVec.ofNat 20 d }) s)
  bumpN 0x81 d (bump 0x80 (setReg 0x28c8 (pack [(16, i), (17, d), (17, fetched), (3, why), (11, 0)]) s))

/-- The lookup of the member that holds position 0 ends: its d goes to the lead (R183, R198). -/
def endFollowerLookup (i : Nat) (run : List Nat) (fetched why : Nat) (s : State) : State :=
  let d := run.length
  let s := setChain i run (linkRun run s)
  let s := modSide i (fun x => { x with lookup := none, lookupDone := true, hits := 64 * d }) s
  let a := s.seat i
  let e := tget SplitEnt.empty s.deals.splits a.splitIdx.toNat
  let s := freePagesOf i (fun j => decide (j ≤ d)) s
  fillStretch i (sendSplitOpened (s.side i).leadPeer a.reqid i a.gen.toNat e.self false d (recordLookup i run fetched why s))

/-- The lookup ends with a run of `run` blocks, `fetched` of them fetched by this seat (R183): H, the pot adjustment, HITFRAC,
pages, SHARED, PKV_LASTLOOKUP, then routing. -/
def endLookup (i : Nat) (run : List Nat) (fetched why : Nat) (s : State) : State :=
  if (s.seat i).role = 2 then endFollowerLookup i run fetched why s else
  let d := run.length
  let a := s.seat i
  let t := s.tenant a.tenant.toNat
  let s := setChain i run (linkRun run s)
  let s := modSide i (fun x => { x with lookup := none, lookupDone := true, hits := 64 * d }) s
  let s := modSeat i (fun a => { a with prefilled := BitVec.ofNat 24 (64 * d) }) s
  let s := debit i (64 * d * ((t.wCached.toNat : Int) - t.wPrompt.toNat)) s
  let s := updHitFrac i (64 * d) s
  let s := freePagesOf i (fun j => decide (j ≤ d)) s
  routeSeat i (recordLookup i run fetched why s)

/-- The lookup ends when the scan has stopped and every block of the run is filled and verified (R183). -/
def tryEndLookup (i : Nat) (s : State) : State :=
  match (s.side i).lookup with
  | some l =>
    if l.stopped && l.run.all (·.ok) then
      endLookup i (l.run.map (·.blk)) (l.run.filter fun k =>
        k.fetched && (s.blk k.blk).owner == i && (s.blk k.blk).ownerGen == (s.seat i).gen.toNat).length l.why s
    else s
  | none => s

/-- A change of a seat's lookup. -/
def modLookup (i : Nat) (f : Lookup → Lookup) (s : State) : State :=
  modSide i (fun d => { d with lookup := d.lookup.map f }) s

/-- The scan stops for a reason. -/
def stopScan (i why : Nat) (s : State) : State :=
  modLookup i (fun l => if l.stopped then l else { l with stopped := true, why := why, probes := [] }) s

/-- The run ends at its first `n` blocks; blocks linked beyond it are released (R182). -/
def cutRun (i n why : Nat) (s : State) : State :=
  match (s.side i).lookup with
  | some l =>
    let s := modLookup i (fun l => { l with run := l.run.take n, stopped := true, why := why, probes := [] }) s
    each (fun k s => dropRef i k.blk s) (l.run.drop n).reverse s
  | none => s

/-- Blocks a seat has outstanding on port C. -/
def State.outstanding (s : State) (i : Nat) : Nat :=
  let g := (s.seat i).gen.toNat
  (s.kv.tags.filter fun e => match e.2 with
    | .fetch j h _ _ _ => j == i && h == g
    | .backBlk j h _ _ => j == i && h == g
    | .stretch j h _ _ _ => j == i && h == g
    | _ => false).length

/-- A block of a seat waits to be asked for: it is Fetching, no fetch of it is outstanding, and the seat has fewer than DEPTH blocks
outstanding (R181, R202). -/
def State.mayFetch (s : State) (i b : Nat) : Bool :=
  (s.blk b).state == .fetching && !s.fetchOut b && decide (s.outstanding i < s.fld F.PKV_FETCHCFG_DEPTH)

/-- One fetching block of a seat's run is asked for: by the seat that linked it first or, when that one has left it, by another holder,
which then is its owner (R181, R182, R200). -/
def issueOne (i j b : Nat) (s : State) : State :=
  let x := s.blk b
  let g := (s.seat i).gen.toNat
  if !s.mayFetch i b || (x.owned && !(x.owner == i && x.ownerGen == g)) then s
  else fetchHandle 0x30 (.fetch i g j b x.handle) x.handle (modBlk b (fun y => { y with owner := i, ownerGen := g, owned := true }) s)

/-- KV_FETCH for the fetching blocks of a seat's run not yet asked for, in block order (R181). -/
def issueFetches (i : Nat) (s : State) : State :=
  match (s.side i).lookup with
  | none => s
  | some l => (each (fun (k : Link) (p : Nat × State) => (p.1 + 1, issueOne i (p.1 + 1) k.blk p.2)) l.run (0, s)).2

/-- KV_FETCH for the blocks of a fetch-back and of a stretch not yet asked for, in block order (R192, R198). -/
def issueOwed (i : Nat) (s : State) : State :=
  let d := s.side i
  let g := (s.seat i).gen.toNat
  let back := match d.back with
    | some m => m.puts
    | none => []
  let one := fun (b : Nat) (s : State) =>
    let x := s.blk b
    if s.mayFetch i b then fetchHandle 0x30 (.backBlk i g b x.handle) x.handle s else s
  let two := fun (b : Nat) (s : State) =>
    let x := s.blk b
    let j := s.blkBase i + ((s.chain i).takeWhile fun y => y != b).length + 1
    if s.mayFetch i b then fetchHandle 0x30 (.stretch i g j b x.handle) x.handle s else s
  let s := each one back s
  if (s.seat i).role = 2 then each two d.splitReady s else s

/-- Every fetch that may be asked for is (R181, R192, R198). -/
def fetchStep (s : State) : State :=
  let busy := (s.led.sides.filter fun e => e.2.lookup.isSome || e.2.back.isSome || e.2.splitReady != []).map (·.1)
  each (fun i s => issueOwed i (issueFetches i s)) busy s

/-- A hit at entry `n` links block j of a seat's run, or stops the scan (R181). -/
def linkHit (i n : Nat) (s : State) : State :=
  let e := s.idx n
  if e.loc then
    let x := s.blk e.localBlk
    let s := modBlk e.localBlk (fun x => { x with refs := x.refs + 1, stamp := s.stampNow }) (stampIdx n s)
    modLookup i (fun l => { l with run := l.run ++ [⟨e.localBlk, x.state == .fetching, false⟩], probes := l.probes.tail }) s
  else if !e.pool then stopScan i 0 s
  else
    match newBlock i .fetching s with
    | none => stopScan i 4 (setFlag F.PKV_FLAGS_ALLOCSHORT (bump 0x8E s))
    | some (b, s) =>
      let s := modBlk b (fun x => { x with pool := true, handle := e.handle, indexed := true, idx := n }) s
      let s := setIdx n { s.idx n with loc := true, localBlk := b, stamp := s.stampNow % 2 ^ 31 } s
      modLookup i (fun l => { l with run := l.run ++ [⟨b, true, false⟩], probes := l.probes.tail }) s

/-- The key of a block under a seat's context (R170). -/
def State.keyOf (s : State) (i : Nat) (h : BitVec 128) : BitVec 128 := h ^^^ (s.side i).ctx

/-- The pins of a seat are taken: probes may run (R181). -/
def State.pinned (s : State) (i : Nat) : Bool :=
  let p := (s.side i).phase
  p == .admitted || p == .answered || p == .dropped || p == .lost

/-- The scan has reached block n - 1 with every probe answered. -/
def closeScan (i : Nat) (s : State) : State :=
  match (s.side i).lookup with
  | some l => if !l.stopped ∧ l.probes = [] ∧ s.scanEnd i ≤ l.hashed then stopScan i 1 s else s
  | none => s

/-- Probes at the head of the scan that the hot cache serves are linked at once (R173, R181). -/
def hotAdvance (i : Nat) : Nat → State → State
  | 0, s => s
  | f + 1, s =>
    if !s.pinned i then s
    else match (s.side i).lookup with
      | none => s
      | some l =>
        if l.stopped then s
        else match l.probes.head? with
          | none => s
          | some (_, h) =>
            match s.idxFind (s.keyOf i h) with
            | some n =>
              if s.hotHas (s.keyOf i h) then hotAdvance i f (linkHit i n (hotTouch n (s.keyOf i h) s)) else s
            | none => s

/-- The scan goes on as far as the hot cache carries it, and the lookup ends when it can. -/
def advance (i : Nat) (s : State) : State :=
  match (s.side i).lookup with
  | some l => tryEndLookup i (closeScan i (hotAdvance i l.probes.length s))
  | none => s

/-- A seat's scan is under way. -/
def State.scanning (s : State) (i : Nat) : Bool := match (s.side i).lookup with
  | some l => !l.stopped
  | none => false

/-- One of the four hash engines serves a seat's scan: the scans are taken in order of arrival instant (R171). -/
def State.hasEngine (s : State) (i : Nat) : Bool :=
  let before := fun (j : Nat) => decide ((s.seat j).arrival < (s.seat i).arrival) ||
    ((s.seat j).arrival == (s.seat i).arrival && decide (j < i))
  s.scanning i && decide (((s.led.sides.map (·.1)).filter fun j => s.scanning j && before j).length < 4)

/-- The next block of a seat's scan is hashed (R170, R171, R181): an engine serves the scan, and the block's tokens are in the prompt
store. Probes queue behind the hashing, the first sixteen of them outstanding. -/
def hashNext (i : Nat) (s : State) : State :=
  match (s.side i).lookup with
  | none => s
  | some l =>
    let j := l.hashed + 1
    if !s.hasEngine i ∨ s.scanEnd i < j ∨ (s.side i).toks.length < 64 * j then s
    else
      let h := chainHash s.hkey0 s.hkey1 l.h (((s.side i).toks.drop (64 * (j - 1))).take 64)
      advance i (modLookup i (fun l => { l with hashed := j, h := h, probes := l.probes ++ [(j, h)] }) s)

/-- The bucket read of the oldest outstanding probe returns (R171, R181): a hit is copied into the hot cache and linked, a miss
stops the scan. -/
def probeDone (i : Nat) (s : State) : State :=
  match (s.side i).lookup with
  | none => s
  | some l =>
    if l.stopped ∨ !s.pinned i then s
    else match l.probes.head? with
      | none => s
      | some (_, h) =>
        match s.idxFind (s.keyOf i h) with
        | some n => advance i (linkHit i n (hotTouch n (s.keyOf i h) s))
        | none => advance i (stopScan i 0 s)

/-- The first link of a run that is not verified, with its position from 0. -/
def firstOpen : Nat → List Link → Option (Nat × Link)
  | _, [] => none
  | k, l :: r => if l.ok then firstOpen (k + 1) r else some (k, l)

/-- The name block j's parent must have in a run: NAME of the block before it, or 0 for block 1 (R178). -/
def parentIn (s : State) (run : List Link) (k : Nat) : BitVec 64 :=
  if k = 0 then 0 else match run[k - 1]? with
    | some p => (s.blk p.blk).name
    | none => 0

/-- Verifies the first open link of a run against R178: it passes, or the run ends before it. -/
def verifyOne (i k : Nat) (s : State) : State :=
  match (s.side i).lookup with
  | none => s
  | some l =>
    match l.run[k]? with
    | none => s
    | some x =>
      if tagMatches s i (k + 1) (parentIn s l.run k) (s.blk x.blk) then
        modLookup i (fun l => { l with run := modNth (fun y => { y with ok := true }) l.run k }) s
      else cutRun i k 2 (mismatch s)

/-- Arrived blocks of a run are verified in order as far as they have arrived (R178, R182). -/
def verifyArrived (i : Nat) : Nat → State → State
  | 0, s => s
  | f + 1, s =>
    match (s.side i).lookup with
    | none => s
    | some l => match firstOpen 0 l.run with
      | some (k, x) => if x.fetched && (s.blk x.blk).state == .complete then verifyArrived i f (verifyOne i k s) else s
      | none => s

/-- After a verification: arrived blocks follow, and the lookup ends when it can. -/
def afterVerify (i : Nat) (s : State) : State :=
  match (s.side i).lookup with
  | some l => tryEndLookup i (verifyArrived i l.run.length s)
  | none => s

/-- The tag read of the next resident block of a run returns and is compared (R178, R199). -/
def residentVerified (i : Nat) (s : State) : State :=
  match (s.side i).lookup with
  | none => s
  | some l => match firstOpen 0 l.run with
    | some (k, x) => if x.fetched then s else afterVerify i (verifyOne i k s)
    | none => s

/-- Seats whose lookup has linked a block. -/
def State.waitersOf (s : State) (b : Nat) : List Nat :=
  (s.led.sides.filter fun e => match e.2.lookup with
    | some l => l.run.any fun k => k.blk == b
    | none => false).map (·.1)

/-- The fetch of a block failed: every waiting seat's run ends before it, and the block is free again (R182). -/
def fetchFailed (b : Nat) (s : State) : State :=
  let ws := s.waitersOf b
  let s := setFlag F.PKV_FLAGS_FETCHFAIL (bump 0x83 s)
  let s := each (fun i s => match (s.side i).lookup with
    | some l => cutRun i (l.run.takeWhile fun k => k.blk != b).length 3 s
    | none => s) ws s
  let s := modBlk b (fun _ => Blk.empty) (clearLocal b s)
  each afterVerify ws s

/-- The trace record of a seat whose lookup waited for a block's fetch (R290). -/
def traceFetchWait (b since i : Nat) (s : State) : State :=
  match (s.side i).lookup with
  | some l => traceWait 0x0D 0 ((l.run.takeWhile fun k => k.blk != b).length + 1) i 0xFFF since 0 s
  | none => s

/-- A fetched block is in place with its tag: complete, and verified for every seat that waits for it (R181). -/
def fetchArrived (b since : Nat) (c : BlockTag) (s : State) : State :=
  let s := each (traceFetchWait b since) (s.waitersOf b) s
  let s := modBlk b (fun x => { tagBlk c x with state := .complete }) (bump 0x82 s)
  each afterVerify (s.waitersOf b) s

/-- The lookup begins when the pins are taken: probes queued by then run; a lookup that runs no scan ends at once (R181, R183).
A resumption, and a split seat whose stretch does not start at position 0, make no lookup of their own (R198). -/
def beginLookup (i : Nat) (s : State) : State :=
  let off := !s.on F.PKV_CTRL_LOOKUP || s.noHits
  if off then endLookup i [] 0 5 (dropRun i s)
  else if s.scanEnd i = 0 then endLookup i [] 0 1 (dropRun i s)
  else advance i s

/-- Hashing may start as soon as a block's tokens are present (R170). -/
def startLookup (i : Nat) (s : State) : State :=
  modSide i (fun d => { d with lookup := some ⟨0, 0, [], [], false, 0⟩ }) s

/-! The prompt store (R180, R249). -/

/-- Blocks that a range of positions touches, from 1. -/
def blocksOf (base pos n : Nat) : List Nat :=
  if n = 0 then [] else (List.range ((base + pos + n - 1) / 64 - (base + pos) / 64 + 1)).map fun k => (base + pos) / 64 + 1 + k

/-- Pages a PROMPT would newly take. -/
def State.newPages (s : State) (i n : Nat) : List Nat :=
  let d := s.side i
  (blocksOf (s.tokOff i) d.toks.length n).filter fun j => !d.pages.contains j && decide (s.blkBase i < j)

/-- Tokens a seat's prompt store takes in all: PROMPTLEN, or a stretch's length. -/
def State.tokLimit (s : State) (i : Nat) : Nat :=
  let a := s.seat i
  if a.role = 2 then (tget SplitEnt.empty s.deals.splits a.splitIdx.toNat).len else a.promptLen.toNat

/-- A PROMPT that breaks R249 ends its request with 0x7F, after the decision where none has been taken (R17). -/
def badPrompt (i : Nat) (s : State) : State := closeSeat i 0x7F s

/-- Tokens reach the prompt store and pages are taken (R180). -/
def storeToks (i : Nat) (l : List (BitVec 20)) (s : State) : State :=
  let np := s.newPages i l.length
  modSide i (fun d => { d with toks := d.toks ++ l.map (·.toNat), pages := d.pages ++ np }) s

end Sys2Proof.Machine
end

