-- ==== Sys2Proof/Machine/Spill.lean ====
section
/-! DEFINITION. Spill and fetch-back of a Paused seat (R58, R191, R192), the seat image (R36, R255), and the resumption of
paused and spilled seats (R34, R46, R57). -/
namespace Sys2Proof.Machine

/-- The code of a tail or stop length field. -/
def tailWords (l : List (BitVec 20)) : List Word :=
  let ts := l.map (·.toNat)
  let ts := List.replicate (15 - ts.length) 0 ++ ts
  (chunksOf 3 5 ts).map fun w => pack [(4, 0), (20, w.getD 0 0), (20, w.getD 1 0), (20, w.getD 2 0)]

/-- The image record of a seat: the words of R22, with the elapsed µs in W2 and the fields that R36 rebuilds as zero. -/
def imageWords (s : State) (i : Nat) : List Word :=
  let a := s.seat i
  [a.reqid,
    pack [(12, a.tenant.toNat), (3, a.cls.toNat), (4, 0), (2, a.role.toNat), (1, bit a.cancel), (1, bit a.pauseReq),
      (1, bit a.stopSeen), (1, bit a.shipped), (7, 0), (16, 0), (8, a.closeReason.toNat), (8, 0)],
    BitVec.ofNat 64 (s.sinceArrival i / 1000),
    pack [(32, a.ttftBud.toNat), (32, a.tpotBud.toNat)],
    pack [(32, a.firstTok.toNat), (32, a.lastTok.toNat)],
    pack [(24, a.promptLen.toNat), (24, a.prefilled.toNat), (16, a.chunk.toNat)],
    pack [(24, a.maxTok.toNat), (24, a.generated.toNat), (16, 0)],
    0, 0, 0,
    pack [(6, a.model.toNat), (2, 0), (16, a.adapter.toNat), (2, 0), (16, a.lprefix.toNat), (2, 0), (6, a.draftM.toNat), (2, 0),
      (1, bit a.adapterOn), (1, bit a.lprefixOn), (1, bit a.draftOn), (9, 0)],
    pack [(16, a.modelVer.toNat), (16, a.adapterVer.toNat), (16, a.lprefixVer.toNat), (16, a.draftVer.toNat)],
    a.rngKey,
    pack [(32, a.nextPos.toNat), (16, a.drawIdx.toNat), (16, 0)],
    pack [(32, a.temp.toNat), (32, a.topp.toNat)],
    pack [(32, a.minp.toNat), (32, a.thresh.toNat)],
    pack [(20, a.topk.toNat), (12, 0), (32, a.reppen.toNat)],
    pack [(32, a.freqpen.toNat), (32, a.prespen.toNat)],
    pack [(32, 0), (16, a.pctUsed.toNat), (16, 0)],
    pack [(8, a.stopMask.toNat), (32, a.stopLens.toNat), (4, a.tailLen.toNat), (20, a.endTok.toNat)]] ++
  tailWords a.tail ++
  [pack [(4, a.draftLen.toNat), (4, a.draftMax.toNat), (16, a.proposed.toNat), (16, a.accepted.toNat), (24, a.tricks.toNat)],
    0, pack [(32, a.charged.toNat), (32, 0)], 0, 0, 0, 0]

/-- A word of an image. -/
def imgW (m : Image) (n : Nat) : Nat := (m.words.getD n 0).toNat

/-- Bits hi:lo of an image word. -/
def imgF (m : Image) (n hi lo : Nat) : Nat := imgW m n / 2 ^ lo % 2 ^ (hi - lo + 1)

/-- TAIL of an image: its last TAILLEN tokens, oldest first. -/
def imgTail (m : Image) : List (BitVec 20) :=
  let ts := (List.range 5).flatMap fun k => [imgF m (20 + k) 59 40, imgF m (20 + k) 39 20, imgF m (20 + k) 19 0]
  (ts.drop (15 - imgF m 19 23 20)).map (BitVec.ofNat 20)

/-- The position after the last one whose KV is in place: NEXTPOS - 1, or the end of a follower's stretch. -/
def State.kvEnd (s : State) (i : Nat) : Nat :=
  let a := s.seat i
  if a.role = 2 then s.tokBase i + a.promptLen.toNat else a.nextPos.toNat - 1

/-- Blocks that hold the positions whose KV is in place. -/
def State.writtenBlocks (s : State) (i : Nat) : Nat := ceilDiv (s.kvEnd i - s.tokBase i) 64

/-- IMAGE_PUT of a spilling seat (R191, R255). -/
def putImage (i : Nat) (s : State) : State :=
  let a := s.seat i
  let d := s.side i
  match d.spill with
  | none => s
  | some m =>
    let t := newTag (.imagePut i a.gen.toNat) s
    let s := t.2
    let ents := m.entries.flatMap fun e =>
      [e.key.extractLsb' 64 64, e.key.extractLsb' 0 64, e.name, pack [(32, e.handle.toNat), (18, e.depth.toNat), (14, 0)]]
    let pct := d.pct.map fun e => pack [(20, e.1), (24, e.2), (20, 0)]
    let stop := ((List.range 8).flatMap fun k =>
      slotWords 8 ((d.stops.getD k []) ++ List.replicate (16 - (d.stops.getD k []).length) 0))
    let pay := imageWords s i ++ ents ++ pct ++ stop
    sendMsg (mkMsg .C 0 0x36 [(44, 0)]
      [payWord (8 * pay.length) t.1, pack [(16, i), (16, a.gen.toNat), (18, m.entries.length), (14, 0)]]
      (beatsOf (8 * pay.length)) pay) 0 s

/-- A spill goes on: when every block is acknowledged, the image is put (R191). -/
def spillStep (i : Nat) (s : State) : State :=
  match (s.side i).spill with
  | some m => if m.puts = [] then putImage i s else s
  | none => s

/-- Port C can carry a put or a fetch. -/
def State.poolUp (s : State) : Bool := s.live .C 0 && s.portOpen .C

/-- A spill fails: the seat stays Paused and SPILLFAIL is set (R191). -/
def spillFail (i : Nat) (s : State) : State :=
  modSide i (fun d => { d with spill := none }) (setFlag F.PKV_FLAGS_SPILLFAIL (bump 0x8B s))

/-- Firmware's spill order (R58, R191): blocks past the last position written are released, blocks the pool holds are recorded
by handle, the others are put. -/
def orderSpill (i : Nat) (s : State) : State :=
  let a := s.seat i
  if a.state ≠ .paused ∨ (s.side i).spill.isSome then s
  else if !s.poolUp then spillFail i s
  else
    let s := cutChain i (s.writtenBlocks i) s
    let l := s.chain i
    let s := (each (fun b (p : Nat × State) =>
      let x := p.2.blk b
      (p.1 + 1, if x.state = .complete then p.2
        else modBlk b (fun y => { y with toks := p.2.blockToks i (p.1 + 1 + p.2.blkBase i) (p.2.kvEnd i)
                                         ctx := (p.2.side i).ctx, depth := p.1 + 1 + p.2.blkBase i }) p.2)) l (0, s)).2
    let ents := l.map fun b =>
      let x := s.blk b
      ImgBlock.mk (x.hash ^^^ x.ctx) x.name (BitVec.ofNat 32 x.handle) (BitVec.ofNat 18 x.depth)
    let owed := l.filter fun b => !((s.blk b).pool)
    let s := modSide i (fun d => { d with spill := some ⟨owed, ents, false⟩ }) s
    spillStep i (each (fun b s => putBlock (.putSpill i a.gen.toNat b) b s) owed s)

/-! Spill orders (R58). -/

/-- A Paused seat is ordered spilled: paused for SPILLAFTER deals, or free blocks are below the low mark. -/
def spillOne (epoch i : Nat) (s : State) : State :=
  let a := s.seat i
  if a.state = .paused ∧ (s.side i).spill.isNone ∧
      (a.pauseEpoch.toNat + s.fld F.ADM_TUNE_SPILLAFTER ≤ epoch ∨ s.lowFree = true) then orderSpill i s
  else s

/-- Spill orders of a boundary, the oldest PAUSEEPOCH first. -/
def spillOrders (epoch : Nat) (s : State) : State := each (spillOne epoch) (s.pauseOrder (s.seatsIn [.paused])) s

/-- Free and cached blocks fall below the low mark: Paused seats are ordered spilled (R58), whether or not a deal runs. -/
def lowStep (s : State) : State :=
  let low := s.lowFree
  let due := low && !s.kv.low && s.mainOn && s.pwr.state != 5
  let s := modKv (fun k => { k with low := low }) s
  if due then spillOrders s.deals.lastDone s else s

/-! Fetch-back (R192). -/

/-- Every block of a fetch-back is in place: tokens, count table and tail are as before the spill, the image is dropped, and
the seat enters Paused, then Ready when the resume order stands (R34, R192). -/
def backDone (i : Nat) (s : State) : State :=
  let a := s.seat i
  let l := s.chain i
  let toks := l.flatMap fun b => (s.blk b).toks
  let all := (toks.take (s.kvEnd i - s.tokBase i)) ++ (a.tail.getLast?.map (·.toNat)).toList
  let s := dropImage a.spillHandle.toNat s
  let here := s.tokBase i - s.tokOff i
  let n := a.promptLen.toNat - here
  let s := modSide i (fun d => { d with
    back := none, image := none, toks := List.replicate here 0 ++ all.take n, emitted := all.drop n }) s
  let s := bump 0x0F (modSeat i (fun a => { a with state := .paused, spillHandle := 0xFFFFFFFF }) s)
  modSeat i (fun a => { a with state := .ready, pauseReq := false, scratch0 := a.scratch0 &&& 0xFFFFFFFFFFFFFFFC })
    (bump 0x0D s)

/-- Fetch-back ends when nothing is owed. -/
def tryBackDone (i : Nat) (s : State) : State :=
  match (s.side i).back with
  | some m => if m.puts = [] then backDone i s else s
  | none => s

/-- One listed block of a fetch-back: the resident block of that name is linked into the chain, else a block is allocated for its handle,
which is asked for as DEPTH allows; without a block it fails (R192, R202). -/
def backBlock (i : Nat) (e : ImgBlock) (p : Bool × State) : Bool × State :=
  let s := p.2
  if !p.1 then p
  else
    let hit := match s.idxFind e.key with
      | some n =>
        let x := s.idx n
        let y := s.blk x.localBlk
        if x.loc && y.name == e.name && y.state == BlkState.complete then some x.localBlk else none
      | none => none
    match hit with
    | some b =>
      let a := s.seat i
      let s := modBlk b (fun x => { x with
        refs := x.refs + 1, stamp := s.stampNow, prev := if a.kvBlocks = 0 then none else some a.kvTail.toNat }) s
      (true, appendBlock i b s)
    | none => match newBlock i .fetching s with
      | none => (false, s)
      | some (b, s) =>
        let s := modBlk b (fun x => { x with name := e.name, depth := e.depth.toNat, handle := e.handle.toNat }) s
        let s := modSide i (fun d => { d with back := d.back.map fun m => { m with puts := m.puts ++ [b] } }) s
        (true, appendBlock i b s)

/-- The listed blocks of a held image are taken in order (R192). -/
def startBack (i : Nat) (m : Image) (s : State) : State :=
  let s := modSide i (fun d => { d with back := some ⟨[], m.blocks, true⟩, image := some m }) s
  let r := each (backBlock i) m.blocks (true, s)
  if r.1 then tryBackDone i r.2 else closeSeat i 0x31 (setFlag F.PKV_FLAGS_ALLOCSHORT (bump 0x8E r.2))

/-- Firmware's resume order for a Spilled seat (R192). -/
def orderBack (i : Nat) (s : State) : State :=
  let d := s.side i
  let a := s.seat i
  if d.back.isSome then s
  else match d.image with
    | some m => startBack i m s
    | none =>
      if !s.poolUp then closeSeat i 0x31 (setFlag F.PKV_FLAGS_FETCHFAIL (bump 0x83 s))
      else
        fetchHandle 0x37 (.imageBack i a.gen.toNat a.spillHandle.toNat) a.spillHandle.toNat
          (modSide i (fun d => { d with back := some ⟨[], [], true⟩ }) s)

/-- A resume order (R34, R46, R57, R192, R200): Paused becomes Ready, a spill in progress completes first, a Spilled seat is
fetched back. -/
def resumeSeat (i : Nat) (s : State) : State :=
  let a := s.seat i
  match a.state with
  | .paused =>
    match (s.side i).spill with
    | some _ => modSide i (fun d => { d with spill := d.spill.map fun m => { m with resumeAfter := true } }) s
    | none =>
      tellFollowers 0x74 i (modSeat i (fun a => { a with
        state := .ready, pauseReq := false, scratch0 := a.scratch0 &&& 0xFFFFFFFFFFFFFFFC }) (bump 0x0D s))
  | .spilled => orderBack i s
  | .prefilling | .opening | .routed | .ready | .dealt =>
    modSeat i (fun a => { a with pauseReq := false, scratch0 := a.scratch0 &&& 0xFFFFFFFFFFFFFFFC }) s
  | _ => s

/-- A pause reason is cleared; the seat resumes when none is left (R46). -/
def clearPause (i : Nat) (why : BitVec 64) (s : State) : State :=
  let s := modSeat i (fun a => { a with scratch0 := a.scratch0 &&& ~~~why }) s
  if (s.seat i).scratch0 &&& 3 = 0 then resumeSeat i s else s

/-! Answers of the pool to puts and images (R191, R195, R255). -/

/-- PUT_ACK of a block: POOL and the handle in the record and in its index entry (R195). -/
def ackBlock (b handle : Nat) (s : State) : State :=
  let x := s.blk b
  let s := modBlk b (fun x => { x with putting := false, pool := x.state == .complete || x.pool
                                       handle := if x.state = .complete then handle else x.handle }) s
  let s := if x.indexed ∧ x.state = .complete then setIdx x.idx { s.idx x.idx with pool := true, handle := handle } s else s
  if x.refs = 0 ∧ x.state ≠ .complete then modBlk b (fun _ => Blk.empty) s else s

/-- A put declined or unanswered: the block is no longer PUTTING. -/
def declineBlock (b : Nat) (s : State) : State :=
  let x := s.blk b
  if x.refs = 0 ∧ x.state ≠ .complete then modBlk b (fun _ => Blk.empty) s
  else modBlk b (fun x => { x with putting := false }) s

/-- A spilling seat's block is acknowledged: its entry takes the handle (R191). -/
def spillAck (i b handle : Nat) (s : State) : State :=
  match (s.side i).spill with
  | some _ =>
    let k := ((s.chain i).takeWhile fun x => x != b).length
    spillStep i (modSide i (fun d => { d with spill := d.spill.map fun m => { m with
      puts := m.puts.filter (· != b)
      entries := modNth (fun e => { e with handle := BitVec.ofNat 32 handle }) m.entries k } }) s)
  | none => s

/-- The image is acknowledged: references drop, the seat enters Spilled, SPILLED goes to the gateway (R191, R250). A follower seat,
which has no stream to a gateway, sends none (log entry 58). -/
def spillDone (i handle : Nat) (s : State) : State :=
  let m := (s.side i).spill
  let s := dropChain i s
  let s := modSeat i (fun a => { a with state := .spilled, spillHandle := BitVec.ofNat 32 handle }) s
  let s := bump 0x8A (bump 0x0E (modSide i (fun d => { d with spill := none, image := none }) s))
  let s := if (s.seat i).role = 2 then s else
    sendFor (mkMsg .G 0 0x17 [(44, 0)] [(s.seat i).reqid, pack [(32, handle), (16, s.nodeId), (16, 0)]] 0 []) 1 i 3 0 s
  match m with
  | some m => if m.resumeAfter then resumeSeat i s else s
  | none => s

/-- The seats whose unsent shipment waits for a block to reach the pool. -/
def State.shipsOn (s : State) (b : Nat) : List Nat :=
  (s.seatsIn [.routed]).filter fun i => match (s.side i).ship with
    | some h => !h.sent && (s.hitRun i).contains b
    | none => false

/-- A block whose publishing the pool has declined is put again for the shipment that waits for it (R193). -/
def putAgain (b : Nat) (s : State) : State := match s.shipsOn b with
  | i :: _ => putBlock (.putShip i (s.seat i).gen.toNat b) b s
  | [] => s

/-- A put is answered: PUT_ACK with a handle, or none for a decline (R191, R193, R195). -/
def putAnswered (tag : Nat) (handle : Option Nat) (s : State) : State :=
  match s.tagUse tag with
  | some (.putPublish b) => match handle with
    | some h => ackBlock b h (endTag tag s)
    | none => putAgain b (declineBlock b (endTag tag s))
  | some (.putShip _ _ b) => match handle with
    | some h => ackBlock b h (endTag tag s)
    | none => let s := declineBlock b (endTag tag s); each shipFail (s.shipsOn b) s
  | some (.putSpill i g b) => match handle with
    | some h => let s := ackBlock b h (endTag tag s); if s.current i g then spillAck i b h s else s
    | none =>
      let s := declineBlock b (endTag tag s)
      if s.current i g ∧ (s.side i).spill.isSome then spillFail i s else s
  | some (.imagePut i g) => match handle with
    | some h =>
      let s := endTag tag s
      if s.current i g ∧ (s.side i).spill.isSome ∧ (s.seat i).state = .paused then spillDone i h s else dropImage h s
    | none =>
      let s := endTag tag s
      if s.current i g ∧ (s.side i).spill.isSome then spillFail i s else s
  | _ => s

/-- A fetch-back's block arrives: NAME, DEPTH and CTX must match (R192). A tail that is not all written stays Filling (R177). -/
def backArrived (i g b : Nat) (c : BlockTag) (s : State) : State :=
  if !(s.current i g) ∨ (s.side i).back.isNone then modBlk b (fun _ => Blk.empty) s
  else
    let x := s.blk b
    if c.name ≠ x.name ∨ c.depth.toNat ≠ x.depth ∨ c.ctx ≠ (s.side i).ctx then
      modBlk b (fun _ => Blk.empty) (closeSeat i 0x31 (mismatch s))
    else
      let full := decide (64 * x.depth ≤ s.kvEnd i)
      let s := modBlk b (fun x => { tagBlk c x with state := if full then .complete else .filling, pool := full }) (bump 0x82 s)
      tryBackDone i (modSide i (fun d => { d with back := d.back.map fun m => { m with puts := m.puts.filter (· != b) } }) s)

/-- A fetch-back's block or image fails: the seat closes with 0x31 (R192). -/
def backFailed (i g : Nat) (b : Option Nat) (s : State) : State :=
  let s := setFlag F.PKV_FLAGS_FETCHFAIL (bump 0x83 s)
  let s := if s.current i g ∧ (s.side i).back.isSome then closeSeat i 0x31 s else s
  match b with
  | some b => modBlk b (fun _ => Blk.empty) s
  | none => s

end Sys2Proof.Machine
end

