-- ==== Sys2Proof/Machine/Admission.lean ====
section
/-! DEFINITION. OPEN and the admission decision (R21, R44, R50 to R53, R56, R326), PROMPT (R249) and CANCEL (R17, R29), the
split seat's opening at the lead and at a follower (R18, R198, R256). -/
namespace Sys2Proof.Machine

/-- Retry-after that tells the gateway not to retry (R53). -/
def noRetry : Nat := 0xFFFFFFFF

/-- A retry-after saturates at 0xFFFF_FFFE (R53). -/
def retrySat (v : Nat) : Nat := sat 0xFFFFFFFE v

/-- Retry-after of a refusal code for a seat (R51, R53). DESIGN CHOICE: the time to the next window edge is rounded down to whole µs,
the prediction's up (log entry 63). -/
def State.retryAfter (s : State) (i code : Nat) : Nat :=
  let a := s.seat i
  let t := s.tenant a.tenant.toNat
  match code with
  | 0x01 | 0x04 | 0x05 => retrySat (100 * s.fld F.ADM_RETRY_NOSEAT)
  | 0x0D | 0x07 => retrySat (100 * s.fld F.ADM_RETRY_MODELRETRY)
  | 0x02 =>
    let c := s.admitCost i
    let win := 1000 * s.fld F.ADM_WINDOW_WINLEN
    if t.cap.toNat < c ∨ t.refill = 0 then noRetry
    else
      let short := ((c : Int) - t.lvl).toNat
      retrySat ((s.nextEdge - s.now) / 1000 + (ceilDiv short t.refill.toNat - 1) * (win / 1000))
  | 0x03 => retrySat (max (100 * s.fld F.ADM_RETRY_RETRYMIN) (ceilDiv (s.fld F.ADM_RETRY_PREDMULT * s.stepNext) 1000))
  | _ => noRetry

/-- REFUSE is sent; the seat returns to Free when it leaves (R14, R53, R250). -/
def refuse (i code : Nat) (s : State) : State :=
  let m := mkMsg .G 0 0x13 [(8, code), (36, 0)] [(s.seat i).reqid, pack [(32, s.retryAfter i code), (32, 0)]] 0 []
  sendFor m 0 i 5 0 (modSide i (fun d => { d with phase := .refused }) (bump (0x2F + code) (bump 0x02 s)))

/-! The tests of R51. -/

/-- A binary32 datum that is NaN or below zero. -/
def badParam (b : BitVec 32) : Bool :=
  match f32 b.toNat with
  | .nan => true
  | .inf neg => neg
  | .fin v => decide (v.m < 0)

/-- A binary32 datum above 1.0. -/
def above1 (b : BitVec 32) : Bool :=
  match f32 b.toNat with
  | .inf neg => !neg
  | .fin v => (Dy.ofInt 1).lt v
  | .nan => false

/-- Test 4: outside limits (0x0A). -/
def State.outside (s : State) (i nstop : Nat) : Bool :=
  let a := s.seat i
  let lim := if (s.side i).kind = 2 then 8388608 else 1048576
  a.promptLen == 0 || decide (lim < a.promptLen.toNat) || decide (8 < nstop) || (s.side i).stops.any (fun l => decide (16 < l.length))
    || decide (8 < a.draftMax.toNat) || badParam a.temp || badParam a.topp || badParam a.minp || above1 a.topp

/-- A model version can be admitted: current slot, READY, not POISONED, and class H where asked (R51, R203). -/
def State.modelOk (s : State) (m : Nat) (hot : Bool) : Bool :=
  match s.modelCur m with
  | some v => (s.model m v).ready && !(s.model m v).poisoned && (!hot || (s.model m v).f.cls == 1)
  | none => false

/-- A named adapter or learned prefix can be pinned with the current main model (R188). -/
def State.objOk (s : State) (kind id m : Nat) : Bool :=
  match s.objCur kind id, s.modelCur m with
  | some v, some mv =>
    let o := s.obj kind id v
    o.model == m && o.modelVer == (s.model m mv).f.version.toNat
  | _, _ => false

/-- Test 7 for a new admission (0x07). -/
def State.modelsOk (s : State) (i : Nat) : Bool :=
  let a := s.seat i
  s.modelOk a.model.toNat false && (!a.draftOn || s.modelOk a.draftM.toNat true) &&
    (!a.adapterOn || s.objOk 0 a.adapter.toNat a.model.toNat) && (!a.lprefixOn || s.objOk 1 a.lprefix.toNat a.model.toNat)

/-- Test 9: every version a resumption or a follower names is live here (R36, R45). -/
def State.versLive (s : State) (i : Nat) : Bool :=
  let a := s.seat i
  (s.modelVer a.model.toNat a.modelVer.toNat).isSome &&
    (!a.adapterOn || (s.objVer 0 a.adapter.toNat a.adapterVer.toNat).isSome) &&
    (!a.lprefixOn || (s.objVer 1 a.lprefix.toNat a.lprefixVer.toNat).isSome) &&
    (!a.draftOn || (s.modelVer a.draftM.toNat a.draftVer.toNat).isSome)

/-- Rows freed by pausing every Ready and Dealt seat of the PAUSABLE classes less urgent than class `c` (R56). -/
def State.pausableRows (s : State) (c : Nat) : Nat :=
  sumOf (s.led.seats.map fun e =>
    if c < e.2.cls.toNat ∧ s.on (F.ADM_CLASS_POLICY_PAUSABLE e.2.cls.toNat) = true then e.2.nextRows else 0)

/-- Test 13: the prediction refuses (R56). DESIGN CHOICE: a class that is above its budget already counts as raised above it (log
entry 51). -/
def State.predRefuses (s : State) (i : Nat) : Bool :=
  let a := s.seat i
  let c := a.cls.toNat
  let u := s.uest i
  let ttft := if s.wouldShip i u then s.ttftShip i u else s.ttftLocal i u
  let rows := s.rowsNext + 1 + a.draftLen.toNat
  let ch := min s.chunkBudget s.chunkSum
  let late := fun st => (List.range (c + 1)).filter fun k => decide (0 < (s.cls k).live) && s.tpotOver st k 1 1
  s.on F.ADM_CTRL_PREDEN && !s.est.cold &&
    (decide (1000 * a.ttftBud.toNat < ttft) ||
      (late (s.stepFor rows ch)).any fun k => s.tpotOver (s.stepFor (rows - s.pausableRows c) ch) k 1 1)

/-- A split-seat OPEN names its members in stretch order, tiling the context from 0, with the lead last (R248). -/
def tiles : Nat → List Member → Nat → Bool
  | pos, [], n => pos == n
  | pos, m :: r, n => m.start.toNat == pos && decide (0 < m.len.toNat ∧ m.len.toNat ≤ 1048576) && tiles (pos + m.len.toNat) r n

/-- The first test of orders 3 to 11 that fails, by code (R51); a resumption made test 3 before its image was fetched (R52), and
pins by version number, so test 7 is its test 9 (R188). -/
def State.firstRefusal (s : State) (i nstop : Nat) : Option Nat :=
  let a := s.seat i
  let d := s.side i
  let ns := d.members.map (·.node.toNat)
  if d.kind ≠ 1 ∧ !s.on F.ADM_CTRL_OPEN then some 0x0D
  else if s.outside i nstop then some 0x0A
  else if d.kind = 2 ∧ ns.any (fun n => decide (n < s.nodeId)) then some 0x0B
  else if s.bedrock ∧ (a.cls ≠ 0 ∨ d.kind = 2) then some 0x0C
  else if d.kind ≠ 1 ∧ !s.modelsOk i then some 0x07
  else if !(s.tenant a.tenant.toNat).classMask.getLsbD a.cls.toNat then some 0x06
  else if d.kind = 1 ∧ !s.versLive i then some 0x09
  else if s.fld (F.ADM_CLASS_LIMIT_MAXSEATS a.cls.toNat) ≤ (s.cls a.cls.toNat).live then some 0x04
  else if (s.tenant a.tenant.toNat).maxSeats ≠ 0 ∧
      (s.tenant a.tenant.toNat).maxSeats.toNat ≤ (s.tenant a.tenant.toNat).liveSeats.toNat then some 0x05
  else none

/-- Version slots and numbers of the versions that are current now (R33). -/
def pinCurrent (i : Nat) (s : State) : State :=
  modSeat i (fun a =>
    let mv := (s.modelCur a.model.toNat).getD 0
    let av := (s.objCur 0 a.adapter.toNat).getD 0
    let lv := (s.objCur 1 a.lprefix.toNat).getD 0
    let dv := (s.modelCur a.draftM.toNat).getD 0
    { a with
      modelVs := BitVec.ofNat 2 mv, modelVer := (s.model a.model.toNat mv).f.version
      adapterVs := if a.adapterOn then BitVec.ofNat 2 av else 0
      adapterVer := if a.adapterOn then BitVec.ofNat 16 (s.obj 0 a.adapter.toNat av).version else 0
      lprefixVs := if a.lprefixOn then BitVec.ofNat 2 lv else 0
      lprefixVer := if a.lprefixOn then BitVec.ofNat 16 (s.obj 1 a.lprefix.toNat lv).version else 0
      draftVs := if a.draftOn then BitVec.ofNat 2 dv else 0
      draftVer := if a.draftOn then (s.model a.draftM.toNat dv).f.version else 0 }) s

/-- Version slots of the numbers a resumption or a follower carries (R188, R208). -/
def pinByVersion (i : Nat) (s : State) : State :=
  modSeat i (fun a => { a with
    modelVs := BitVec.ofNat 2 ((s.modelVer a.model.toNat a.modelVer.toNat).getD 0)
    adapterVs := if a.adapterOn then BitVec.ofNat 2 ((s.objVer 0 a.adapter.toNat a.adapterVer.toNat).getD 0) else 0
    lprefixVs := if a.lprefixOn then BitVec.ofNat 2 ((s.objVer 1 a.lprefix.toNat a.lprefixVer.toNat).getD 0) else 0
    draftVs := if a.draftOn then BitVec.ofNat 2 ((s.modelVer a.draftM.toNat a.draftVer.toNat).getD 0) else 0 }) s

/-- ENDTOK, NEXTPOS, budgets, RNGKEY and the draft fields of a new admission (R23, R47, R155, R326). CHUNK 0 is the class
default. -/
def admitFields (i : Nat) (rseed : BitVec 32) (s : State) : State :=
  modSeat i (fun a =>
    let dm := if a.draftOn then a.draftMax else 0
    { a with
      endTok := (s.model a.model.toNat a.modelVs.toNat).f.endTok
      nextPos := a.promptLen.setWidth 32
      ttftBud := BitVec.ofNat 32 (s.fld (F.ADM_CLASS_TIME_TTFT a.cls.toNat))
      tpotBud := BitVec.ofNat 32 (s.fld (F.ADM_CLASS_TIME_TPOT a.cls.toNat))
      rngKey := (s.tenant a.tenant.toNat).tseed ++ rseed
      draftMax := dm, draftLen := dm, proposed := 0, accepted := 0, tricks := 0 }) s

/-- ADMIT with the seat and the pinned version numbers (R250). -/
def sendAdmit (i : Nat) (s : State) : State :=
  let a := s.seat i
  sendFor (mkMsg .G 0 0x12 [(44, 0)]
    [a.reqid, pack [(16, i), (16, a.gen.toNat), (32, 0)],
      pack [(16, a.modelVer.toNat), (16, if a.adapterOn then a.adapterVer.toNat else 0),
        (16, if a.lprefixOn then a.lprefixVer.toNat else 0), (16, if a.draftOn then a.draftVer.toNat else 0)]] 0 [])
    0 i 4 0 (bump 0x01 s)

/-- The admission is committed: pins, LIVE and LIVESEATS, the context, ADMIT (R33, R51, R169). -/
def commitAdmit (i : Nat) (s : State) : State :=
  let a := s.seat i
  let s := formContext i (takePins i s)
  let s := modTenant a.tenant.toNat (fun t => { t with liveSeats := t.liveSeats + 1 })
    (modCls a.cls.toNat (fun c => { c with live := c.live + 1 }) s)
  let r := s.res i
  sendAdmit i (modSide i (fun d => { d with phase := .admitted, res := r }) s)

/-! The lead of a split seat (R18, R198, R256). -/

/-- The lowest split-table entry not in use. -/
def State.freeSplit (s : State) : Option Nat := firstFree (fun k => s.deals.splits.any fun e => e.1 == k) 1024 0

/-- SPLIT_OPEN from the lead to one follower; its stretch is filled through the prompt pool (R256). -/
def sendSplitOpen (i : Nat) (ms : List Member) (self : Nat) (p : Bool × State) : Bool × State :=
  let s := p.2
  match ms[self]? with
  | none => p
  | some m =>
    match s.peerOf m.node.toNat with
    | none => (false, s)
    | some peer =>
      let a := s.seat i
      let t := s.kv.nextTag % 2 ^ 24
      let s := modKv (fun k => { k with nextTag := (t + 1) % 2 ^ 24 }) s
      (p.1, sendN peer 0x70 0 [(44, 0)]
        ([payWord 0 t, pack [(16, i), (16, a.gen.toNat), (5, self), (5, ms.length - 1), (1, 1), (21, 0)],
          pack [(24, m.start.toNat), (22, m.len.toNat), (18, 0)], pack [(12, a.tenant.toNat), (3, a.cls.toNat), (49, 0)],
          pack [(6, a.model.toNat), (16, a.adapter.toNat), (16, a.lprefix.toNat), (1, bit a.adapterOn), (1, bit a.lprefixOn),
            (24, 0)],
          pack [(16, a.modelVer.toNat), (16, a.adapterVer.toNat), (16, a.lprefixVer.toNat), (16, 0)], roundKey a.rngKey] ++
          ms.map fun x => pack [(16, x.node.toNat), (48, 0)]) 0 [] s)

/-- The lead opens its entry of the split-seat table and its followers; a peer that cannot be reached closes the seat with
0x40 (R45, R106). -/
def openSplit (i : Nat) (s : State) : State :=
  let ms := (s.side i).members
  let a := s.seat i
  match s.freeSplit, ms.getLast? with
  | some k, some own =>
    let e : SplitEnt := ⟨s.nodeId, ms.length - 1, ms.length - 1, 0, 0, own.start.toNat, own.len.toNat, 0,
      (ms.dropLast.map fun m => (m.node.toNat, 0, 0)) ++ [(s.nodeId, i, a.gen.toNat)], [ms.length - 1], []⟩
    let s := modDeals (fun d => { d with splits := tins d.splits k e }) s
    let s := modSeat i (fun a => { a with role := 1, splitIdx := BitVec.ofNat 16 k, prefilled := own.start }) s
    let r := each (sendSplitOpen i ms) (List.range (ms.length - 1)) (true, s)
    if r.1 then modSide i (fun d => { d with splitReady := List.range (ms.length - 1) }) r.2
    else closeSeat i 0x40 r.2
  | _, _ => closeSeat i 0x7F s

/-- Every follower has answered the lead: d of member 0 is the H of R44, and the lead's own stretch is routed as R59 routes a prompt
(R198). -/
def endSplitLookup (i : Nat) (s : State) : State :=
  let a := s.seat i
  let t := s.tenant a.tenant.toNat
  let h := (s.side i).hits
  let s := modSide i (fun x => { x with lookupDone := true }) s
  let s := debit i (h * ((t.wCached.toNat : Int) - t.wPrompt.toNat)) s
  let s := updHitFrac i h s
  let own := a.promptLen.toNat - s.tokBase i
  if (s.seat i).state ≠ .opening then s
  else if s.wouldShip i own ∧ 0 < s.shipLen i then shipSeat i s
  else routeLocal i s

/-! The decision. -/

/-- What follows an admission: a close that waited for the decision (R17), a resumption's fetch-back (R52, R192), a split
seat's opening, or the prefix lookup (R181). What becomes of a seat whose OPEN broke a "must" of R248 or R310 is undefined within
the seat (R309): a free value says whether it goes on as its OPEN reads or closes with 0x7F (log entry 52). -/
def afterAdmit (i : Nat) (s : State) : State :=
  let d := s.side i
  let f := if d.misuse then takeFree s else (0, s)
  let s := f.2
  if (s.seat i).cancel then closeSeat i 0x10 s
  else if d.closeAfter ≠ 0 then closeSeat i d.closeAfter s
  else if f.1 % 2 = 1 then closeSeat i 0x7F s
  else match d.kind with
    | 1 => resumeSeat i (bump 0x3F (modSeat i (fun a => { a with state := .spilled }) s))
    | 2 => openSplit i s
    | _ => beginLookup i s

/-- The decision of R51 from order 3 on: the first test that fails refuses; otherwise the pot is debited, the prediction asked
and the pins taken. In Bedrock mode DRAFTON is clear and DRAFTMAX 0 (R271). -/
def decideOpen (i nstop : Nat) (rseed : BitVec 32) (s : State) : State :=
  let s := returnOpenCredit s
  let s := if s.bedrock then modSeat i (fun a => { a with draftOn := false, draftMax := 0, draftLen := 0 }) s else s
  match s.firstRefusal i nstop with
  | some c => refuse i c s
  | none =>
    let s := if (s.side i).kind = 1 then pinByVersion i s
      else admitFields i rseed (pinCurrent i s)
    let cost := s.admitCost i
    if (s.tenant (s.seat i).tenant.toNat).lvl < cost then refuse i 0x02 s
    else
      let s := debit i cost s
      if s.predRefuses i then refuse i 0x03 (debit i (-(cost : Int)) s)
      else afterAdmit i (commitAdmit i s)

/-! OPEN. -/

/-- The ledger copies the OPEN's fields into a seat (R22, R248). -/
def openFields (m : OpenMsg) (a : Seat) : Seat :=
  { a with
    reqid := m.reqid, tenant := m.tenant, cls := m.cls, promptLen := m.promptLen, maxTok := m.maxTok
    model := m.model, adapter := m.adapter, lprefix := m.lprefix, draftM := m.draftM
    adapterOn := m.adapterOn, lprefixOn := m.lprefixOn, draftOn := m.draftOn, draftMax := m.draftMax
    temp := m.temp, topp := m.topp, minp := m.minp, thresh := m.thresh, topk := m.topk
    reppen := m.reppen, freqpen := m.freqpen, prespen := m.prespen
    stopMask := BitVec.ofNat 8 (2 ^ (min m.stops.length 8) - 1)
    stopLens := BitVec.ofNat 32 (sumOf ((List.range 8).map fun k => ((m.stops.getD k []).length - 1) * 16 ^ k)) }

/-- The fields of a resumption that the seat takes before its image arrives (R248). -/
def resumeFields (m : OpenMsg) (a : Seat) : Seat :=
  { a with reqid := m.reqid, tenant := m.tenant, cls := m.cls, spillHandle := m.spillHandle }

/-- A resumption's image fetch fails: an IMAGE_FETCH that still waits goes, and the OPEN is refused with 0x09 (R52). -/
def imageLost (i : Nat) (s : State) : State :=
  let g := (s.seat i).gen.toNat
  refuse i 0x09 (returnOpenCredit (modPorts (fun p => { p with
    queue := p.queue.filter fun q => !(q.kind == 7 && q.seat == i && q.gen == g) }) s))

/-- IMAGE_FETCH for a resumption that passed tests 1 to 3; its OPEN credit returns when it has left (R52). -/
def awaitImage (i : Nat) (s : State) : State :=
  let a := s.seat i
  let h := a.spillHandle.toNat
  if !s.on F.ADM_CTRL_OPEN then refuse i 0x0D (returnOpenCredit s)
  else if !s.poolUp then imageLost i s
  else
    let t := newTag (.imageOpen i a.gen.toNat h) (modSide i (fun d => { d with phase := .awaitImage }) s)
    sendFor (mkMsg .C 0 0x37 [(44, 0)] [handleTag h t.1] 0 []) 1 i 7 0 t.2

/-- The fields of a seat that an image carries; ARRIVAL is the local counter less the carried elapsed time (R36). -/
def imageFields (m : Image) (now : BitVec 64) (a : Seat) : Seat :=
  { a with
    cancel := a.cancel || imgF m 1 42 42 == 1, pauseReq := imgF m 1 41 41 = 1, stopSeen := imgF m 1 40 40 = 1, shipped := imgF m 1 39 39 = 1
    ttftBud := BitVec.ofNat 32 (imgF m 3 63 32), tpotBud := BitVec.ofNat 32 (imgF m 3 31 0)
    arrival := now - BitVec.ofNat 64 (1000 * imgW m 2)
    firstTok := BitVec.ofNat 32 (imgF m 4 63 32), lastTok := BitVec.ofNat 32 (imgF m 4 31 0)
    promptLen := BitVec.ofNat 24 (imgF m 5 63 40), prefilled := BitVec.ofNat 24 (imgF m 5 39 16)
    chunk := BitVec.ofNat 16 (imgF m 5 15 0)
    maxTok := BitVec.ofNat 24 (imgF m 6 63 40), generated := BitVec.ofNat 24 (imgF m 6 39 16)
    model := BitVec.ofNat 6 (imgF m 10 63 58), adapter := BitVec.ofNat 16 (imgF m 10 55 40)
    lprefix := BitVec.ofNat 16 (imgF m 10 37 22), draftM := BitVec.ofNat 6 (imgF m 10 19 14)
    adapterOn := imgF m 10 11 11 = 1, lprefixOn := imgF m 10 10 10 = 1, draftOn := imgF m 10 9 9 = 1
    modelVer := BitVec.ofNat 16 (imgF m 11 63 48), adapterVer := BitVec.ofNat 16 (imgF m 11 47 32)
    lprefixVer := BitVec.ofNat 16 (imgF m 11 31 16), draftVer := BitVec.ofNat 16 (imgF m 11 15 0)
    rngKey := BitVec.ofNat 64 (imgW m 12)
    nextPos := BitVec.ofNat 32 (imgF m 13 63 32), drawIdx := BitVec.ofNat 16 (imgF m 13 31 16)
    temp := BitVec.ofNat 32 (imgF m 14 63 32), topp := BitVec.ofNat 32 (imgF m 14 31 0)
    minp := BitVec.ofNat 32 (imgF m 15 63 32), thresh := BitVec.ofNat 32 (imgF m 15 31 0)
    topk := BitVec.ofNat 20 (imgF m 16 63 44), reppen := BitVec.ofNat 32 (imgF m 16 31 0)
    freqpen := BitVec.ofNat 32 (imgF m 17 63 32), prespen := BitVec.ofNat 32 (imgF m 17 31 0)
    pctUsed := BitVec.ofNat 16 (imgF m 18 31 16)
    stopMask := BitVec.ofNat 8 (imgF m 19 63 56), stopLens := BitVec.ofNat 32 (imgF m 19 55 24)
    tailLen := BitVec.ofNat 4 (imgF m 19 23 20), endTok := BitVec.ofNat 20 (imgF m 19 19 0), tail := imgTail m
    draftLen := BitVec.ofNat 4 (imgF m 25 63 60), draftMax := BitVec.ofNat 4 (imgF m 25 59 56)
    proposed := BitVec.ofNat 16 (imgF m 25 55 40), accepted := BitVec.ofNat 16 (imgF m 25 39 24)
    tricks := BitVec.ofNat 24 (imgF m 25 23 0)
    charged := BitVec.ofNat 32 (imgF m 27 63 32) }

/-- The image of a resumption has arrived: the decision runs with its values (R36, R52, R248). -/
def imageArrived (i : Nat) (m : Image) (s : State) : State :=
  let a := s.seat i
  if imgF m 1 63 52 ≠ a.tenant.toNat ∨ imgF m 1 51 49 ≠ a.cls.toNat then refuse i 0x0A s
  else
    let s := modSeat i (imageFields m s.counter) s
    let s := modSide i (fun d => { d with
      phase := .undecided, image := some m, base := imgF m 27 63 32, gen0 := imgF m 6 39 16, pct := m.pct.map fun e => (e.1.toNat, e.2.toNat)
      stops := m.stops.map fun l => l.map (·.toNat) }) s
    decideOpen i 0 0 s

/-- The OPEN breaks a "must" of R248: a resumption with stops or members; a split seat whose stretches do not tile the context, or
whose lead is not its last member. -/
def openMisuse (s : State) (m : OpenMsg) : Bool :=
  (m.kind == 1 && (m.nstop != 0 || m.lastMember != 0)) ||
  (m.kind == 2 && (!(tiles 0 m.members m.promptLen.toNat) || (m.members.getLast?.map (·.node.toNat)) != some s.nodeId))

/-- The OPEN is past the limits of R310: the deepest chain a block record can name, or the lead's stretch as it will grow. -/
def openTooLong (m : OpenMsg) : Bool :=
  if m.kind = 2 then decide (1048576 < m.maxTok.toNat + ((m.members.getLast?.map (·.len.toNat)).getD 0))
  else m.kind == 0 && decide (8388608 < m.promptLen.toNat + m.maxTok.toNat)

/-- A seat is taken for an OPEN with its fields, stop record and members; hashing may start (R21, R170). -/
def takeOpen (i : Nat) (m : OpenMsg) (s : State) : State :=
  let s := takeSeat i s
  let s := if m.kind = 1 then modSeat i (resumeFields m) s else modSeat i (openFields m) s
  let s := modSide i (fun d => { d with
    kind := m.kind.toNat, members := m.members, misuse := openMisuse s m || openTooLong m
    stops := if m.kind = 1 then [] else m.stops.map fun l => l.map (·.toNat) }) s
  if m.kind = 0 then startLookup i s else s

/-- REFUSE of an OPEN that holds no seat (R51 tests 1 and 2). -/
def refuseBare (m : OpenMsg) (code : Nat) (s : State) : State :=
  let retry := if code = 0x01 then retrySat (100 * s.fld F.ADM_RETRY_NOSEAT) else noRetry
  sendMsg (mkMsg .G 0 0x13 [(8, code), (36, 0)] [m.reqid, pack [(32, retry), (32, 0)]] 0 []) 0
    (bump (0x2F + code) (bump 0x02 (returnOpenCredit s)))

/-- An OPEN that its port has taken (R21, R51): no Free seat, a duplicate, or the decision. -/
def openTaken (m : OpenMsg) (s : State) : State :=
  let s := bump 0x00 s
  match s.freeSeatIdx with
  | none => refuseBare m 0x01 s
  | some i =>
    if (s.findReq m.reqid).isSome then
      refuseBare m 0x08 (bump 0x06 (freeSeat i (takeSeat i s)))
    else
      let s := takeOpen i m s
      if m.kind = 1 then awaitImage i s else decideOpen i m.nstop.toNat m.rseed s

/-- The OPEN's shape does not allow its LENGTH: a reserved KIND or a member list of another length (R238, R248). -/
def openBadLen (m : OpenMsg) : Bool :=
  decide (2 < m.kind.toNat) || (m.kind == 2 && m.members.length != m.lastMember.toNat + 1) ||
    (m.kind != 2 && m.members.length != 0) || m.stops.length != m.nstop.toNat

/-- A message whose LENGTH its format does not allow is discarded and counted (R238); its credit returns. -/
def badLen (p : Port) (peer cls : Nat) (s : State) : State :=
  let s := setFlag (F.PORT_FLAGS_BADLEN (portNo p)) (bump 0xFA s)
  if p = .G ∧ cls = 0 then returnOpenCredit s else returnCredit p peer cls 1 0 s

/-- An OPEN that port G has taken reaches the ledger (R21, R248). -/
def openGo (m : OpenMsg) (s : State) : State := if openBadLen m then badLen .G 0 0 s else drain (openTaken m s)

/-- OPEN arrives on port G. -/
def handleOpen (m : OpenMsg) (s : State) : State :=
  match arrive .G 0 0 0x10 m.reqid 0 s with
  | (false, s) => s
  | (true, s) => openGo m s

/-! PROMPT (R249). -/

/-- The lead forwards a PROMPT unchanged to each follower whose stretch it covers (R249). -/
def forwardPrompt (i : Nat) (m : PromptMsg) (s : State) : State :=
  if (s.seat i).role ≠ 1 then s
  else
    let lo := m.firstPos.toNat
    let hi := lo + m.toks.length
    each (fun (x : Member) s =>
      if x.node.toNat ≠ s.nodeId ∧ x.start.toNat < hi ∧ lo < x.start.toNat + x.len.toNat then
        match s.peerOf x.node.toNat with
        | some peer => sendN peer 0x11 0 [(13, m.toks.length), (31, 0)]
            ([m.reqid, pack [(24, lo), (40, 0)]] ++ packToks m.toks.length (m.toks.map (·.toNat))) 0 [] s
        | none => s
      else s) (s.side i).members s

/-- Tokens of its prompt that a request has been given; a resumption's came with its image (R249). -/
def State.delivered (s : State) (i : Nat) : Nat :=
  if (s.side i).kind = 1 then (s.seat i).promptLen.toNat else (s.side i).toks.length

/-- A PROMPT that ends its request with 0x7F (R249): a FIRSTPOS that differs from the tokens delivered, or tokens beyond PROMPTLEN.
A follower takes the part in its stretch, which a gap before it breaks. -/
def State.promptBad (s : State) (i : Nat) (m : PromptMsg) : Bool :=
  if (s.seat i).role = 2 then decide (s.tokOff i + s.delivered i < m.firstPos.toNat)
  else m.firstPos.toNat != s.delivered i || decide (s.tokLimit i < s.delivered i + m.toks.length)

/-- A PROMPT's tokens reach a request's store (R249); a follower takes the part in its stretch. -/
def promptTokens (i : Nat) (m : PromptMsg) (s : State) : State :=
  if (s.seat i).role = 2 then
    let n := s.delivered i
    let l := (m.toks.drop (s.tokOff i + n - m.firstPos.toNat)).take (s.tokLimit i - n)
    stretchStep i (s.side i).splitReady.length (storeToks i l s)
  else forwardPrompt i m (storeToks i m.toks s)

/-- Pages a PROMPT needs beyond those it already holds. -/
def State.promptNeeds (s : State) (i : Nat) (m : PromptMsg) : Nat := (s.newPages i m.toks.length).length

/-- The request a PROMPT names, by the port it came on: a follower's on port N. -/
def State.promptSeat (s : State) (p : Port) (reqid : Word) : Option Nat :=
  if p = .N then
    (s.led.seats.find? fun e =>
      e.2.state != .free && e.2.role == 2 && e.2.reqid == reqid && !s.led.lostDir.contains e.1).map (·.1)
  else s.findReq reqid

/-- The states in which a prompt can still be incomplete (R249). -/
def takesPrompt (st : SeatState) : Bool :=
  st == .opening || st == .routed || st == .prefilling

/-- The request is closing or closed: what else comes for it changes nothing (R24, R31). -/
def closing (st : SeatState) : Bool := st == .draining || st == .closed

/-- A PROMPT that port `p` took: without a live request it is discarded; one that breaks R249 ends its request; without pages it is
held back by credit (R180); else its tokens are stored and the DATA credit returns. -/
def promptTaken (p : Port) (peer : Nat) (m : PromptMsg) (s : State) : State :=
  let cls := if p = .N then 0 else 1
  match s.promptSeat p m.reqid with
  | none => returnCredit p peer cls 1 0 s
  | some i =>
    if closing (s.seat i).state then returnCredit p peer cls 1 0 s
    else if s.promptBad i m then returnCredit p peer cls 1 0 (badPrompt i s)
    else if p = .G ∧ s.freePages < s.promptNeeds i m then
      setFlag F.PKV_FLAGS_PROMPTWAIT (bump 0x92 (modKv (fun k => { k with heldPrompts := k.heldPrompts ++ [m] }) s))
    else returnCredit p peer cls 1 0 (promptTokens i m s)

/-- Held PROMPT messages are taken in order as pages come free (R180). -/
def retryHeld : Nat → State → State
  | 0, s => s
  | f + 1, s => match s.kv.heldPrompts with
    | [] => s
    | m :: r =>
      let fits := match s.findReq m.reqid with
        | some i => closing (s.seat i).state || s.promptBad i m || decide (s.promptNeeds i m ≤ s.freePages)
        | none => true
      if fits then retryHeld f (promptTaken .G 0 m (modKv (fun k => { k with heldPrompts := r }) s)) else s

/-- What a command's end leaves to do at once: held prompts, the spill orders of a low mark (R58), the idle actions of R327, the
fetches that DEPTH lets leave (R181), messages that credit lets leave, and the layer hold of R104. -/
def finish (s : State) : State := holdStep (drain (hotRetry (fetchStep (idleActions (lowStep (retryHeld s.kv.heldPrompts.length s))))))

/-- A PROMPT that its port has taken reaches the ledger (R249). -/
def promptGo (p : Port) (peer : Nat) (m : PromptMsg) (s : State) : State :=
  if m.toks.length = 0 ∨ 4096 < m.toks.length then badLen p peer (if p = .N then 0 else 1) s
  else if p = .G ∧ s.kv.heldPrompts ≠ [] then
    setFlag F.PKV_FLAGS_PROMPTWAIT (bump 0x92 (modKv (fun k => { k with heldPrompts := k.heldPrompts ++ [m] }) s))
  else finish (promptTaken p peer m s)

/-- PROMPT arrives (R249). -/
def handlePrompt (p : Port) (peer : Nat) (m : PromptMsg) (s : State) : State :=
  match arrive p peer (if p = .N then 0 else 1) 0x11 m.reqid 0 s with
  | (false, s) => s
  | (true, s) => promptGo p peer m s

/-! CANCEL (R17, R29, R252). -/

/-- TOKENS queued for a cancelled request are dropped; a CLOSE queued for it then carries 0x10 (R252). -/
def cancelQueued (i : Nat) (s : State) : State :=
  let g := (s.seat i).gen.toNat
  let mine := fun (q : OutItem) => q.kind == 1 && q.seat == i && q.gen == g
  if (s.ports.queue.any mine) = true then
    let s := modPorts (fun p => { p with queue := p.queue.filter fun q => !mine q }) s
    if s.closeQueued i then modSeat i (fun a => { a with closeReason := 0x10 }) s else s
  else s

/-- CANCEL is set in the seat whatever its state, and takes effect by that state (R29). -/
def cancelSeat (i : Nat) (s : State) : State :=
  let st := (s.seat i).state
  let s := modSeat i (fun a => { a with cancel := true }) s
  match st with
  | .draining | .closed => cancelQueued i (bump 0x05 s)
  | _ =>
    let s := cancelQueued i s
    match st with
    | .opening => if s.pinned i then closeSeat i 0x10 s else s
    | .routed | .paused | .spilled => closeSeat i 0x10 s
    | _ => if s.atOnce then atOnceSeat i s else s

/-- CANCEL of a request id (R29). -/
def cancelTaken (reqid : Word) (s : State) : State :=
  let s := bump 0x04 s
  match s.findReq reqid with
  | some i => finish (cancelSeat i s)
  | none => bump 0x05 s

/-- A CANCEL that port G has taken reaches the ledger; its credit returns. -/
def cancelGo (reqid : Word) (s : State) : State := cancelTaken reqid (returnCredit .G 0 2 1 0 s)

/-- CANCEL arrives on port G. -/
def handleCancel (reqid : Word) (s : State) : State :=
  match arrive .G 0 2 0x16 reqid 0 s with
  | (false, s) => s
  | (true, s) => cancelGo reqid s

/-! SPLIT_OPEN at a follower (R198, R256). -/

/-- The fields of a follower seat (R45, R106, R256): PROMPTLEN is the stretch's length. -/
def followerFields (m : SplitOpenMsg) (k : Nat) (a : Seat) : Seat :=
  { a with
    reqid := m.reqid, tenant := m.tenant, cls := m.cls, role := 2, promptLen := m.len.setWidth 24
    model := m.model, adapter := m.adapter, lprefix := m.lprefix, adapterOn := m.adapterOn, lprefixOn := m.lprefixOn
    modelVer := m.modelVer, adapterVer := m.adapterVer, lprefixVer := m.lprefixVer, splitIdx := BitVec.ofNat 16 k }

/-- The split-table entry of a follower; only the lead's seat is known to it (R106). -/
def followerEntry (m : SplitOpenMsg) : SplitEnt :=
  ⟨((m.nodes.getLast?).map (·.toNat)).getD 0, m.lastMember.toNat, m.self.toNat, 0, 0, m.start.toNat, m.len.toNat, 0,
    (List.range m.nodes.length).map fun k =>
      let n := ((m.nodes[k]?).map (·.toNat)).getD 0
      if k = m.lastMember.toNat then (n, m.leadSeat.toNat, m.leadGen.toNat) else (n, 0, 0), [m.lastMember.toNat], []⟩

/-- A follower seat opens, or is refused: no Free seat, no free entry, a version that is not live, or no way to fill its stretch
(R18, R45, R188, R198). -/
def splitOpenTaken (peer : Nat) (m : SplitOpenMsg) (s : State) : State :=
  let no := fun s => sendSplitOpened peer m.reqid 0 0 m.self.toNat true 0 s
  match s.freeSeatIdx, s.freeSplit with
  | some i, some k =>
    let s' := modSeat i (followerFields m k) (takeSeat i s)
    let canFill := if m.fromPool then s.on F.ADM_CTRL_SHIPEN && s.live .P 0 && s.portOpen .P && decide (0 < s.outCredit .P 0 0)
      else s.poolUp
    if !s'.versLive i || !canFill then no (freeSeat i s')
    else
      let s := pinByVersion i s'
      let s := modDeals (fun d => { d with splits := tins d.splits k (followerEntry m) }) s
      let s := modSide i (fun d => { d with
        phase := .answered, rkey := some m.rkey, leadPeer := peer, fromPool := m.fromPool, handles := m.handles.map (·.toNat) }) s
      let s := formContext i (takePins i s)
      if m.start = 0 then beginLookup i (startLookup i s)
      else fillStretch i (sendSplitOpened peer m.reqid i (s.seat i).gen.toNat m.self.toNat false 0 s)
  | _, _ => no s

end Sys2Proof.Machine
end

