-- ==== Sys2Proof/Machine/Steward.lean ====
section
/-! DEFINITION. The commands of the KV steward: lookup events, ports P and C, the object table, and the waits that end
(R181 to R202, R249, R254, R255). -/
namespace Sys2Proof.Machine

/-- PROMPTWAIT passes with a prompt incomplete: the seat closes with 0x7F (R17, R249). -/
def execPromptwaitExpiry (t : BitVec 64) (seat : BitVec 16) (s : State) : Host.Outcome State Fault Refusal :=
  if !s.mainOn then .next (tick t s) else
  let s := tick t s
  let i := seat.toNat
  let a := s.seat i
  let late := decide (1000 * s.fld F.PORTG_STREAM_PROMPTWAIT ≤ s.sinceArrival i)
  if takesPrompt a.state ∧ a.role ≠ 2 ∧ (s.side i).kind ≠ 1 ∧ (s.side i).toks.length < a.promptLen.toNat ∧ late = true then
    .next (finish (closeSeat i 0x7F s))
  else .next s

/-- A prompt block is hashed and its probe begins (R168, R170, R181). -/
def execBlockHashDone (t : BitVec 64) (seat : BitVec 16) (s : State) : Host.Outcome State Fault Refusal :=
  if !s.mainOn then .next (tick t s) else
  .next (finish (hashNext seat.toNat (tick t s)))

/-- An index bucket read returns (R171, R181). -/
def execIndexProbeDone (t : BitVec 64) (seat : BitVec 16) (s : State) : Host.Outcome State Fault Refusal :=
  if !s.mainOn then .next (tick t s) else
  .next (finish (probeDone seat.toNat (tick t s)))

/-- The tag of a resident hit block has been compared (R178, R199). -/
def execResidentBlockVerified (t : BitVec 64) (seat : BitVec 16) (s : State) : Host.Outcome State Fault Refusal :=
  if !s.mainOn then .next (tick t s) else
  .next (finish (residentVerified seat.toNat (tick t s)))

/-! Port P (R193, R194, R254). -/

/-- PREFILL_SHIP leaves once its tokens and its run's puts are there and the C-link gate lets it (R193, R220). -/
def execPrefillShip (t : BitVec 64) (seat : BitVec 16) (s : State) : Host.Outcome State Fault Refusal :=
  if !s.mainOn then .next (tick t s) else
  let s := tick t s
  match s.shipTag with
  | some tag =>
    if (s.seat seat.toNat).state = .routed ∧ s.shipReady seat.toNat = true ∧ s.live .P 0 = true then
      .next (finish (sendShip seat.toNat tag s))
    else .next s
  | none => .next s

/-- The last returned block is in place: PREFILLED and Prefilling, or a follower's stretch is in place (R194, R198; log entry 53). -/
def shipComplete (i : Nat) (s : State) : State :=
  let a := s.seat i
  match (s.side i).ship with
  | none => s
  | some h =>
    let n := 64 * s.shipLen i
    let s := updPool n (s.now - h.sentAt) (modSide i (fun d => { d with ship := none }) s)
    if a.role = 2 then modSeat i (fun a => { a with state := .prefilling, prefilled := a.promptLen }) s
    else modSeat i (fun a => { a with state := .prefilling, prefilled := BitVec.ofNat 24 (64 * s.shipEnd i) }) s

/-- PREFILL_KV returns block `block` of a shipment: stale ones are counted, a block that fails R178 ends the shipment, a good
one fills its linked block (R20, R178, R194). -/
def prefillKvIn (i gen block tag : Nat) (c : BlockTag) (s : State) : State :=
  match (s.side i).ship with
  | none => bump 0x07 s
  | some h =>
    if !(s.current i gen) ∨ (s.seat i).state ≠ .routed ∨ !h.sent ∨ h.tag ≠ tag then bump 0x07 s
    else
      let k := h.nextBlock - 1 - s.blkBase i
      let l := s.chain i
      let par := if h.nextBlock = 1 then 0 else if k = 0 then c.parent else match l[k - 1]? with
        | some p => (s.blk p).name
        | none => 0
      match l[k]? with
      | none => bump 0x07 s
      | some b =>
        let x := tagBlk c (s.blk b)
        if block ≠ h.nextBlock ∨ !(tagMatches s i h.nextBlock par x) then finish (shipFail i (mismatch s))
        else
          let s := modBlk b (fun _ => { x with state := .complete, owner := i, ownerGen := gen, owned := true, stamp := s.stampNow }) s
          let s := modSide i (fun d => { d with
            ship := some { h with nextBlock := h.nextBlock + 1, lastAt := s.now }, toIndex := d.toIndex ++ [h.nextBlock] }) s
          finish (if h.nextBlock = s.shipEnd i then shipComplete i s else s)

/-- PREFILL_KV arrives; its payload moves through the C-link gate as SHIP's (R194, R220, R221). -/
def execPrefillKv (t : BitVec 64) (seat gen : BitVec 16) (block : BitVec 18) (tag : BitVec 24) (c : BlockTag) (s : State) :
    Host.Outcome State Fault Refusal :=
  if !s.mainOn then .next (tick t s) else
  let s := tick t s
  let x : Gated := ⟨.prefillKv t seat gen block tag c, 0, 4, tag.toNat, .P, 0, 0, beatsOf s.carrierBytes⟩
  .next (takingGated x 0x21 (payWord s.carrierBytes tag.toNat) (prefillKvIn seat.toNat gen.toNat block.toNat tag.toNat c) s)

/-- PREFILL_FAIL: the shipment fails and the seat closes with 0x31 (R194). -/
def execPrefillFail (t : BitVec 64) (seat gen : BitVec 16) (_code : BitVec 8) (s : State) : Host.Outcome State Fault Refusal :=
  if !s.mainOn then .next (tick t s) else
  .next (taking .P 0 1 0x22 (seatWord seat.toNat gen.toNat 0) 0 (fun s =>
    if s.current seat.toNat gen.toNat = true ∧ (s.seat seat.toNat).state = .routed then finish (shipFail seat.toNat s)
    else bump 0x07 s) (tick t s))

/-- SHIPWAIT passes without a return: the shipment fails (R194). -/
def execShipwaitExpiry (t : BitVec 64) (seat : BitVec 16) (s : State) : Host.Outcome State Fault Refusal :=
  if !s.mainOn then .next (tick t s) else
  let s := tick t s
  let i := seat.toNat
  match (s.side i).ship with
  | some h =>
    if h.sent = true ∧ (s.seat i).state = .routed ∧ h.lastAt + 1000 * s.fld F.PKV_WAIT_SHIPWAIT ≤ s.now then
      .next (finish (shipFail i s))
    else .next s
  | none => .next s

/-! Port C (R255). -/

/-- A fetching block that nothing holds any more is discarded and its number is Free again (R182). -/
def discardFetch (b : Nat) (s : State) : State := modBlk b (fun _ => Blk.empty) (clearLocal b s)

/-- A fetched block has arrived under its tag (R181, R192, R198). -/
def fetchData (tag : Nat) (c : BlockTag) (s : State) : State :=
  let since := tget 0 s.kv.tagAt tag
  match s.tagUse tag with
  | some (.fetch _ _ _ b _) =>
    let s := endTag tag s
    if (s.blk b).refs = 0 then discardFetch b s else fetchArrived b since c s
  | some (.backBlk i g b _) => backArrived i g b c (endTag tag s)
  | some (.stretch i g _ b _) =>
    let s := endTag tag s
    if s.current i g = true ∧ (s.side i).splitReady.contains b then
      let s := modBlk b (fun x => { tagBlk c x with state := .complete }) (bump 0x82 s)
      stretchStep i (s.side i).splitReady.length s
    else discardFetch b s
  | _ => s

/-- The payload of a KV_DATA has moved (R181, R192, R198). -/
def kvDataIn (tag : Nat) (c : BlockTag) (s : State) : State := finish (fetchData tag c s)

/-- KV_DATA arrives; its payload moves through the C-link gate (R181, R220, R255). -/
def execKvData (t : BitVec 64) (tag : BitVec 24) (handle : BitVec 32) (c : BlockTag) (s : State) :
    Host.Outcome State Fault Refusal :=
  if !s.mainOn then .next (tick t s) else
  let s := tick t s
  let x : Gated := ⟨.kvData t tag handle c, 0, s.fetchUnit tag.toNat, tag.toNat, .C, 0, 0, beatsOf s.carrierBytes⟩
  .next (takingGated x 0x31 (payWord s.carrierBytes tag.toNat) (kvDataIn tag.toNat c) s)

/-- An outstanding fetch fails: KV_MISS, FETCHWAIT or the loss of the session (R52, R182, R192). -/
def fetchMissed (tag : Nat) (s : State) : State :=
  match s.tagUse tag with
  | some (.fetch _ _ _ b _) =>
    let s := endTag tag s
    if (s.blk b).refs = 0 then discardFetch b s else fetchFailed b s
  | some (.backBlk i g b _) => backFailed i g (some b) (endTag tag s)
  | some (.imageBack i g _) => backFailed i g none (endTag tag s)
  | some (.imageOpen i g _) =>
    let s := endTag tag s
    if s.current i g = true ∧ (s.side i).phase = .awaitImage then imageLost i s else s
  | some (.stretch i g _ b _) =>
    let s := setFlag F.PKV_FLAGS_FETCHFAIL (bump 0x83 (endTag tag s))
    let s := if s.current i g then stretchFail i s else s
    discardFetch b s
  | _ => s

/-- KV_MISS arrives (R182, R255). -/
def execKvMiss (t : BitVec 64) (tag : BitVec 24) (handle : BitVec 32) (s : State) : Host.Outcome State Fault Refusal :=
  if !s.mainOn then .next (tick t s) else
  .next (taking .C 0 2 0x32 (handleTag handle.toNat tag.toNat) 0 (fun s => finish (fetchMissed tag.toNat s)) (tick t s))

/-- PUT_ACK arrives (R191, R193, R195). -/
def execPutAck (t : BitVec 64) (tag : BitVec 24) (handle : BitVec 32) (s : State) : Host.Outcome State Fault Refusal :=
  if !s.mainOn then .next (tick t s) else
  .next (taking .C 0 2 0x34 (handleTag handle.toNat tag.toNat) 0
    (fun s => finish (putAnswered tag.toNat (some handle.toNat) s)) (tick t s))

/-- PUT_DECLINE arrives (R191, R195). -/
def execPutDecline (t : BitVec 64) (tag : BitVec 24) (s : State) : Host.Outcome State Fault Refusal :=
  if !s.mainOn then .next (tick t s) else
  .next (taking .C 0 2 0x35 (handleTag 0 tag.toNat) 0
    (fun s => finish (putAnswered tag.toNat none (bump 0x89 s))) (tick t s))

/-- A seat image arrives (R52, R192). -/
def imageData (tag : Nat) (m : Image) (s : State) : State :=
  match s.tagUse tag with
  | some (.imageOpen i g _) =>
    let s := endTag tag s
    if s.current i g = true ∧ (s.side i).phase = .awaitImage then imageArrived i m s else s
  | some (.imageBack i g _) =>
    let s := endTag tag s
    if s.current i g = true ∧ (s.side i).back.isSome then startBack i m s else s
  | _ => s

/-- The payload of an IMAGE_DATA has moved (R52, R192). -/
def imageDataIn (tag : Nat) (m : Image) (s : State) : State := finish (imageData tag m s)

/-- IMAGE_DATA arrives; its payload moves through the C-link gate as FETCHBACK's (R52, R192, R220, R255). -/
def execImageData (t : BitVec 64) (tag : BitVec 24) (handle : BitVec 32) (m : Image) (s : State) :
    Host.Outcome State Fault Refusal :=
  if !s.mainOn then .next (tick t s) else
  let n := 256 + 32 * m.blocks.length + 8 * m.pct.length + 512
  let x : Gated := ⟨.imageData t tag handle m, 0, 1, tag.toNat, .C, 0, 0, beatsOf n⟩
  .next (takingGated x 0x38 (payWord n tag.toNat) (imageDataIn tag.toNat m) (tick t s))

/-- A directory message of 1 to 1,364 entries is taken; any other has a LENGTH its format does not allow (R238, R255). -/
def dirTaken (op n : Nat) (f : State → State) (s : State) : State :=
  taking .C 0 1 op 0 0 (fun s => if 1 ≤ n ∧ n ≤ 1364 then f s else setFlag (F.PORT_FLAGS_BADLEN 2) (bump 0xFA s)) s

/-- DIR_ADD: each entry is inserted with POOL set, in order, but nothing while R184 forbids hits (R174, R184, R196). -/
def execDirAdd (t : BitVec 64) (es : List DirEntry) (s : State) : Host.Outcome State Fault Refusal :=
  if !s.mainOn then .next (tick t s) else
  .next (dirTaken 0x3A es.length (fun s =>
    bumpN 0x90 es.length (if s.noHits then s else
      each (fun e s => insertKey e.key (.dir e.handle.toNat e.depth.toNat) s) es s)) (tick t s))

/-- One DIR_DROP entry: POOL is cleared in the entry with that key, which goes when LOCAL is clear (R196), and in the record of its
resident block where that holds the handle (log entry 40). -/
def dropDir (e : DirEntry) (s : State) : State :=
  match s.idxFind e.key with
  | some n =>
    let x := s.idx n
    let s := if x.loc then modBlk x.localBlk (fun y =>
        if y.state = .fetching ∨ y.handle ≠ e.handle.toNat then y else { y with pool := false, handle := 0 }) s
      else s
    setIdx n { x with pool := false, handle := 0, valid := x.loc } s
  | none => s

/-- DIR_DROP (R196). -/
def execDirDrop (t : BitVec 64) (es : List DirEntry) (s : State) : Host.Outcome State Fault Refusal :=
  if !s.mainOn then .next (tick t s) else
  .next (dirTaken 0x3B es.length (fun s => bumpN 0x91 es.length (each dropDir es s)) (tick t s))

/-- REPLAY_END: PKV_STATUS.REPLAY reads 0 (R197). -/
def execReplayEnd (t : BitVec 64) (count : Word) (s : State) : Host.Outcome State Fault Refusal :=
  if !s.mainOn then .next (tick t s) else
  .next (taking .C 0 1 0x3C count 0 (fun s => modPwr (fun p => { p with replay := false }) s) (tick t s))

/-- FETCHWAIT passes for an unanswered handle, put or image (R181, R191, R202). -/
def execFetchwaitExpiry (t : BitVec 64) (tag : BitVec 24) (s : State) : Host.Outcome State Fault Refusal :=
  if !s.mainOn then .next (tick t s) else
  let s := tick t s
  let n := tag.toNat
  if tget 0 s.kv.tagAt n + 1000 * s.fld F.PKV_WAIT_FETCHWAIT ≤ s.now then
    match s.tagUse n with
    | some (.putPublish _) | some (.putSpill _ _ _) | some (.putShip _ _ _) | some (.imagePut _ _) =>
      .next (finish (putAnswered n none s))
    | some (.repair ..) => .next s
    | some _ => .next (finish (fetchMissed n s))
    | none => .next s
  else .next s

/-! The object table (R186 to R189). -/

/-- The selected kind and id of PKV_OBJSEL. -/
def State.objSel (s : State) : Nat × Nat := (s.fld F.PKV_OBJSEL_KIND, s.fld F.PKV_OBJSEL_ID)

/-- RESULT of PKV_OBJSTAT. -/
def objResult (r : Nat) (s : State) : State := setFld F.PKV_OBJSTAT_RESULT r s

/-- The slot ceases to be current, and retires when it has no pin (R189). -/
def uncurrentObj (kind id slot : Nat) (s : State) : State :=
  retireObj kind id slot (modObj kind id slot (fun o => { o with current := false }) s)

/-- REGISTER of PKV_OBJCMD (R187). -/
def registerObj (s : State) : State :=
  let k := s.objSel.1
  let id := s.objSel.2
  let v := s.fld F.PKV_OBJDATA0_VERSION
  if (s.objVer k id v).isSome then objResult 3 s
  else match slotWith fun x => !(s.obj k id x).live && !(s.obj k id x).waitPop with
    | none => objResult 2 s
    | some x =>
      let old := s.objCur k id
      let o : ObjSlot := ⟨v, 0, true, true, false, s.fld F.PKV_OBJDATA0_MODEL, s.fld F.PKV_OBJDATA0_MODELVER,
        s.fld F.PKV_OBJDATA0_LPLEN, s.reg 0x2890, s.fld F.PKV_OBJDATA2_BYTES⟩
      let s := modObj k id x (fun _ => o) s
      let s := match old with
        | some y => uncurrentObj k id y s
        | none => s
      bump 0x93 (setFld F.PKV_OBJSTAT_NEWSLOT x (objResult 1 s))

/-- WITHDRAW of PKV_OBJCMD (R187). -/
def withdrawObj (s : State) : State :=
  match s.objCur s.objSel.1 s.objSel.2 with
  | none => objResult 4 s
  | some y => objResult 1 (uncurrentObj s.objSel.1 s.objSel.2 y s)

/-- POP of PKV_RETIREACK: the head entry goes and its slot is free; a retirement that waited takes its place (R189). -/
def popObj (s : State) : State :=
  match s.kv.retire with
  | [] => s
  | (k, id, x) :: r =>
    let s := modObj k id x (fun _ => ObjSlot.empty) s
    modKv (fun q => { q with retire := r ++ q.retireWait.take 1, retireWait := q.retireWait.drop 1 }) s

/-- PKV_OBJCMD.REGISTER is written. -/
def execPkvRegister (s : State) : Host.Outcome State Fault Refusal :=
  if !s.cmdOn then .next s else
  .next (registerObj s)

/-- PKV_OBJCMD.WITHDRAW is written. -/
def execPkvWithdraw (s : State) : Host.Outcome State Fault Refusal :=
  if !s.cmdOn then .next s else
  .next (withdrawObj s)

/-- PKV_RETIREACK.POP is written. -/
def execPkvRetirePop (s : State) : Host.Outcome State Fault Refusal :=
  if !s.cmdOn then .next s else
  .next (popObj s)

end Sys2Proof.Machine
end

