-- ==== Sys2Proof/Machine/Split.lean ====
section
/-! DEFINITION. Split seats and joint deals: the commands of port N, the split-seat table, peer leases and peer waits (R18, R19,
R106 to R114, R198, R244, R256). -/
namespace Sys2Proof.Machine

/-! The split-seat table (R106). -/

/-- The split-table entry of a seat. -/
def State.split (s : State) (i : Nat) : SplitEnt := tget SplitEnt.empty s.deals.splits (s.seat i).splitIdx.toNat

/-- A change of the split-table entry of a seat. -/
def modSplit (i : Nat) (f : SplitEnt → SplitEnt) (s : State) : State :=
  modDeals (fun d => { d with splits := tins d.splits (s.seat i).splitIdx.toNat (f (s.split i)) }) s

/-- The reference names this node's current seat in a split role. -/
def State.splitRef (s : State) (seat gen role : Nat) : Bool := s.current seat gen && (s.seat seat).role.toNat == role

/-- The seat and generation of the lead that a follower's entry names. -/
def SplitEnt.leadRef (e : SplitEnt) : Nat × Nat := match e.members[e.last]? with
  | some m => (m.2.1, m.2.2)
  | none => (0, 0)

/-! Peer leases (R112, R244). -/

/-- A message from a peer keeps the leases lent to it alive. -/
def heard (peer : Nat) (s : State) : State :=
  modDeals (fun d => { d with leases := d.leases.map fun l =>
    if l.lent && l.peer == peer then { l with lastAt := s.now } else l }) s

/-- The lender sees a lead epoch: leases that end at or below it return, and for a new one it lends anew (R112, R244). -/
def lend (peer el : Nat) (s : State) : State :=
  let known := s.deals.leases.any fun l => l.lent && l.peer == peer && decide (el ≤ l.el)
  if known then s
  else
    let len := s.fld F.HER_PEER_LEASELEN
    let msgs := s.fld F.PORTN_LEASE_MSGS
    let beats := s.fld F.PORTN_LEASE_BEATS
    let s := modDeals (fun d => { d with leases :=
      (d.leases.filter fun l => !(l.lent && l.peer == peer && decide (l.el + l.len ≤ el))) ++
        [⟨peer, true, el, len, msgs, beats, s.now⟩] }) s
    sendN peer 0x7A 2 [(44, 0)] [pack [(48, el), (8, len), (8, 0)], pack [(16, msgs), (40, beats), (8, 0)]] 0 [] (bump 0x56 s)

/-- A lease lent to a peer has what a message of `beats` payload beats, tagged with a lead epoch, needs. -/
def State.lentTo (s : State) (peer el beats : Nat) : Bool := s.deals.leases.any fun l => l.holds true peer el beats

/-- A message tagged with a lead epoch draws on a lease lent to its sender. -/
def drawLent (peer el beats : Nat) (s : State) : State :=
  modDeals (fun d => { d with leases := drawLease (fun l => l.holds true peer el beats) beats d.leases }) s

/-- A message tagged with a lead epoch arrives within a live lease, which it draws on; else it is outside every lease. -/
def underLease (peer el beats : Nat) (s : State) : Bool × State :=
  if s.lentTo peer el beats then (true, drawLent peer el beats s) else (false, bump 0x58 s)

/-- A message of port N that moves under ordinary credit. -/
def fromPeer (peer cls op : Nat) (word1 : Word) (beats : Nat) (f : State → State) (s : State) : State :=
  finish (taking .N peer cls op word1 beats f (heard peer s))

/-- A message of port N that moves under a peer lease: discarded outside a session, refused in the greeting phase, discarded and
counted outside every live lease; its payload moves through the N-link gate (R112, R220, R240, R245). -/
def fromPeerLeased (x : Gated) (op el : Nat) (word1 : Word) (f : State → State) (s : State) : State :=
  let s := portCnt .N 0 1 (heard x.peer s)
  if !s.live .N x.peer then setFlag (F.PORT_FLAGS_STRAY 3) (bump 0xFB s)
  else if !s.portOpen .N then sendNotReady .N x.peer op word1 s
  else
    let r := underLease x.peer el x.beats s
    finish (if r.1 then gatedIn x f r.2 else r.2)

/-- JOINT_OFFER or JOINT_GO: it moves under a peer lease that covers its lead epoch. DESIGN CHOICE: where none does, as for the first
offer of a lead, whose answer is the first lease, it moves under the ordinary credit of its class (R243, R244; log entry 56). -/
def fromPeerJoint (peer op el : Nat) (word1 : Word) (f : State → State) (s : State) : State :=
  if s.live .N peer && s.portOpen .N && s.lentTo peer el 0 then finish (f (drawLent peer el 0 (portCnt .N 0 1 (heard peer s))))
  else fromPeer peer 1 op word1 0 f s

/-- JOINT_OFFER or JOINT_GO to a peer, under a peer lease or under the ordinary credit of its class. -/
def sendJoint (peer op : Nat) (w0 : List (Nat × Nat)) (rest : List Word) (s : State) : State :=
  let m := mkMsg .N peer op w0 rest 0 []
  sendMsg m (if s.deals.leases.any (s.pays m) then 3 else 1) s

/-- LEASE arrives: the lease is held for lead epochs EL on, unless the borrower has passed them (R112, R260). -/
def leaseTaken (peer el len msgs beats : Nat) (s : State) : State :=
  if s.deals.leases.any fun l => l.lent && l.peer == peer && decide (el + len ≤ l.el) then s
  else modDeals (fun d => { d with leases := d.leases ++ [⟨peer, false, el, len, msgs, beats, s.now⟩] }) s

/-- LEASE (R112, R244, R256). -/
def execLease (t : BitVec 64) (peer : BitVec 6) (el : BitVec 48) (len : BitVec 8) (msgs : BitVec 16) (beats : BitVec 40)
    (s : State) : Host.Outcome State Fault Refusal :=
  if !s.mainOn then .next (tick t s) else
  .next (fromPeer peer.toNat 2 0x7A (pack [(48, el.toNat), (8, len.toNat), (8, 0)]) 0
    (leaseTaken peer.toNat el.toNat len.toNat msgs.toNat beats.toNat) (tick t s))

/-- PEERWAIT passes on the lender's counter with no message from the borrower: the leases lent to it return (R112). -/
def execLeaseIdleExpiry (t : BitVec 64) (peer : BitVec 6) (s : State) : Host.Outcome State Fault Refusal :=
  if !s.mainOn then .next (tick t s) else
  let s := tick t s
  let old := fun (l : PeerLease) => l.lent && l.peer == peer.toNat && s.lapsed l
  let n := (s.deals.leases.filter old).length
  .next (bumpN 0x57 n (modDeals (fun d => { d with leases := d.leases.filter fun l => !old l }) s))

/-! Opening, closing, pausing and resuming a split seat. -/

/-- SPLIT_OPEN (R18, R198, R256). -/
def execSplitOpen (t : BitVec 64) (peer : BitVec 6) (m : SplitOpenMsg) (s : State) : Host.Outcome State Fault Refusal :=
  if !s.mainOn then .next (tick t s) else
  let bytes := 8 * m.handles.length
  let shape := m.nodes.length == m.lastMember.toNat + 1
  let w := payWord bytes m.tag.toNat
  .next (fromPeer peer.toNat 0 0x70 w (beatsOf bytes)
    (fun s => if shape then splitOpenTaken peer.toNat m s else setFlag (F.PORT_FLAGS_BADLEN 3) (bump 0xFA s)) (tick t s))

/-- The lead takes a follower's answer: a refusal closes the split seat with 0x40; the last answer ends the lookup (R45, R198).
An answer for a request that is no longer opening, or that the directory has lost (R37), is told to close. -/
def splitOpenedTaken (peer : Nat) (reqid : Word) (seat gen self : Nat) (refused : Bool) (hits : Nat) (s : State) : State :=
  let lead := s.led.seats.find? fun e => e.2.role == 1 && e.2.reqid == reqid &&
    !s.led.lostDir.contains e.1 && (e.2.state == .opening || (refused && e.2.state != .free && !closing e.2.state))
  match lead with
  | none =>
    if refused then s else sendN peer 0x72 1 [(8, 0x40), (36, 0)] [0, seatWord seat gen 0] 0 [] s
  | some (i, _) =>
    if refused then closeSeat i 0x40 s
    else
      let s := modSplit i (fun e => { e with
        members := modNth (fun m => (m.1, seat, gen)) e.members self, known := nodupNat (self :: e.known) }) s
      let s := modSide i (fun d => { d with
        splitReady := d.splitReady.filter (· != self), hits := if self = 0 then 64 * hits else d.hits }) s
      if (s.side i).splitReady = [] ∧ (s.side i).lookupDone = false then endSplitLookup i s else s

/-- SPLIT_OPENED (R198, R256). -/
def execSplitOpened (t : BitVec 64) (peer : BitVec 6) (reqid : BitVec 64) (seat gen : BitVec 16) (self : BitVec 5)
    (refused : Bool) (hits : BitVec 18) (s : State) : Host.Outcome State Fault Refusal :=
  if !s.mainOn then .next (tick t s) else
  .next (fromPeer peer.toNat 1 0x71 reqid 0
    (splitOpenedTaken peer.toNat reqid seat.toNat gen.toNat self.toNat refused hits.toNat) (tick t s))

/-- SPLIT_CLOSE: the follower seat closes with the reason given (R19, R256). -/
def execSplitClose (t : BitVec 64) (peer : BitVec 6) (seat gen : BitVec 16) (reason : BitVec 8) (s : State) :
    Host.Outcome State Fault Refusal :=
  if !s.mainOn then .next (tick t s) else
  .next (fromPeer peer.toNat 1 0x72 0 0 (fun s =>
    if s.splitRef seat.toNat gen.toNat 2 then closeSeat seat.toNat reason.toNat s else bump 0x07 s) (tick t s))

/-- An entry without some of its bindings: LINK returns to 0 where none is left, but for a seat that lost its peer (R106). -/
def SplitEnt.without (e : SplitEnt) (gone : Nat × Nat → Bool) : SplitEnt :=
  let b := e.bound.filter fun p => !gone p
  { e with bound := b, link := if e.link = 1 ∧ b = [] then 0 else e.link }

/-- Bindings to local epochs that are over, or that no deal will carry, end (R107, R116). -/
def endBindings (gone : Nat → Bool) (s : State) : State :=
  modDeals (fun d => { d with splits := tmap SplitEnt.empty (fun _ e => e.without fun b => gone b.2) d.splits }) s

/-- The seat is left unbound: its offer and its wait for a QUERY end (R114). -/
def unbind (i : Nat) (s : State) : State :=
  modDeals (fun d => { d with
    offers := d.offers.filter fun o => o.seat != i, followWaits := d.followWaits.filter fun w => w.1 != i })
    (modSplit i (fun e => { e with link := 0, bound := [] }) s)

/-- SPLIT_PAUSE: PAUSEREQ on the follower seat, which is left unbound (R114). -/
def execSplitPause (t : BitVec 64) (peer : BitVec 6) (seat gen : BitVec 16) (s : State) : Host.Outcome State Fault Refusal :=
  if !s.mainOn then .next (tick t s) else
  .next (fromPeer peer.toNat 1 0x73 0 0 (fun s =>
    if s.splitRef seat.toNat gen.toNat 2 then modSeat seat.toNat (fun a => { a with pauseReq := true }) (unbind seat.toNat s)
    else bump 0x07 s) (tick t s))

/-- SPLIT_RESUME (R114). -/
def execSplitResume (t : BitVec 64) (peer : BitVec 6) (seat gen : BitVec 16) (s : State) : Host.Outcome State Fault Refusal :=
  if !s.mainOn then .next (tick t s) else
  .next (fromPeer peer.toNat 1 0x74 0 0 (fun s =>
    if s.splitRef seat.toNat gen.toNat 2 then resumeSeat seat.toNat s else bump 0x07 s) (tick t s))

/-! Joint deals (R107). -/

/-- JOINT_BIND to the lead (R107, R256). -/
def sendBind (peer el lseat lgen : Nat) (refused : Bool) (ef : Nat) (s : State) : State :=
  sendN peer 0x76 3 [(44, 0)]
    [pack [(48, el), (16, 0)], pack [(16, lseat), (16, lgen), (1, bit refused), (31, 0)], pack [(48, ef), (16, 0)]] 0 [] s

/-- JOINT_OFFER: it waits for a composition of the seat's model, or is refused for a seat that is closed or Paused (R107, R119).
A refusal for a seat that is gone names its lead by free values, since nothing tells the follower which lead it was. -/
def offerTaken (peer el seat gen rows : Nat) (s : State) : State :=
  let s := lend peer el s
  if !s.splitRef seat gen 2 then
    let a := takeFree s
    let b := takeFree a.2
    sendBind peer el (a.1 % 65536) (b.1 % 65536) true 0 b.2
  else match (s.seat seat).state with
    | .paused | .spilled | .draining | .closed | .free =>
      let l := (s.split seat).leadRef
      sendBind peer el l.1 l.2 true 0 s
    | _ => modDeals (fun d => { d with offers := (d.offers.filter fun o => o.seat != seat) ++ [⟨seat, el, rows, peer⟩] }) s

/-- JOINT_OFFER (R107, R112): the first message of a lead epoch brings its own lease. -/
def execJointOffer (t : BitVec 64) (peer : BitVec 6) (el : BitVec 48) (seat gen : BitVec 16) (rows : BitVec 4) (s : State) :
    Host.Outcome State Fault Refusal :=
  if !s.mainOn then .next (tick t s) else
  .next (fromPeerJoint peer.toNat 0x75 el.toNat (pack [(48, el.toNat), (16, 0)])
    (offerTaken peer.toNat el.toNat seat.toNat gen.toNat rows.toNat) (tick t s))

/-- The lead takes a bind: a refusal closes the split seat with 0x40; a stale reference is counted, and a bind to an epoch already
complete binds nothing (R20, R107). -/
def bindTaken (el seat gen : Nat) (refused : Bool) (s : State) : State :=
  if !s.splitRef seat gen 1 then bump 0x07 s
  else if refused then failSeat seat 0x40 (bump 0x5E s)
  else if el ≤ s.deals.lastDone then s
  else modSplit seat (fun e => { e with
    jEpoch := max e.jEpoch el, localEpoch := max e.jEpoch el, link := if e.link = 3 then 3 else 1
    bound := if e.bound.contains (el, el) then e.bound else e.bound ++ [(el, el)] }) s

/-- JOINT_BIND (R107). -/
def execJointBind (t : BitVec 64) (peer : BitVec 6) (el : BitVec 48) (seat gen : BitVec 16) (refused : Bool) (ef : BitVec 48)
    (s : State) : Host.Outcome State Fault Refusal :=
  if !s.mainOn then .next (tick t s) else
  let x : Gated := ⟨.jointBind t peer el seat gen refused ef, 2, 0, 0, .N, peer.toNat, 3, 0⟩
  .next (fromPeerLeased x 0x76 el.toNat (pack [(48, el.toNat), (16, 0)])
    (fun s => let _ := ef; bindTaken el.toNat seat.toNat gen.toNat refused s) (tick t s))

/-- A follower's seat follows its lead out of Prefilling with the lead's first token (R25; log entry 53): it is Dealt where the running
deal holds its rows, else Ready. -/
def followerReady (seat : Nat) (s : State) : State :=
  if (s.seat seat).state ≠ .prefilling then s
  else
    let run := s.deals.running.any fun r => r.deal.holds seat (s.seat seat).gen.toNat && !r.voided.contains seat && !r.abandoned
    modSeat seat (fun a => { a with state := if run then .dealt else .ready }) s

/-- The follower learns of the launch, of the live rows and of the tokens emitted before it (R107): with no live row no QUERY
comes, so nothing is waited for and the binding is over. -/
def goTaken (peer el seat gen live : Nat) (toks : List (BitVec 20)) (s : State) : State :=
  let s := lend peer el s
  if !s.splitRef seat gen 2 then bump 0x07 s
  else
    let s := modSide seat (fun d => { d with emitted := d.emitted ++ toks.map (·.toNat) }) s
    let s := if toks = [] then s else followerReady seat s
    if live = 0 ∧ ((s.split seat).bound.any fun b => b.1 == el) = true then
      modDeals (fun d => { d with followWaits := d.followWaits.filter fun w => w.1 != seat })
        (modSplit seat (fun e => e.without fun b => b.1 == el) s)
    else s

/-- JOINT_GO (R107). -/
def execJointGo (t : BitVec 64) (peer : BitVec 6) (el : BitVec 48) (seat gen : BitVec 16) (liveRows : BitVec 4)
    (firstPos : BitVec 24) (toks : List (BitVec 20)) (s : State) : Host.Outcome State Fault Refusal :=
  if !s.mainOn then .next (tick t s) else
  .next (fromPeerJoint peer.toNat 0x77 el.toNat (pack [(48, el.toNat), (16, 0)])
    (fun s => let _ := firstPos; goTaken peer.toNat el.toNat seat.toNat gen.toNat liveRows.toNat toks s) (tick t s))

/-- JOINT_OFFER to each follower of a lead whose rows a deal holds; the lead lends for its new epoch (R107, R244). -/
def offerSeat (epoch : Nat) (x : DealSeat) (s : State) : State :=
  if (s.seat x.seat).role ≠ 1 ∨ (x.kind ≠ 1 ∧ x.kind ≠ 2) then s
  else each (fun (m : Nat × Nat × Nat) s =>
    match s.peerOf m.1 with
    | some p => sendJoint p 0x75 [(44, 0)]
        [pack [(48, epoch), (16, 0)], seatWord m.2.1 m.2.2 (x.rows * 2 ^ 28)] (lend p epoch s)
    | none => s) (s.split x.seat).others s

/-- JOINT_GO to each follower of a lead (R107): live rows and the tokens emitted at the boundary before. -/
def goSeat (epoch live : Nat) (x : DealSeat) (toks : List Nat) (s : State) : State :=
  if (s.seat x.seat).role ≠ 1 ∨ (x.kind ≠ 1 ∧ x.kind ≠ 2) then s
  else
    let first := (s.seat x.seat).nextPos.toNat - toks.length
    each (fun (m : Nat × Nat × Nat) s =>
      match s.peerOf m.1 with
      | some p => sendJoint p 0x77 [(4, live), (4, toks.length), (36, 0)]
          ([pack [(48, epoch), (16, 0)], pack [(16, m.2.1), (16, m.2.2), (24, first), (8, 0)]] ++ packToks toks.length toks)
          (lend p epoch s)
      | none => s) (s.split x.seat).others s

/-! The per-layer exchange (R108, R109, R258). -/

/-- An exchange message to the clusters: header words, PAYBYTES and TAG, payload as bytes, handed on unchanged (R246, R258). -/
def exchangeIn (op : Nat) (p : Payload) (rest : List Word) : Msg :=
  mkMsg .F 0 op [(44, 0)] (payWord p.bytes.toNat p.tag.toNat :: rest) (beatsOf p.bytes.toNat) p.pay

/-- A QUERY reaches a follower: handed to the clusters when its epoch is bound there, else discarded and counted; a stale reference
is counted (R20, R108). -/
def queryTaken (el layer rows seat gen : Nat) (p : Payload) (s : State) : State :=
  if !s.splitRef seat gen 2 then bump 0x55 (bump 0x07 s)
  else if !((s.split seat).bound.any fun b => b.1 == el) then bump 0x55 s
  else
    let s := modDeals (fun d => { d with followWaits := d.followWaits.filter fun w => w.1 != seat }) s
    sendF [s.seatGroup seat] (exchangeIn 0x78 p [pack [(48, el), (12, layer), (4, rows)], seatWord seat gen 0]) s

/-- QUERY arrives on port N. -/
def execQuery (t : BitVec 64) (peer : BitVec 6) (el : BitVec 48) (layer : BitVec 12) (rows : BitVec 4 × Payload)
    (seat gen : BitVec 16) (s : State) : Host.Outcome State Fault Refusal :=
  if !s.mainOn then .next (tick t s) else
  let x : Gated := ⟨.query t peer el layer rows seat gen, 2, 1, rows.2.tag.toNat, .N, peer.toNat, 3, beatsOf rows.2.bytes.toNat⟩
  .next (fromPeerLeased x 0x78 el.toNat (payWord rows.2.bytes.toNat rows.2.tag.toNat)
    (queryTaken el.toNat layer.toNat rows.1.toNat seat.toNat gen.toNat rows.2) (tick t s))

/-- A PARTIAL reaches the lead: discarded and counted unless it is of the running deal; else handed to the clusters, and the wait
for that member ends (R108, R109). -/
def partialTaken (el layer seat gen self : Nat) (p : Payload) (s : State) : State :=
  let run := s.deals.running.any fun r => r.deal.epoch == el && !r.abandoned && r.deal.holds seat gen
  if !s.splitRef seat gen 1 then bump 0x55 (bump 0x07 s)
  else if !run then bump 0x55 s
  else
    let cut := fun (w : PeerWait) => if w.seat == seat && w.layer == layer then { w with owed := w.owed.filter (· != self) } else w
    let ws := s.deals.peerWaits.map cut
    let done := ws.any fun w => w.seat == seat && w.layer == layer && w.owed == []
    let more := fun (r : Running) => if done then { r with peers := tput 0 r.peers seat (max (layer + 1) (tget 0 r.peers seat)) } else r
    let s := modDeals (fun d => { d with peerWaits := ws.filter fun w => w.owed != [], running := d.running.map more }) s
    sendF [s.seatGroup seat]
      (exchangeIn 0x79 p [pack [(48, el), (12, layer), (4, 0)], pack [(16, seat), (16, gen), (5, self), (27, 0)]]) s

/-- PARTIAL arrives on port N. -/
def execPartialMsg (t : BitVec 64) (peer : BitVec 6) (el : BitVec 48) (layer : BitVec 12) (seat gen : BitVec 16)
    (self : BitVec 5 × Payload) (s : State) : Host.Outcome State Fault Refusal :=
  if !s.mainOn then .next (tick t s) else
  let x : Gated := ⟨.partialMsg t peer el layer seat gen self, 2, 0, self.2.tag.toNat, .N, peer.toNat, 3, beatsOf self.2.bytes.toNat⟩
  .next (fromPeerLeased x 0x79 el.toNat (payWord self.2.bytes.toNat self.2.tag.toNat)
    (partialTaken el.toNat layer.toNat seat.toNat gen.toNat self.1.toNat self.2) (tick t s))

/-- A tag for a payload message that no answer names (R246). -/
def payTag (s : State) : Nat × State :=
  let n := s.kv.nextTag % 2 ^ 24
  (n, modKv (fun k => { k with nextTag := (n + 1) % 2 ^ 24 }) s)

/-- A payload message of the exchange to a peer: kind 8 a QUERY, 9 a PARTIAL (R108, R109, R244). -/
def sendExchange (peer op i kind ntok bytes : Nat) (pay : List Word) (rest : List Word) (s : State) : State :=
  let t := payTag s
  sendFor (mkMsg .N peer op [(44, 0)] (payWord bytes t.1 :: rest) (beatsOf bytes) pay) 3 i kind ntok t.2

/-- A lead's QUERY goes to every follower; the peer wait begins as it leaves (R108, R109). -/
def queryOut (seat el layer rows bytes : Nat) (pay : List Word) (s : State) : State :=
  let e := s.split seat
  let others := (List.range e.mem.length).filter fun k => k != e.self
  let s := modDeals (fun d => { d with peerWaits := d.peerWaits ++ [⟨seat, layer, others, none⟩] }) s
  each (fun k s => match e.members[k]? with
    | some m => match s.peerOf m.1 with
      | some p => sendExchange p 0x78 seat 8 layer bytes pay [pack [(48, el), (12, layer), (4, rows)], seatWord m.2.1 m.2.2 0] s
      | none => s
    | none => s) others s

/-- A follower's PARTIAL goes to the lead (R108). -/
def partialOut (seat el layer bytes : Nat) (pay : List Word) (s : State) : State :=
  let e := s.split seat
  let l := e.leadRef
  let a := s.seat seat
  let last := decide ((s.model a.model.toNat a.modelVs.toNat).f.layers.toNat ≤ layer + 1)
  sendExchange (s.side seat).leadPeer 0x79 seat 9 (bit (!last)) bytes pay
    [pack [(48, el), (12, layer), (4, 0)], pack [(16, l.1), (16, l.2), (5, e.self), (27, 0)]] s

/-- The running deal carries a seat's part of a lead epoch: it is not abandoned, the seat's rows are not void, and its seat lease
stands (R108, R111, R117). -/
def State.carries (s : State) (seat gen el : Nat) (follower : Bool) : Bool :=
  s.deals.running.any fun r => !r.abandoned && r.deal.holds seat gen && !r.voided.contains seat && (s.side seat).leaseN &&
    (if follower then (s.split seat).bound.contains (el, r.deal.epoch) else r.deal.epoch == el)

/-- The clusters hand an outbound QUERY or PARTIAL to port N (R108, R258); what the running deal does not carry, as after a stop, is
discarded and counted, and so is a stale reference (R20, R117). -/
def exchangeOut (isQuery : Bool) (seat gen el layer rows bytes : Nat) (pay : List Word) (s : State) : State :=
  if !s.splitRef seat gen (if isQuery then 1 else 2) then bump 0x55 (bump 0x07 s)
  else if !s.carries seat gen el (!isQuery) then bump 0x55 s
  else if isQuery then queryOut seat el layer rows bytes pay s
  else partialOut seat el layer bytes pay s

/-- An outbound exchange message arrives on port F for port N. -/
def execClusterExchangeOut (t : BitVec 64) (isQuery : Bool) (seat gen : BitVec 16) (el : BitVec 48) (layer : BitVec 12)
    (rows : BitVec 4) (bytes : BitVec 40 × List Word) (s : State) : Host.Outcome State Fault Refusal :=
  if !s.mainOn then .next (tick t s) else
  let s := tick t s
  if !s.portOpen .F then .next s
  else .next (finish (exchangeOut isQuery seat.toNat gen.toNat el.toNat layer.toNat rows.toNat bytes.1.toNat bytes.2 (bump 0xFE s)))

/-- A seat's rows of the running deal are voided: they emit no token (R109). -/
def voidRun (i : Nat) (s : State) : State :=
  let s := modDeals (fun d => { d with running := d.running.map fun r => { r with voided := r.voided ++ [i] } }) s
  modSieve (fun q => { q with rows := q.rows.filter fun r => r.seat != i, runs := q.runs.filter fun r => r.seat != i }) s

/-- PEERWAIT passes on the lead before every PARTIAL of a QUERY has arrived: LINK 3, the seat's rows are voided and it closes with
0x40; the layer is then released without the missing partials (R19, R109). -/
def execPeerwaitLeadExpiry (t : BitVec 64) (seat : BitVec 16) (s : State) : Host.Outcome State Fault Refusal :=
  if !s.mainOn then .next (tick t s) else
  let s := tick t s
  let i := seat.toNat
  match s.deals.peerWaits.find? fun w => w.seat == i && w.since.any fun b => decide (b + 1000 * s.fld F.HER_PEER_PEERWAIT ≤ s.now) with
  | none => .next s
  | some w =>
    let since := w.since.getD s.now
    let node := match w.owed.head? with
      | some k => match (s.split i).members[k]? with
        | some m => m.1
        | none => 0
      | none => 0
    let s := bump 0x54 (trace (mkTrc 0x0A s.epochNow node i w.layer since (s.now - since) false 1) s)
    let s := modDeals (fun d => { d with peerWaits := d.peerWaits.filter fun w => w.seat != i }) s
    .next (finish (failSeat i 0x40 (voidRun i (modSplit i (fun e => { e with link := 3 }) s))))

/-- PEERWAIT passes on a follower before the next QUERY: the follower seat closes with 0x40, and its part of the bound deal
completes empty (R109). -/
def execPeerwaitFollowerExpiry (t : BitVec 64) (seat : BitVec 16) (s : State) : Host.Outcome State Fault Refusal :=
  if !s.mainOn then .next (tick t s) else
  let s := tick t s
  let i := seat.toNat
  match s.deals.followWaits.find? fun w => w.1 == i && decide (w.2 + 1000 * s.fld F.HER_PEER_PEERWAIT ≤ s.now) with
  | none => .next s
  | some w =>
    let s := bump 0x54 (trace (mkTrc 0x0A s.epochNow (s.split i).lead i 0xFFF w.2 (s.now - w.2) false 0) s)
    .next (finish (failSeat i 0x40 (modSplit i (fun e => { e with link := 3 }) (unbind i s))))

end Sys2Proof.Machine
end

