-- ==== Sys2Proof/Machine/Dealer.lean ====
section
/-! DEFINITION. The Dealer: model choice, selection, rows and chunks, suits, placement, lanes and block linking (R67 to R80, R92),
hand-off with its port F messages (R85 to R89, R91, R161), and the feed (R72, R90). -/
namespace Sys2Proof.Machine

/-! The slot table (R76, R77, R81). -/

/-- An entry of a bank. -/
def State.slotIn (s : State) (bankB : Bool) (n : Nat) : Slot :=
  tget (slotDefault n) (if bankB then s.deals.bankB else s.deals.bankA) n

/-- Entries of the active bank with their numbers. -/
def State.slots (s : State) : List (Nat × Slot) := (List.range 256).map fun n => (n, s.slotIn s.deals.active n)

/-- Valid dense slots. -/
def State.denseSlots (s : State) : List (Nat × Slot) := s.slots.filter fun e => e.2.valid && decide (e.2.group < 16)

/-- Valid stream slots. -/
def State.streamSlots (s : State) : List (Nat × Slot) := s.slots.filter fun e => e.2.valid && decide (16 ≤ e.2.group)

/-- The active bank can carry a deal (R78). -/
def State.tableOk (s : State) : Bool :=
  s.denseSlots.any (fun e => decide (0 < e.2.rowCap)) && s.streamSlots.any (fun e => decide (0 < e.2.seatCap))

/-! What a seat is due (R28, R69, R71, R73, R92). -/

/-- What a seat is due in the next deal: rows 1 + q of a kind, or a chunk from a position. -/
inductive Due where
  | nothing
  | rows (kind q : Nat) (follow : Bool)
  | chunk (start : Nat)
  deriving DecidableEq, Repr

/-- A seat's entry in the running deal. -/
def State.inRun (s : State) (i : Nat) : Option DealSeat := match s.deals.running with
  | some r => r.deal.seats.find? fun x => x.seat == i && x.gen == (s.seat i).gen.toNat
  | none => none

/-- Q of R71, with the rows a seat holds in the running deal. -/
def Seat.q (a : Seat) (inRun : Bool) : Nat :=
  if !a.draftOn || a.draftMax == 0 then 0
  else if inRun then min a.draftMax.toNat (a.draftLen.toNat + 1) else a.draftLen.toNat

/-- The kind of a row seat with a given Q. -/
def rowKind (q : Nat) : Nat := if q = 0 then 1 else 2

/-- The whole prompt has arrived. -/
def State.promptIn (s : State) (i : Nat) : Bool := decide (s.tokLimit i ≤ (s.side i).toks.length)

/-- A chunk from a position can be due: tokens remain, and either the whole prompt or 64 tokens have arrived (R73). -/
def State.chunkDue (s : State) (i start : Nat) : Bool :=
  s.rd F.DEAL_CTRL_CHUNKEN == 1 && decide (start < (s.seat i).promptLen.toNat) &&
    (s.promptIn i || decide (start + 64 ≤ (s.side i).toks.length))

/-- A follower seat is due the rows that an offer brings it (R92); its stretch is in place from Prefilling on (log entry 53). -/
def State.offered (s : State) (i : Nat) : Due := match s.deals.offers.find? fun o => o.seat == i with
  | some o => .rows 5 (o.rows - 1) false
  | none => .nothing

/-- What a seat is due (R69, R71, R73, R92). A seat that a failure of the running deal closes at its boundary is due
nothing, and one with MAXTOK 0 draws no first token, so it is due no follow-on rows. -/
def State.dueOf (s : State) (i : Nat) : Due :=
  let a := s.seat i
  if a.cancel || a.pauseReq || a.stopSeen || (s.side i).badReason != 0 then .nothing
  else
    let chunk := fun p => if s.chunkDue i p then Due.chunk p else .nothing
    match a.state with
    | .ready | .dealt =>
      if a.role = 2 then s.offered i
      else
        let q := a.q (match s.inRun i with
          | some x => x.rows != 0
          | none => false)
        .rows (rowKind q) q false
    | .prefilling => if a.role = 2 then s.offered i else match s.inRun i with
      | some x =>
        if x.kind = 4 then
          if s.rd F.DEAL_CTRL_FOLLOWON = 1 ∧ a.maxTok ≠ 0 then .rows (rowKind (a.q false)) (a.q false) true else .nothing
        else chunk (x.chunkStart + x.chunkLen)
      | none => chunk a.prefilled.toNat
    | _ => .nothing

/-- The seat's pinned draft version forbids dealing it: POISONED (R215). -/
def State.draftBad (s : State) (i : Nat) : Bool :=
  let a := s.seat i
  a.draftOn && (s.model a.draftM.toNat a.draftVs.toNat).poisoned

/-- The seat has trick rows to come whose draft version is not resident (R213). -/
def State.draftCold (s : State) (i : Nat) : Bool :=
  let a := s.seat i
  match s.dueOf i with
  | .rows 2 _ _ => !(s.model a.draftM.toNat a.draftVs.toNat).hotres
  | _ => false

/-- The seat's pinned main model version. -/
def Seat.ver (a : Seat) : Nat × Nat := (a.model.toNat, a.modelVs.toNat)

/-- A main model version can run: READY, not POISONED, and resident when class H (R68). -/
def State.mainOk (s : State) (m v : Nat) : Bool := (s.model m v).usable && (!s.classH m v || (s.model m v).hotres)

/-- Seats that are due something, rising. -/
def State.dueSeats (s : State) : List Nat := s.seatIdx.filter fun i => s.dueOf i != .nothing && !s.draftBad i

/-- R28 allows work for a seat: Prefilling, Ready or Dealt with its flags clear; a follower only for an offer (R92). -/
def State.allowed (s : State) (i : Nat) : Bool :=
  let a := s.seat i
  !a.cancel && !a.pauseReq && !a.stopSeen && (s.side i).badReason == 0 &&
    (a.state == .prefilling || a.state == .ready || a.state == .dealt) &&
    (a.role != 2 || s.deals.offers.any fun o => o.seat == i)

/-- A seat is considered under a main model (R69, R213). -/
def State.considered (s : State) (i m v : Nat) : Bool := (s.seat i).ver == (m, v) && s.mainOk m v && !s.draftCold i

/-- A model can be dealt (R68). -/
def State.canDeal (s : State) (mv : Nat × Nat) : Bool := s.dueSeats.any fun i => s.considered i mv.1 mv.2

/-! The model of the deal (R68). -/

/-- Deals handed off since a seat first became dealable. -/
def State.since (s : State) (i : Nat) : Nat := match (s.side i).dealableAt with
  | some n => n
  | none => s.deals.dealsHanded

/-- Waiting seats in the order of R68: longest wait, lowest model index, lowest version slot. -/
def State.waiters (s : State) (cur : Option (Nat × Nat)) : List Nat :=
  let key := fun i => (s.since i, (s.seat i).model.toNat, (s.seat i).modelVs.toNat)
  sortBy (fun a b =>
    let x := key a
    let y := key b
    decide (x.1 < y.1) || (x.1 == y.1 && (decide (x.2.1 < y.2.1) || (x.2.1 == y.2.1 && decide (x.2.2 ≤ y.2.2)))))
    (s.dueSeats.filter fun i => cur != some (s.seat i).ver)

/-- A waiting seat's model is passed over for want of residency. -/
def State.coldMain (s : State) (i : Nat) : Bool :=
  let v := (s.seat i).ver
  (s.model v.1 v.2).usable && s.classH v.1 v.2 && !(s.model v.1 v.2).hotres

/-- The version whose load the Dealer asks for when it passes a seat over: a class H main model that is not resident, or the draft
version of trick rows to come (R68, R213). -/
def State.asksFor (s : State) (i : Nat) : Option (Nat × Nat) :=
  let a := s.seat i
  if s.coldMain i then some a.ver
  else if s.draftCold i && s.mainOk a.ver.1 a.ver.2 then some (a.draftM.toNat, a.draftVs.toNat)
  else none

/-- The model of the next deal, if any can be dealt, and the seats passed over for want of a version in the hot set (R68, R213). -/
def State.chooseModel (s : State) : Option (Nat × Nat) × List Nat :=
  let cur := s.deals.prevModel
  let curOk := match cur with
    | some mv => s.canDeal mv
    | none => false
  let w := s.waiters cur
  if curOk && !(w.any fun i => decide (s.since i + s.fld F.DEAL_TIMING_MODELWAIT ≤ s.deals.dealsHanded)) then (cur, [])
  else
    let before := w.takeWhile fun i => !s.canDeal (s.seat i).ver
    let mv := match w.find? fun i => s.canDeal (s.seat i).ver with
      | some i => some (s.seat i).ver
      | none => if curOk then cur else none
    let curCold := match cur with
      | some c => if curOk then [] else s.dueSeats.filter fun i => (s.seat i).ver == c
      | none => []
    (mv, (before ++ curCold).filter fun i => (s.asksFor i).isSome)

/-- The Dealer asks for a hot-set load and sets HOTWAIT (R68, R213). -/
def askHot (m v : Nat) (s : State) : State := hotStart m v (setFlag F.MOD_FLAGS_HOTWAIT s)

/-- The loads that the Dealer's test of the seats asks for when no deal can be composed (R213). -/
def askHots (l : List Nat) (s : State) : State :=
  each (fun i s => match s.asksFor i with
    | some v => askHot v.1 v.2 s
    | none => s) l s

/-- A seat is passed for want of a version in the hot set: counted and traced (R213, R285, R290). -/
def passHot (i : Nat) (s : State) : State := match s.asksFor i with
  | some v => askHot v.1 v.2 (trace (mkTrc 0x0B s.deals.nextEpoch v.1 i 0xFFF s.now 0 false v.2) (bump 0x4C s))
  | none => s

/-- Seats become dealable, or cease to be (R68). -/
def markDealable (s : State) : State :=
  let l := s.dueSeats
  let at_ := fun (i : Nat) (d : Side) =>
    if l.contains i then some (d.dealableAt.getD s.deals.dealsHanded) else none
  each (fun i s => modSide i (fun d => { d with dealableAt := at_ i d }) s)
    (nodupNat (l ++ (s.led.sides.filter fun e => e.2.dealableAt.isSome).map (·.1))) s

/-! Linking (R80, R180). -/

/-- Positions that a seat's rows could write to, as one more than the last: with rows in the running deal every reserved row of
both deals is taken as accepted (R80). -/
def State.rowEnd (s : State) (i q : Nat) : Nat :=
  let a := s.seat i
  let now := match s.inRun i with
    | some x => if x.kind = 4 then 1 else x.rows
    | none => 0
  a.nextPos.toNat + now + q

/-- Prompt tokens go from the prompt store into the tags of newly linked blocks, and their pages are released (R180). -/
def tagPrompt (i : Nat) (blocks : List Nat) (first : Nat) (s : State) : State :=
  let lim := (s.side i).toks.length + s.tokOff i
  let s := (each (fun b (p : Nat × State) =>
    (p.1 + 1, modBlk b (fun x => { x with toks := p.2.blockToks i p.1 lim }) p.2)) blocks (first, s)).2
  freePagesOf i (fun j => decide (first ≤ j ∧ j < first + blocks.length)) s

/-- Blocks are linked until the chain covers positions below `last`; none when they cannot be supplied. -/
def linkTo (i last : Nat) (s : State) : Option (Nat × State) :=
  let have_ := (s.seat i).kvBlocks.toNat
  let n := ceilDiv (last - s.tokBase i) 64 - have_
  if n = 0 then some (0, s)
  else if !s.canTake n then none
  else
    let s := (growChain i .filling n s).2
    some (n, tagPrompt i ((s.chain i).drop have_) (s.blkBase i + have_ + 1) s)

/-! Selection and dense placement (R70, R74, R78). -/

/-- A composition under way: seats selected, rows per dense slot, chunk tokens per dense slot, rows and budget used, seats
passed. -/
structure Plan where
  seats : List DealSeat
  rowsAt : List (Nat × Nat)
  chunkAt : List (Nat × Nat)
  rows : Nat
  charged : Nat
  passed : List Nat
  deriving DecidableEq, Repr

/-- A seat is passed. -/
def Plan.pass (p : Plan) (i : Nat) : Plan := { p with passed := p.passed ++ [i] }

/-- Seats a deal may hold (R67). -/
def State.seatLimit (s : State) : Nat :=
  min (min 16384 (s.rd F.DEAL_LIMITS_MAXSEATS)) (sumOf (s.streamSlots.map fun e => e.2.seatCap))

/-- REPPEN is not 1.0, or FREQPEN or PRESPEN is not 0.0 (R91); a follower's rows yield no logits. -/
def Seat.biased (a : Seat) : Bool :=
  a.role != 2 && (a.reppen != 0x3F800000 || a.freqpen.toNat % 2 ^ 31 != 0 || a.prespen.toNat % 2 ^ 31 != 0)

/-- A descriptor entry before linking, stream placement and lanes. -/
def State.newEntry (s : State) (i kind dense rows start len : Nat) (follow : Bool) : DealSeat :=
  let a := s.seat i
  ⟨i, a.gen.toNat, kind, follow, a.role == 1, a.biased, 0x3FFF, 0, dense, (s.slotIn s.deals.active dense).group, 0, rows,
    a.kvHead.toNat, a.kvTail.toNat, start, len, 0⟩

/-- Of two slots, the one with more room. -/
def moreRoom (a b : Nat × Nat) : Bool := decide (b.2 < a.2)

/-- One seat due rows: the dense slot with most row room that holds them, under the limits of R67 (R70, R78). -/
def placeRows (s : State) (i : Nat) (w : Plan) : Plan :=
  match s.dueOf i with
  | .rows kind q follow =>
    let n := q + 1
    let room := (s.denseSlots.map fun e => (e.1, e.2.rowCap - tget 0 w.rowsAt e.1)).filter fun e => decide (n ≤ e.2)
    let fits := decide (w.seats.length < s.seatLimit ∧ w.rows + n ≤ min 131072 (s.rd F.DEAL_LIMITS_MAXROWS))
    match bestOf moreRoom room with
    | none => w.pass i
    | some (d, _) =>
      if !fits then w.pass i
      else { w with
        seats := w.seats ++ [s.newEntry i kind d n 0 0 follow], rows := w.rows + n
        rowsAt := tput 0 w.rowsAt d (tget 0 w.rowsAt d + n) }
  | _ => w

/-- The kitty of a privileged slot (R74). -/
def kittyOf (sl : Slot) (rows : Nat) : Nat := min (64 * sl.chunkCap) (64 * ((sl.rowCap - rows) / 64))

/-- Chunk room of a dense slot once rows are placed (R74). -/
def chunkRoom (sl : Slot) (rows : Nat) : Nat := if sl.priv then kittyOf sl rows else 64 * sl.chunkCap

/-- Kitty tokens of a deal. -/
def State.kittySum (s : State) (w : Plan) : Nat :=
  sumOf ((s.denseSlots.filter fun e => e.2.priv).map fun e => kittyOf e.2 (tget 0 w.rowsAt e.1))

/-- The deal's chunk budget (R74). -/
def State.budgetOf (s : State) (w : Plan) : Nat :=
  min (min 65536 (64 * s.rd F.DEAL_LIMITS_MAXCHUNK)) (sumOf (s.denseSlots.map fun e => chunkRoom e.2 (tget 0 w.rowsAt e.1)))

/-- The chunk of R73: its tokens and whether it is the final one; none passes the seat. -/
def chunkSize (whole : Bool) (rem av ct lim : Nat) : Option (Nat × Bool) :=
  if whole && decide (rem ≤ ct ∧ 64 * ceilDiv rem 64 ≤ lim) then some (rem, true)
  else
    let n := min (min ct (64 * (av / 64))) (min (64 * (lim / 64)) (64 * ((rem - 1) / 64)))
    if 0 < n then some (n, false) else none

/-- One seat due a chunk: the dense slot with most chunk room (R70, R73, R78). -/
def placeChunk (s : State) (budget i : Nat) (w : Plan) : Plan :=
  match s.dueOf i with
  | .chunk start =>
    let room := (s.denseSlots.map fun e => (e.1, chunkRoom e.2 (tget 0 w.rowsAt e.1) - tget 0 w.chunkAt e.1)).filter
      fun e => decide (64 ≤ e.2)
    let rem := (s.seat i).promptLen.toNat - start
    let av := (s.side i).toks.length - start
    match bestOf moreRoom room with
    | none => w.pass i
    | some (d, r) =>
      if s.seatLimit ≤ w.seats.length then w.pass i
      else match chunkSize (s.promptIn i) rem av (s.chunkTok i) (min r (budget - w.charged)) with
        | none => w.pass i
        | some (n, final) =>
          let c := 64 * ceilDiv n 64
          { w with
            seats := w.seats ++ [s.newEntry i (if final then 4 else 3) d 0 start n false], charged := w.charged + c
            chunkAt := tput 0 w.chunkAt d (tget 0 w.chunkAt d + c) }
  | _ => w

/-- Blocks for every position that an entry's rows or chunk could write, or none when they cannot be supplied (R80); a follower
writes no position of its own. -/
def linkEntry (x : DealSeat) (s : State) : Option (Nat × State) :=
  if x.kind = 5 then some (0, s)
  else if x.rows ≠ 0 then linkTo x.seat (s.rowEnd x.seat (x.rows - 1)) s
  else linkTo x.seat (x.chunkStart + x.chunkLen) s

/-- Linking, in selection order: the entries linked, the seats passed and the state after. The first seat that falls short is
passed with every seat not yet linked (R80, R93). DESIGN CHOICE: linking is a phase of its own after dense and chunk placement, and
the room that passed seats held is not given to others (log entry 54). -/
def linkSeats : List DealSeat → State → List DealSeat × List Nat × State
  | [], s => ([], [], s)
  | x :: r, s => match linkEntry x s with
    | none => ([], (x :: r).map (·.seat), setFlag F.PKV_FLAGS_ALLOCSHORT (bump 0x8E s))
    | some (b, s) =>
      let a := s.seat x.seat
      let t := linkSeats r s
      ({ x with kvHead := a.kvHead.toNat, kvTail := a.kvTail.toNat, newBlocks := b } :: t.1, t.2)

/-- The selection order of R70: pass mark, class, then a key, then seat index. -/
def State.dealOrder (s : State) (key : Nat → Nat) (l : List Nat) : List Nat :=
  let k := fun i => (bit (!(s.side i).passed), (s.seat i).cls.toNat, key i, i)
  sortBy (fun a b =>
    let x := k a
    let y := k b
    decide (x.1 < y.1) || (x.1 == y.1 && (decide (x.2.1 < y.2.1) || (x.2.1 == y.2.1 &&
      (decide (x.2.2.1 < y.2.2.1) || (x.2.2.1 == y.2.2.1 && decide (x.2.2.2 ≤ y.2.2.2))))))) l

/-! Suits and stream placement (R75, R78). -/

/-- A seat's suit key (R75). -/
def State.suitKey (s : State) (i : Nat) : Option Nat :=
  let n := (s.seat i).shared.toNat
  if n = 0 ∨ n < s.rd F.DEAL_SUITCFG_SUITMINBLK ∨ s.rd F.DEAL_CTRL_SUITEN = 0 then none else (s.chain i)[n - 1]?

/-- The attention length of a dealt seat (R78); a follower attends over its stretch. -/
def State.attention (s : State) (x : DealSeat) : Nat :=
  if x.kind = 3 ∨ x.kind = 4 then x.chunkStart + x.chunkLen
  else if x.kind = 5 then (s.split x.seat).len else (s.seat x.seat).nextPos.toNat

/-- Members by suit key, in order of seat index. -/
def State.suits (s : State) (l : List DealSeat) : List (List DealSeat) :=
  let l := sortBy (fun (a b : DealSeat) => decide (a.seat ≤ b.seat)) l
  let keys := nodupNat (l.filterMap fun x => s.suitKey x.seat)
  let groups := (keys.map fun k => l.filter fun x => s.suitKey x.seat == some k).filter fun g =>
    decide (max 1 (s.rd F.DEAL_SUITCFG_SUITMIN) ≤ g.length)
  sortBy (fun a b => decide (b.length < a.length) || (a.length == b.length &&
    decide ((a.head?.map (·.seat)).getD 0 ≤ (b.head?.map (·.seat)).getD 0))) groups

/-- Stream placement under way: seats and KV tokens per stream slot, parts made, seats placed, seats dealt alone. -/
structure Stream where
  seatsAt : List (Nat × Nat)
  kvAt : List (Nat × Nat)
  parts : List SuitPart
  placed : List DealSeat
  alone : List DealSeat
  deriving DecidableEq, Repr

/-- The stream slot with seat room and fewest KV tokens (R78). -/
def State.streamSlot (s : State) (w : Stream) : Option (Nat × Nat) :=
  let room := (s.streamSlots.map fun e => (e.1, e.2.seatCap - tget 0 w.seatsAt e.1)).filter fun e => decide (0 < e.2)
  bestOf (fun a b => decide (tget 0 w.kvAt a.1 < tget 0 w.kvAt b.1)) room

/-- One suit, cut into parts; beyond 4,096 parts its members are dealt alone (R75, R78). -/
def placeSuit (s : State) : Nat → List DealSeat → Stream → Stream
  | 0, _, w => w
  | f + 1, ms, w => match ms with
    | [] => w
    | m :: _ =>
      if 4096 ≤ w.parts.length then { w with alone := w.alone ++ ms }
      else match s.streamSlot w with
        | none => { w with alone := w.alone ++ ms }
        | some (t, room) =>
          let now := ms.take room
          let sh := (s.seat m.seat).shared.toNat
          let id := w.parts.length
          let kv := 64 * sh + sumOf (now.map fun x => s.attention x - 64 * sh)
          placeSuit s f (ms.drop room) { w with
            seatsAt := tput 0 w.seatsAt t (tget 0 w.seatsAt t + now.length)
            kvAt := tput 0 w.kvAt t (tget 0 w.kvAt t + kv)
            parts := w.parts ++ [⟨id, t, (s.slotIn s.deals.active t).group, now.length, m.kvHead, 64 * sh⟩]
            placed := w.placed ++ now.map fun x => { x with suitId := id, streamSlot := t } }

/-- One lone seat (R78). -/
def placeLone (s : State) (x : DealSeat) (w : Stream) : Stream :=
  match s.streamSlot w with
  | none => w
  | some (t, _) => { w with
      seatsAt := tput 0 w.seatsAt t (tget 0 w.seatsAt t + 1)
      kvAt := tput 0 w.kvAt t (tget 0 w.kvAt t + s.attention x)
      placed := w.placed ++ [{ x with streamSlot := t }] }

/-- Stream placement of the selected seats: suits, then lone seats by attention length (R78). -/
def State.streamPlace (s : State) (l : List DealSeat) : Stream :=
  let gs := s.suits l
  let inSuit := fun (x : DealSeat) => gs.any fun g => g.any fun y => y.seat == x.seat
  let w := each (fun g w => placeSuit s (g.length + 1) g w) gs ⟨[], [], [], [], []⟩
  let lone := sortBy (fun a b => decide (s.attention b < s.attention a) ||
    (s.attention a == s.attention b && decide (a.seat ≤ b.seat))) (l.filter (fun x => !inSuit x) ++ w.alone)
  each (placeLone s) lone w

/-- Descriptor order (R85): stream slot, suit part, lone seats, seat index. -/
def descOrder (l : List DealSeat) : List DealSeat :=
  sortBy (fun a b => decide (a.streamSlot < b.streamSlot) || (a.streamSlot == b.streamSlot &&
    (decide (a.suitId < b.suitId) || (a.suitId == b.suitId && decide (a.seat ≤ b.seat))))) l

/-! Lanes (R79). -/

/-- Rows that a seat puts on its lane. -/
def DealSeat.laneRows (x : DealSeat) : Nat := if x.kind = 4 then 1 else if x.kind = 1 ∨ x.kind = 2 then x.rows else 0

/-- Lanes by fewest rows, ties to the lowest, in descriptor order. -/
def giveLanes (lanes : List Nat) : List (Nat × Nat) → List DealSeat → List DealSeat
  | _, [] => []
  | load, x :: r =>
    if x.laneRows = 0 then x :: giveLanes lanes load r
    else match bestOf (fun a b => decide (tget 0 load a < tget 0 load b)) lanes with
      | none => x :: giveLanes lanes load r
      | some k => { x with lane := k } :: giveLanes lanes (tput 0 load k (tget 0 load k + x.laneRows)) r

/-- Lanes enabled in SIEVE_LANEMAP in force. -/
def State.lanesOn (s : State) : List Nat :=
  (List.range s.grade.lanes).filter fun k => (tget (regDefault s.grade 0x2008) s.force 0x2008).getLsbD k

/-! The composition (R67 to R80, R83). -/

/-- Chunk tokens a deal's seats are charged. -/
def chargedOf (l : List DealSeat) : Nat := sumOf (l.map fun x => 64 * ceilDiv x.chunkLen 64)

/-- Rows of a deal. -/
def rowsOf (l : List DealSeat) : Nat := sumOf (l.map (·.rows))

/-- COMPCYC (R83): the table's cycles, and what ledger contention adds, a free value of at most 3,936. -/
def compCycles (m n c : Nat) (s : State) : State :=
  let f := takeFree s
  setFld F.DEAL_LAST2_COMPCYC (sat 0xFFFF (1024 + (m + 256) + 2 * (n + 256) + 1024 + 4 * c + f.1 % 3937)) f.2

/-- Pass marks of a composition (R70). -/
def setPassed (l : List Nat) (s : State) : State :=
  each (fun i s => modSide i (fun d => { d with passed := l.contains i }) s)
    (nodupNat (l ++ (s.led.sides.filter fun e => e.2.passed).map (·.1))) s

/-- A bound follower answers its offer: JEPOCH, LOCALEPOCH and LINK are set, JOINT_BIND leaves (R107). -/
def bindSeat (ef : Nat) (x : DealSeat) (s : State) : State :=
  if x.kind ≠ 5 then s
  else match s.deals.offers.find? fun o => o.seat == x.seat with
    | none => s
    | some o =>
      let s := modSplit x.seat (fun e => { e with
        jEpoch := o.el, localEpoch := ef, link := 1, bound := e.bound ++ [(o.el, ef)] }) s
      let l := (s.split x.seat).leadRef
      sendBind o.peer o.el l.1 l.2 false ef (modDeals (fun d => { d with offers := d.offers.filter fun y => y.seat != x.seat }) s)

/-- The composition of one main model: rows, the kitty and budget, chunks, linking, streams, lanes; a composition that selects no seat leaves
no deal (R70 to R80). -/
def composeFor (mv : Nat × Nat) (idle : Bool) (s : State) : State :=
  let epoch := s.deals.nextEpoch
  let mine := s.dueSeats.filter fun i => (s.seat i).ver == mv
  let m := (s.seatIdx.filter fun i => s.allowed i && !s.draftBad i && (s.seat i).ver == mv && !s.draftCold i).length
  let cold := mine.filter fun i => s.draftCold i
  let go := mine.filter fun i => !s.draftCold i
  let s := stageFor mv.1 mv.2 epoch (chipFor mv.1 mv.2 epoch s)
  let rowSeats := s.dealOrder (fun i => (s.seat i).lastEpoch.toNat) (go.filter fun i => match s.dueOf i with
    | .rows .. => true
    | _ => false)
  let chunkSeats := s.dealOrder (fun i => 2 ^ 64 - s.sinceArrival i) (go.filter fun i => match s.dueOf i with
    | .chunk .. => true
    | _ => false)
  let p := each (placeRows s) rowSeats ⟨[], [], [], 0, 0, []⟩
  let kitty := s.kittySum p
  let budget := s.budgetOf p
  let p := each (placeChunk s budget) chunkSeats p
  let l := linkSeats p.seats s
  let s := l.2.2
  let w := s.streamPlace l.1
  let seats := giveLanes s.lanesOn [] (descOrder w.placed)
  let passed := p.passed ++ l.2.1 ++ cold
  let deal : Deal := ⟨epoch, mv.1, mv.2, s.deals.active, seats, w.parts, chargedOf seats, budget, kitty, passed.length, 0, m, idle⟩
  let s := compCycles m seats.length (seats.filter fun x => x.chunkLen != 0).length
    (setFld F.DEAL_LAST1_PASSED passed.length (bumpN 0x42 passed.length (setPassed passed s)))
  if seats = [] then each passHot cold (modDeals (fun d => { d with composing := none }) s)
  else
    let s := bumpN 0x49 w.alone.length s
    let s := each (fun (x : DealSeat) s => modSide x.seat (fun d => { d with dealableAt := none }) s) seats s
    each passHot cold (modDeals (fun d => { d with composing := some deal }) (each (bindSeat epoch) seats s))

/-- The Dealer composes: seats are marked dealable, the model is chosen, seats passed over ask for loads (R68, R213). -/
def compose (idle : Bool) (s : State) : State :=
  let s := markDealable s
  let c := s.chooseModel
  each passHot c.2 (match c.1 with
    | none =>
      let cold := s.dueSeats.filter fun i => s.draftCold i && s.mainOk (s.seat i).ver.1 (s.seat i).ver.2
      setFld F.DEAL_LAST1_PASSED cold.length (bumpN 0x42 cold.length (setPassed cold s))
    | some mv => composeFor mv idle s)

/-! Hand-off (R28, R82, R85 to R89, R91, R161). -/

/-- R28 still allows a composed seat's rows. -/
def State.keeps (s : State) (x : DealSeat) : Bool :=
  let a := s.seat x.seat
  a.gen.toNat == x.gen && !a.cancel && !a.pauseReq && !a.stopSeen && (s.side x.seat).badReason == 0 &&
    (a.state == .prefilling || a.state == .ready || a.state == .dealt)

/-- A deal without the seats that a flag takes out before it is sent (R28). -/
def Deal.strip (d : Deal) (s : State) : Deal :=
  let seats := d.seats.filter s.keeps
  let parts := (d.suits.map fun p => { p with members := (seats.filter fun x => x.suitId == p.id).length }).filter
    fun p => p.members != 0
  let p := s.est.base + s.est.rowCost * rowsOf seats + s.est.chunkCost * chargedOf seats
  { d with seats := seats, suits := parts, chunkTok := chargedOf seats, predNs := p }

/-- Greatest Q of any seat. -/
def Deal.maxQ (d : Deal) : Nat := (d.seats.map fun x => if x.kind = 2 then x.rows - 1 else 0).foldl max 0

/-- DEAL_HEAD (R86). -/
def headMsg (d : Deal) : Msg :=
  fMsg 0x41 [(2, 0), (1, bit d.bank), (41, 0)]
    [pack [(48, d.epoch), (16, 0)],
      pack [(15, d.seats.length), (18, rowsOf d.seats), (17, d.chunkTok), (14, d.suits.length)],
      pack [(6, d.model), (2, d.slot), (11, d.cbudget / 64), (4, d.maxQ), (41, 0)]]

/-- DEAL_SUIT (R87). -/
def suitMsg (p : SuitPart) : Msg :=
  fMsg 0x42 [(14, p.id), (8, p.slot), (16, p.members), (6, 0)] [pack [(32, p.head), (24, p.shared), (8, 0)]]

/-- DEAL_SEAT (R88). -/
def seatMsg (s : State) (x : DealSeat) : Msg :=
  let a := s.seat x.seat
  fMsg 0x43 [(16, x.seat), (16, x.gen), (4, x.kind), (1, bit x.followOn), (1, bit x.split), (1, bit x.bias), (5, 0)]
    [pack [(14, x.suitId), (8, x.streamSlot), (8, x.denseSlot), (5, x.lane), (4, x.rows), (25, 0)],
      pack [(32, x.kvHead), (32, x.kvTail)],
      pack [(24, x.chunkStart), (17, x.chunkLen), (11, x.newBlocks), (12, 0)],
      pack [(16, a.adapter.toNat), (2, a.adapterVs.toNat), (16, a.lprefix.toNat), (2, a.lprefixVs.toNat), (6, a.draftM.toNat),
        (2, a.draftVs.toNat), (1, bit a.adapterOn), (1, bit a.lprefixOn), (1, bit a.draftOn), (17, 0)]]

/-- DEAL_END (R89). -/
def endMsg (d : Deal) : Msg := fMsg 0x44 [(44, 0)] [pack [(48, d.epoch), (16, 0)]]

/-- The RKEY of a seat: a follower's comes from its lead (R161, R256). -/
def State.rkeyOf (s : State) (i : Nat) : Word := match (s.side i).rkey with
  | some k => k
  | none => roundKey (s.seat i).rngKey

/-- ROUNDKEY messages of a deal (R161), with the chunks of entries to come. -/
def roundKeys (s : State) (epoch : Nat) : List (List DealSeat) → State → State
  | [], t => t
  | g :: r, t =>
    let m := fMsg 0x49 [(12, g.length), (1, bit r.isEmpty), (31, 0)]
      (pack [(48, epoch), (16, 0)] :: g.flatMap fun x => [pack [(16, x.seat), (16, x.gen), (32, 0)], s.rkeyOf x.seat])
    roundKeys s epoch r (bumpN 0x7E g.length (sendF s.groups m t))

/-- The pieces of a list that a message may carry; one empty piece for an empty list. -/
def pieces {α : Type} (n : Nat) (l : List α) : List (List α) := if l.isEmpty then [[]] else chunksOf n l.length l

/-- BIAS messages of a packet to the group of the seat's dense slot (R91). -/
def biasMsgs (x : DealSeat) (epoch : Nat) (delta : Bool) : List (List (Nat × Nat)) → State → State
  | [], s => s
  | g :: r, s =>
    let a := s.seat x.seat
    let m := fMsg 0x46 [(16, x.seat), (16, x.gen), (12, g.length)]
      ([pack [(48, epoch), (14, 0), (1, bit r.isEmpty), (1, bit delta)], pack [(32, a.reppen.toNat), (32, a.freqpen.toNat)],
        pack [(32, a.prespen.toNat), (32, 0)]] ++ g.map fun e => pack [(20, e.1), (24, e.2), (20, 0)])
    biasMsgs x epoch delta r (bumpN 0x7D m.words.length (sendF [x.group] m s))

/-- The full BIAS packet of a seat (R91). -/
def fullBias (d : Deal) (x : DealSeat) (s : State) : State :=
  if x.bias then biasMsgs x d.epoch false (pieces 4091 (s.side x.seat).pct) s else s

/-- The delta BIAS packet of a seat: the tokens it emitted at the boundary that its count table records (R91). -/
def deltaBias (d : Deal) (x : DealSeat) (s : State) : State :=
  let toks := tget [] s.deals.fresh x.seat
  let es := (s.side x.seat).pct.filter fun e => toks.contains e.1
  if x.bias ∧ es ≠ [] then biasMsgs x d.epoch true (pieces 4091 es) s else s

/-- The feed entry of a row seat (R72, R90). -/
def feedEnt (s : State) (x : DealSeat) : FeedEnt :=
  let a := s.seat x.seat
  let live := a.gen.toNat == x.gen && (a.state == .ready || a.state == .dealt)
  let pos := a.nextPos.toNat - 1
  ⟨x.seat, x.gen, pos, if live && x.kind == 2 then a.draftLen.toNat else 0, !live,
    match a.tail.getLast? with
    | some t => t.toNat
    | none => s.tokAt x.seat pos⟩

/-- DEAL_FEED messages (R90). -/
def feedMsgs (epoch passes : Nat) : List (List FeedEnt) → State → State
  | [], s => s
  | g :: r, s =>
    let m := fMsg 0x45 [(12, g.length), (1, bit r.isEmpty), (31, 0)]
      (pack [(48, epoch), (4, passes), (12, 0)] :: g.flatMap fun e =>
        [pack [(16, e.seat), (16, e.gen), (24, e.basePos), (4, e.draftLen), (1, bit e.void), (3, 0)], pack [(20, e.inTok), (44, 0)]])
    feedMsgs epoch passes r (sendF s.groups m s)

/-- ROUNDEN as it will be in force when the deal in hand launches: what was last written while a deal runs, since step 8 comes before
that launch (R165). -/
def State.roundEn (s : State) : Bool := if s.deals.running.isSome then s.on F.SIEVE_SAMPCFG_ROUNDEN else s.rd F.SIEVE_SAMPCFG_ROUNDEN == 1

/-- The ROUNDKEY messages of a deal, once, when ROUNDEN is 1 at its launch (R161, R165). Keys that left at the hand-off are not taken
back when a later write clears ROUNDEN (log entry 57). -/
def sendKeys (d : Deal) (s : State) : State :=
  if s.roundEn ∧ s.deals.keyed = false then
    let s := modDeals (fun q => { q with keyed := true }) s
    roundKeys s d.epoch (pieces 2046 (d.seats.filter fun x => decide (1 ≤ x.kind ∧ x.kind ≤ 4))) s
  else s

/-- CAND_CFG for a deal when one is due (R139). -/
def candCfg (epoch : Nat) (s : State) : State :=
  if s.sieve.candCfgDue then
    modSieve (fun q => { q with candCfgDue := false })
      (sendF s.groups (fMsg 0x48 [(44, 0)] [pack [(48, epoch), (9, s.rd F.SIEVE_CANDCFG_FIRST), (7, 0)]]) s)
  else s

/-- The feed of the handed-off deal, after its keys where ROUNDEN came into force since the hand-off (R165), and, but for a deal
without a boundary before it, its delta BIAS packets (R85, R90, R328). -/
def sendFeed (s : State) : State :=
  match s.deals.handed with
  | none => s
  | some d =>
    let feed := (d.seats.filter fun x => x.kind == 1 || x.kind == 2).map (feedEnt s)
    let passes := (feed.map (·.draftLen)).foldl max 0
    let s := feedMsgs d.epoch passes (pieces 2046 feed) (sendKeys d s)
    let s := if d.idle then s else each (deltaBias d) d.seats s
    modDeals (fun q => { q with feed := feed, feedSent := true }) s

/-- What the registers and counters say of a deal handed off (R95, R285). -/
def recordHandOff (d : Deal) (s : State) : State :=
  let s := setReg 0x1040 (pack [(15, d.seats.length), (18, rowsOf d.seats), (17, d.chunkTok), (14, d.suits.length)]) s
  let s := setFld F.DEAL_STATUS_NEXTEPOCH d.epoch (setFld F.DEAL_LAST1_KITTY d.kitty (setFld F.DEAL_LAST1_CBUDGET (d.cbudget / 64) s))
  let s := setFld F.DEAL_LAST2_PREDNS (sat 0xFFFFFFFF (d.predNs / 64)) s
  let sw := match s.deals.prevModel with
    | some p => p != (d.model, d.slot)
    | none => false
  let s := bumpN 0x43 (rowsOf d.seats) (bump 0x40 (if sw then bump 0x4A s else s))
  let s := bumpN 0x48 d.suits.length (bumpN 0x47 d.kitty (bumpN 0x46 d.chunkTok s))
  bumpN 0x4E (d.seats.filter (·.followOn)).length (bumpN 0x4D d.seats.length s)

/-- The descriptor, ROUNDKEY and full BIAS messages of a deal, in the order of R85. DESIGN CHOICE: a DEAL_SUIT takes the egress credit
of its stream slot's group and a DEAL_SEAT that of its dense slot's group, since R85 and R258 name none (log entry 47). -/
def sendDeal (d : Deal) (s : State) : State :=
  let s := sendF s.groups (headMsg d) s
  let s := each (fun (p : SuitPart) s => sendF [p.group] (suitMsg p) s) d.suits s
  let s := each (fun (x : DealSeat) s => sendF [x.group] (seatMsg s x) s) d.seats s
  each (fullBias d) d.seats (sendKeys d (sendF s.groups (endMsg d) s))

/-- A boundary that waited for the Dealer has its hand-off: the wait is traced (R84). -/
def lateHandOff (s : State) : State :=
  match s.deals.boundaryOf with
  | some e => trace (mkTrc 0x04 e 0 0 0xFFF s.deals.boundaryAt (s.now - s.deals.boundaryAt) false 0) s
  | none => s

/-- The composition is handed off as a deal with its epoch (R82, R96); one that flags have emptied hands off nothing. A boundary that
waits, and a deal without one before it, get the feed at once (R84, R328). DESIGN CHOICE: NEXTEPOCH goes on past 2^48 - 1, and the
48-bit fields of a later epoch hold its low bits (log entry 51). -/
def handOff (s : State) : State :=
  match s.deals.composing with
  | none => s
  | some d0 =>
    let d := d0.strip s
    let s := modDeals (fun q => { q with composing := none }) s
    if d.seats = [] then modDeals (fun q => { q with emptied := q.running.isSome, boundaryOf := none, fresh := [] }) s
    else
      let s := recordHandOff d s
      let s := modDeals (fun q => { q with
        handed := some d, nextEpoch := d.epoch + 1, dealsHanded := q.dealsHanded + 1
        prevModel := some (d.model, d.slot), feedSent := false, keyed := false }) s
      let s := each (offerSeat d.epoch) d.seats (sendDeal d s)
      if s.deals.running.isSome then s else sendFeed (lateHandOff s)

/-- A finished composition leaves for port F (R82). -/
def execDealHandOff (t : BitVec 64) (s : State) : Host.Outcome State Fault Refusal :=
  if !s.mainOn then .next (tick t s) else
  .next (finish (handOff (tick t s)))

/-- No deal E + 1 comes of a boundary: it ends with step 8, and the node is idle (R84). -/
def endBoundary (s : State) : State :=
  if s.deals.running.isSome then modDeals (fun q => { q with emptied := true }) s
  else modDeals (fun q => { q with boundaryOf := none, fresh := [] }) s

/-- The Dealer may begin composing at all. -/
def State.mayCompose (s : State) : Bool :=
  s.deals.handed.isNone && s.deals.composing.isNone && !s.deals.stopped && !s.deals.stopping && s.portOpen .F

/-- The composition of E + 1 may begin: during E from the later of its launch and launch + p(E) - SEALLEAD, or after step 8 of boundary E
(R82, R84). -/
def State.composeTime (s : State) : Bool :=
  match s.deals.running with
  | some r => !s.deals.emptied &&
      decide (r.launchedAt + r.deal.predNs ≤ s.now + 1000 * s.fld F.DEAL_TIMING_SEALLEAD)
  | none => s.deals.boundaryOf.isSome

/-- A composition that runs during a deal or after its boundary: the table may refuse it, and one that selects no seat ends the
boundary (R78, R84). -/
def composeNext (s : State) : State :=
  if !s.on F.DEAL_CTRL_ENABLE then (if s.deals.running.isSome then s else endBoundary s)
  else if !s.tableOk then endBoundary (bump 0x4B s)
  else
    let s := compose false s
    if s.deals.composing.isNone then endBoundary s else s

/-- COMPOSE_BEGIN (R82, R84, R96). -/
def execComposeBegin (t : BitVec 64) (s : State) : Host.Outcome State Fault Refusal :=
  if !s.mainOn then .next (tick t s) else
  let s := tick t s
  if s.mayCompose && s.composeTime then .next (finish (composeNext s)) else .next s

/-- IDLE_COMPOSE_START: the Dealer tests the conditions of R328 and composes when they hold; class H versions that keep a seat from
being dealt are asked for (R68, R213). -/
def execIdleComposeStart (t : BitVec 64) (s : State) : Host.Outcome State Fault Refusal :=
  if !s.mainOn then .next (tick t s) else
  let s := tick t s
  if s.mayCompose && s.idle && s.on F.DEAL_CTRL_ENABLE && s.tableOk then
    let c := s.chooseModel
    if c.1.isSome then .next (finish (compose true s)) else .next (askHots c.2 s)
  else .next s

end Sys2Proof.Machine
end

