-- ==== Sys2Proof/Machine/Gates.lean ====
section
/-! DEFINITION. The transfer gates (R220 to R237): contests, grants, revocation, freeze, windows and watchdog. A gate command carries the
beats that the running grant has moved when it happens; where a grant meets an event that carries none, a free number of beats has moved
(log entries 11, 59). -/
namespace Sys2Proof.Machine

/-- Index of a requester's five counters (R285). -/
def gateCnt (g r k : Nat) : Nat := 0xA0 + 5 * ([0, 6, 9].getD g 0 + r) + k

/-- SHARE of a requester. -/
def State.share (s : State) (g r : Nat) : Nat := s.fld (F.GATE_SHARE_SHARE g r)

/-- The credit counter of a requester: SHARE until the gate leaves its start freeze (R222). -/
def State.gateCredit (s : State) (g r : Nat) : Nat :=
  if (s.gate g).left then tget 0 (s.gate g).counters r else s.share g r

/-- PRIO of a requester. -/
def State.prio (s : State) (g r : Nat) : Nat := s.fld (F.GATE_SHARE_PRIO g r)

/-- A requester requests on a path with ENABLE set. -/
def State.wants (s : State) (g p r : Nat) : Bool := ((s.gate g).req p r).requesting && s.on (F.GATE_SHARE_ENABLE g r)

/-- Every counter is set to SHARE (R222). -/
def fillCounters (g : Nat) (s : State) : State :=
  modGate g (fun x => { x with counters := each (fun r c => tput 0 c r (s.share g r)) (requesters g) x.counters }) s

/-- Beats of the running grant become known: progress, credit counter and beat counter move on, and with a beat the silence that the
watchdog counts begins no earlier than the last instant known before (R222, R227, R230). -/
def moveBeats (g p moved : Nat) (s : State) : State :=
  let x := (s.gate g).path p
  match x.owner with
  | none => s
  | some r =>
    let n := min moved (s.fld (F.GATE_CFG_BURST g)) - x.moved
    let s := modReq g p r (fun q => { q with progress := q.progress + n }) (modPath g p (fun x => { x with
      moved := x.moved + n, beatAt := if n = 0 then x.beatAt else x.obsAt, obsAt := s.now }) s)
    bumpN (gateCnt g r 1) n (modGate g (fun x => { x with counters := tput 0 x.counters r (tget 0 x.counters r - n) }) s)

/-- PCLK cycles that can have passed since an instant, 3 in 4 ns (R264). -/
def State.cyclesFrom (s : State) (at_ : Nat) : Nat := (s.now + 16 - at_) * 3 / 4

/-- An event without a beat count meets a running grant: a free number of beats has moved since those known, at most one a cycle and
BURST in all (R220; log entry 59). -/
def freeBeats (g p : Nat) (s : State) : State :=
  let x := (s.gate g).path p
  if x.owner.isNone then s
  else
    let f := takeFree s
    let most := min (s.fld (F.GATE_CFG_BURST g) - x.moved) (s.cyclesFrom x.obsAt)
    moveBeats g p (x.moved + f.1 % (most + 1)) f.2

/-- The other path's running grant moves on beside a contest that reads its owner's counter (R222; log entry 59). -/
def otherBeats (g p : Nat) (s : State) : State := if g = 1 then freeBeats g (1 - p) s else s

/-- Every running grant of a gate meets an event without a beat count. -/
def gateSync (g : Nat) (s : State) : State := each (freeBeats g) (pathsOf g) s

/-- Every running grant meets an event that reads or clears the beat counters. -/
def syncAll (s : State) : State := each gateSync [0, 1, 2] s

/-- When a requester's wait age began (R224). -/
def Req.waitFrom (q : Req) : Nat := max q.since q.lastEnd

/-- The winner of a plain contest: PRIO, counter, index (R223). -/
def State.contestWinner (s : State) (g : Nat) (l : List Nat) : Option Nat :=
  bestOf (fun a b => decide (s.prio g b < s.prio g a) ||
    (s.prio g a == s.prio g b && decide (s.gateCredit g b < s.gateCredit g a))) l

/-- The requesters that may have the greatest wait age: the local counter tells ages apart by its 16 ns only (R224, R264; log entry 59). -/
def State.longestWaiters (s : State) (g p : Nat) (l : List Nat) : List Nat :=
  l.filter fun a => l.all fun b => decide (((s.gate g).req p a).waitFrom ≤ ((s.gate g).req p b).waitFrom + 16)

/-- The winner of a waiter grant: greatest wait age, lowest index (R224); a free one of those that the counter does not tell apart. -/
def waiterWinner (g p : Nat) (l : List Nat) (s : State) : Option Nat × State :=
  match s.longestWaiters g p l with
  | [r] => (some r, s)
  | ks =>
    let f := takeFree s
    (ks[f.1 % max 1 ks.length]?, f.2)

/-- The requesters that contest a path. -/
def State.contesters (s : State) (g p : Nat) : List Nat := (requesters g).filter fun r => s.wants g p r

/-- A contest's winner and whether its grant is a waiter grant. -/
def contestFor (g p : Nat) (waiter : Bool) (s : State) : Option Nat × State :=
  if waiter then waiterWinner g p (s.contesters g p) s else (s.contestWinner g (s.contesters g p), s)

/-- A contest for a path without an owner; `prev` is the owner at the handover, `byPrio` says that the grant follows a revocation by
priority (R223 to R225). -/
def contest (g p : Nat) (prev : Nat) (byPrio : Bool) (s : State) : State :=
  let x := (s.gate g).path p
  if x.owner.isSome ∨ s.contesters g p = [] ∨ s.gateFrozen g = true then s
  else
    let due := x.waiterDue || (x.grants + 1) % max 1 (s.fld (F.GATE_CFG_ROTN g)) == 0
    let waiter := due && !byPrio
    let w := contestFor g p waiter (otherBeats g p s)
    match w.1 with
    | none => s
    | some r =>
      let s := w.2
      let from_ := ((s.gate g).req p r).waitFrom
      let s := modPath g p (fun x => { x with
        owner := some r, waiter := waiter, moved := 0, grants := x.grants + 1
        sinceWaiter := if waiter then 0 else x.sinceWaiter + 1, waiterDue := due && byPrio
        idle := false, grantAt := s.now, obsAt := s.now, beatAt := s.now }) s
      let s := bump (gateCnt g r 0) (if waiter then bump (gateCnt g r 3) s else s)
      traceWait 0x07 s.epochNow prev (16 * g + r) 0xFFF from_ p s

/-- One event less in a counter that is not saturated. -/
def unbump (c : Nat) (s : State) : State :=
  if s.cnt c = 281474976710655 then s else modObs (fun o => { o with cnt := tput 0 o.cnt c (tget 0 o.cnt c - 1) }) s

/-- A request joins the contest that an earlier one opened on an idle path, whose first beat moves 4 cycles after it was raised: the grant
goes to the winner among both (R225; log entry 59). -/
def rejoin (g p : Nat) (s : State) : State :=
  let x := (s.gate g).path p
  match x.owner with
  | none => s
  | some r =>
    let w := contestFor g p x.waiter s
    match w.1 with
    | none => s
    | some n =>
      if n = r then w.2
      else
        let s := unbump (gateCnt g r 0) (if x.waiter then unbump (gateCnt g r 3) w.2 else w.2)
        bump (gateCnt g n 0) (if x.waiter then bump (gateCnt g n 3) (modPath g p (fun x => { x with owner := some n }) s)
          else modPath g p (fun x => { x with owner := some n }) s)

/-- The seat leases' part of a lapsed transfer: it may request again only under a new lease (R232). -/
def State.leasedAgain (s : State) (g tag : Nat) : Bool :=
  if g = 0 then match (s.tagUse tag).bind TagUse.seat with
    | some i => (s.side i).leaseN
    | none => true
  else s.led.sides.any fun e => e.2.leaseN

/-- The credit that a lapsed seat lease kept for a transfer returns as its grant ends (R113, R232). -/
def returnKept (g tag : Nat) (s : State) : State :=
  match (s.tagUse tag).bind TagUse.seat with
  | some i =>
    if g = 0 ∧ (s.side i).leaseC = true ∧ (s.side i).leaseN = false then
      giveBack .C 1 (modSide i (fun d => { d with leaseC := false }) s)
    else s
  | none => s

/-- The running grant of a path ends; the wait age of its owner counts from now (R224, R226). A transfer whose lease has lapsed drops its
request and keeps its progress, and the credit it kept returns (R113, R232). -/
def endGrant (g p : Nat) (s : State) : State :=
  match ((s.gate g).path p).owner with
  | none => s
  | some r =>
    let q := (s.gate g).req p r
    let s := modReq g p r (fun q => { q with lastEnd := s.now, requesting := q.requesting && !q.lapsed })
      (modPath g p (fun x => { x with owner := none, waiter := false, moved := 0, idle := false }) s)
    if q.lapsed then returnKept g q.tag s else s

/-- The grant of a path is revoked with its progress kept: counted and flagged (R226, R227). -/
def revokeGrant (g p : Nat) (s : State) : State :=
  match ((s.gate g).path p).owner with
  | none => s
  | some r =>
    let f := F.GATE_FLAGS_REVOKED g
    endGrant g p (bump (gateCnt g r 2) (setFld f ((BitVec.ofNat 16 (s.fld f) ||| BitVec.ofNat 16 (2 ^ r)).toNat) s))

/-- Owner of a path, or 0, for a trace record. -/
def State.ownerAt (s : State) (g p : Nat) : Nat := ((s.gate g).path p).owner.getD 0

/-- A request waits at a frozen gate (R237). -/
def markFrozen (g : Nat) (s : State) : State :=
  let waits := fun p r => ((s.gate g).req p r).requesting && ((s.gate g).path p).owner != some r
  if s.gateFrozen g && ((pathsOf g).any fun p => (requesters g).any (waits p)) then setFlag (F.GATE_FLAGS_FROZENWAIT g) s else s

/-- A higher PRIO revokes the owner, unless it holds a waiter grant or the gate is frozen (R226, R229). -/
def preempt (g p : Nat) (s : State) : State :=
  let x := (s.gate g).path p
  match x.owner with
  | none => s
  | some r =>
    if s.on (F.GATE_CTRL_PREEMPT g) ∧ !x.waiter ∧ !s.gateFrozen g ∧
        (s.contesters g p).any (fun k => decide (s.prio g r < s.prio g k)) then
      contest g p r true (revokeGrant g p s)
    else s

/-- The window's time runs while the gate is not frozen (R222, R229). -/
def gateClock (g : Nat) (s : State) : State :=
  if s.gateFrozen g then
    modGate g (fun x => match x.winFrom with
      | some f => { x with winUsed := x.winUsed + 3 * (s.now - f), winFrom := none }
      | none => x) s
  else modGate g (fun x => if x.winFrom.isNone then { x with winFrom := some s.now } else x) s

/-- The gate's registers and requests as they stand decide each path: a disabled owner is revoked, a grant beyond BURST ends, a higher
PRIO revokes, an idle path is contested; in a freeze only the burst limit ends a grant (R226, R228, R229, R235). -/
def settlePath (g p : Nat) (s : State) : State :=
  let x := (s.gate g).path p
  match x.owner with
  | none => contest g p 0 false s
  | some r =>
    if s.fld (F.GATE_CFG_BURST g) < x.moved then contest g p r false (endGrant g p s)
    else if !s.gateFrozen g && !s.on (F.GATE_SHARE_ENABLE g r) then contest g p r false (revokeGrant g p s)
    else preempt g p s

/-- A gate that leaves its start freeze has full counters and begins its first window (R222). -/
def leaveStart (g : Nat) (s : State) : State :=
  if s.gateFrozen g || (s.gate g).left then s
  else fillCounters g (modGate g (fun x => { x with left := true, winLen := s.fld (F.GATE_CFG_WINDOW g), winUsed := 0 }) s)

/-- What a change of a gate's freeze or registers leaves to do at once: the window's time, the start freeze, the paths. -/
def gateThaw (g : Nat) (s : State) : State := each (settlePath g) (pathsOf g) (gateClock g (leaveStart g s))

/-- A live write of a gate's registers takes effect (R228, R235); `was` says whether the gate was frozen before. -/
def gateWritten (g : Nat) (was : Bool) (s : State) : State :=
  let s := if (s.gate g).left then
      modGate g (fun x => { x with counters := each (fun r c => tput 0 c r (min (tget 0 c r) (s.share g r))) (requesters g) x.counters }) s
    else s
  let s := gateThaw g s
  if was then s else markFrozen g s

/-- The Herald's freeze on every gate (R116, R117). -/
def freezeGates (s : State) : State :=
  each (fun g s => markFrozen g (gateClock g (modGate g (fun x => { x with hfreeze := true }) s))) [0, 1, 2] s

/-- GO clears the Herald's freeze (R118). -/
def thawGates (s : State) : State := each (fun g s => gateThaw g (modGate g (fun x => { x with hfreeze := false }) s)) [0, 1, 2] s

/-- Firmware's FREEZE of a gate (R229, R274). -/
def softFreeze (g : Nat) (s : State) : State := markFrozen g (gateClock g (setFld (F.GATE_CTRL_FREEZE g) 1 s))

/-- An immediate stop revokes every grant of the frozen gates (R117, R229). -/
def revokeAll (s : State) : State :=
  each (fun g s => markFrozen g (each (fun p s => revokeGrant g p (freeBeats g p s)) (pathsOf g) s)) [0, 1, 2] s

/-! What waits for a gate moves on (R220). -/

/-- The payload of a waiting message moves. -/
def payloadIn (c : Instr) (s : State) : State :=
  match c with
  | .kvData _ tag _ c => kvDataIn tag.toNat c s
  | .imageData _ tag _ m => imageDataIn tag.toNat m s
  | .prefillKv _ i g b tag c => prefillKvIn i.toNat g.toNat b.toNat tag.toNat c s
  | .objData _ _ tag st => objDataIn tag.toNat (st == 0) s
  | .query _ _ el l n i g => queryTaken el.toNat l.toNat n.1.toNat i.toNat g.toNat n.2 s
  | .partialMsg _ _ el l i g me => partialTaken el.toNat l.toNat i.toNat g.toNat me.1.toNat me.2 s
  | _ => s

/-- Payloads that wait for a gate move as far as the gates let them, in order; the others wait on. -/
def releaseGated (s : State) : State :=
  each (fun x s => gatedIn x (payloadIn x.cmd) s) s.ports.gated (modPorts (fun p => { p with gated := [] }) s)

/-- What a gate's change leaves to do at once. -/
def gateDone (s : State) : State := finish (releaseGated s)

/-! The commands. -/

/-- A head transfer that the requester has: on the T-stream gate, requesters 0, 1 and 2 move TFETCHes of DSTKIND 0, 1 and 2 on the path
of their SRCTIER (R210, R220). -/
def State.mayRequest (s : State) (g p r tag : Nat) : Bool :=
  (requesters g).contains r && (pathsOf g).contains p &&
    (g != 1 || s.seq.out.any fun e => e.1 == tag && e.2.dst == r &&
      (if (s.desc e.2.m e.2.s e.2.obj).srcTier = 2 then 0 else 1) == p)

/-- A requester raises its request with a head transfer (R220, R225); a transfer other than its last starts with no progress, and one
whose lease lapsed needs a new one (R232). -/
def gateRequest (g p r tag moved : Nat) (s : State) : State :=
  let q := (s.gate g).req p r
  let same := q.tag == tag
  if !s.mayRequest g p r tag || q.requesting || (q.lapsed && same && !s.leasedAgain g tag) then s
  else
    let s := moveBeats g p moved (modReq g p r (fun q => { q with
      requesting := true, since := s.now, tag := tag, progress := if same then q.progress else 0, lapsed := false }) s)
    let x := (s.gate g).path p
    if s.gateFrozen g then markFrozen g s
    else match x.owner with
      | none => modPath g p (fun x => { x with idle := true }) (contest g p 0 false s)
      | some _ =>
        if x.idle ∧ x.moved = 0 ∧ s.now ≤ x.grantAt + 16 then
          let f := takeFree s
          preempt g p (if f.1 % 2 = 0 then rejoin g p f.2 else f.2)
        else preempt g p s

/-- GATE_REQUEST (R223 to R226). -/
def execGateRequest (t : BitVec 64) (g : Gate) (r : BitVec 4) (path : BitVec 1) (tag : BitVec 24) (moved : BitVec 32) (s : State) :
    Host.Outcome State Fault Refusal :=
  if !s.mainOn then .next (tick t s) else
  .next (gateDone (gateRequest (gateNo g) path.toNat r.toNat tag.toNat moved.toNat (tick t s)))

/-- A requester drops its request: an owner's grant ends, and no progress is kept but for a transfer whose lease has lapsed (R226,
R232, R235). -/
def gateDrop (g p r moved : Nat) (lapsed : Bool) (s : State) : State :=
  let owner := ((s.gate g).path p).owner == some r
  let s := if owner then endGrant g p (moveBeats g p moved s) else s
  let s := modReq g p r (fun q => { q with requesting := false, lapsed := lapsed, progress := if lapsed then q.progress else 0 }) s
  if owner then contest g p r false s else s

/-- GATE_REQUEST_DROP (R226). -/
def execGateRequestDrop (t : BitVec 64) (g : Gate) (r : BitVec 4) (path : BitVec 1) (moved : BitVec 32) (lapsed : Bool) (s : State) :
    Host.Outcome State Fault Refusal :=
  if !s.mainOn then .next (tick t s) else
  .next (gateDone (gateDrop (gateNo g) path.toNat r.toNat moved.toNat lapsed (tick t s)))

/-- BURST beats have moved under a grant: it ends with its progress kept, and its owner contests like any other (R226, R227). -/
def gateBurst (g p : Nat) (s : State) : State :=
  match ((s.gate g).path p).owner with
  | none => s
  | some r => markFrozen g (contest g p r false (endGrant g p (moveBeats g p (s.fld (F.GATE_CFG_BURST g)) s)))

/-- GATE_BURST_LIMIT (R226). -/
def execGateBurstLimit (t : BitVec 64) (g : Gate) (path : BitVec 1) (s : State) : Host.Outcome State Fault Refusal :=
  if !s.mainOn then .next (tick t s) else
  .next (gateDone (gateBurst (gateNo g) path.toNat (tick t s)))

/-- A window edge has come: WINDOW cycles have passed since the last, counted while the gate is not frozen; the local counter's 16 ns are
allowed for (R222; log entry 11). -/
def State.edgeDue (s : State) (g : Nat) : Bool :=
  let x := s.gate g
  match x.winFrom with
  | some f => x.left && !s.gateFrozen g && decide (4 * x.winLen ≤ x.winUsed + 3 * (s.now - f) + 48)
  | none => false

/-- A window edge: beats moved are debited first, then every counter is SHARE; edges are suspended while the gate is frozen, and a new
WINDOW applies from the edge (R222, R228, R229, R235). -/
def gateEdge (g m0 m1 : Nat) (s : State) : State :=
  if !s.edgeDue g then s
  else
    let s := fillCounters g (moveBeats g 1 m1 (moveBeats g 0 m0 s))
    modGate g (fun x => { x with
      winUsed := x.winUsed + 3 * (s.now - x.winFrom.getD s.now) - 4 * x.winLen, winFrom := some s.now
      winLen := s.fld (F.GATE_CFG_WINDOW g) }) s

/-- GATE_WINDOW_EDGE (R222). -/
def execGateWindowEdge (t : BitVec 64) (g : Gate) (moved0 moved1 : BitVec 32) (s : State) : Host.Outcome State Fault Refusal :=
  if !s.mainOn then .next (tick t s) else
  .next (gateEdge (gateNo g) moved0.toNat moved1.toNat (tick t s))

/-- A fetch of the streamer that the watchdog failed is issued again from its start, at once where it can be (R231). -/
def refetch (tag : Nat) (s : State) : State :=
  match (s.seq.out.find? fun e => e.1 == tag).map (·.2) with
  | none => s
  | some f =>
    let s := modSeq (fun q => { q with out := tdel q.out tag, queue := f :: q.queue }) s
    if s.on F.MOD_CTRL_ENABLE ∧ s.live .T 0 = true ∧ s.portOpen .T = true ∧ 0 < s.outCredit .T 0 0 then issueNext s else s

/-- The message of an outbound transfer that failed: what it held of the partner's credit is released (R230). -/
def refundOut (g r tag : Nat) (s : State) : State :=
  match s.egress.find? fun m => s.unitOf m == some (g, r) && m.tag == tag with
  | none => s
  | some m =>
    if m.op = 0x78 ∨ m.op = 0x79 then modDeals (fun d => { d with leases := d.leases.map fun l =>
      if !l.lent && l.peer == m.peer && (l.covers m.leadEpoch) then { l with msgs := l.msgs + 1, beats := l.beats + m.beats } else l }) s
    else modSess m.port m.peer (fun e =>
      Sess.moveOwed { e with out := modNth (· + 1) e.out 0, outPay := e.outPay + (m.beats - e.owed), owed := e.owed - m.beats }) s

/-- The port credit of a failed transfer is released: a waiting payload is discarded and its credit returns, a message that has not left
is dropped, one that has gives back its credit (R230). -/
def dropTransfer (g r tag : Nat) (s : State) : State :=
  let mine := fun (x : Gated) => x.g == g && x.r == r && x.tag == tag
  let sends := fun (i : OutItem) => s.unitOf i.msg == some (g, r) && i.msg.tag == tag
  let l := s.ports.gated.filter mine
  let s := if s.ports.queue.any sends then s else refundOut g r tag s
  each freeGated l (modPorts (fun p => { p with gated := p.gated.filter fun x => !mine x, queue := p.queue.filter fun i => !sends i }) s)

/-- The shipment that a tag carries fails (R194). -/
def shipTagFails (tag : Nat) (s : State) : State :=
  match s.led.sides.find? fun e => match e.2.ship with
    | some h => h.sent && h.tag == tag
    | none => false with
  | some e => shipFail e.1 s
  | none => s

/-- The requesting unit acts on a failed transfer (R231). The effect on N-link 0, 1 and 3 is the loss alone. -/
def transferFailed (g r tag : Nat) (s : State) : State :=
  match g, r, s.tagUse tag with
  | 1, _, _ => refetch tag s
  | 0, 0, some (.fetch ..) | 0, 0, some (.stretch ..) => fetchMissed tag s
  | 0, 1, some (.backBlk ..) | 0, 1, some (.imageOpen ..) | 0, 1, some (.imageBack ..) => fetchMissed tag s
  | 0, 2, some (.putSpill ..) | 0, 2, some (.imagePut ..) => putAnswered tag none s
  | 0, 3, some (.putPublish ..) => putAnswered tag none (bump 0x89 s)
  | 0, 4, some (.putShip i g _) => if s.current i g then shipFail i (endTag tag s) else endTag tag s
  | 0, 4, _ => shipTagFails tag s
  | 0, 5, some (.repair ..) | 2, 2, some (.repair ..) => objDataTaken tag false s
  | _, _, _ => s

/-- An owner has moved no beat for 65,536 PCLK cycles, 262,144/3 ns, the local counter's 16 ns allowed for (R230; log entry 11). -/
def PathSt.silent (x : PathSt) (now : Nat) : Bool := decide (3 * x.beatAt + 262144 ≤ 3 * now + 48)

/-- The watchdog fires on an owner that has moved no beat: grant revoked, transfer failed, recorded and traced (R230). -/
def watchdog (g p moved : Nat) (s : State) : State :=
  let s := moveBeats g p moved s
  let x := (s.gate g).path p
  match x.owner with
  | none => s
  | some r =>
    if !x.silent s.now then s
    else
      let q := (s.gate g).req p r
      let f := F.GATE_FLAGS_FAILED g
      let s := setFlag (F.GATE_FLAGS_WDOG g) (setFld f ((BitVec.ofNat 16 (s.fld f) ||| BitVec.ofNat 16 (2 ^ r)).toNat) s)
      let s := setReg (0x3800 + 0x200 * g + 0x20) (pack [(4, r), (1, p), (32, q.progress), (27, 0)]) s
      let s := bump (gateCnt g r 4) (trace (mkTrc 0x08 s.epochNow q.progress (16 * g + r) 0xFFF (s.now - 87381) 87381 false p) s)
      let s := modReq g p r (fun q => { q with requesting := false, lapsed := false, progress := 0 }) (revokeGrant g p s)
      contest g p r false (transferFailed g r q.tag (dropTransfer g r q.tag s))

/-- GATE_WATCHDOG (R230, R231). -/
def execGateWatchdog (t : BitVec 64) (g : Gate) (path : BitVec 1) (moved : BitVec 32) (s : State) : Host.Outcome State Fault Refusal :=
  if !s.mainOn then .next (tick t s) else
  .next (gateDone (watchdog (gateNo g) path.toNat moved.toNat (tick t s)))

/-- REVOKE is written: every grant of the gate is revoked with its progress kept, and contests follow; it has no effect without an owner, or
in the Herald's freeze (R226, R229, R235); with FREEZE 1 the gate is frozen first and the revoked owner is not granted again (R317; log entry
59). Where the watchdog may fire in the same cycle it prevails (R235): a free value says (log entry 59). -/
def gateRevoke (g m0 m1 : Nat) (s : State) : State :=
  let one := fun p s =>
    let x := (s.gate g).path p
    if x.owner.isNone || (s.gateFrozen g && !s.on (F.GATE_CTRL_FREEZE g)) then s
    else
      let f := if x.silent s.now && decide (3 * s.now ≤ 3 * x.beatAt + 262144 + 48) then takeFree s else (0, s)
      if f.1 % 2 = 1 then watchdog g p x.moved f.2 else markFrozen g (contest g p (f.2.ownerAt g p) false (revokeGrant g p f.2))
  each one (pathsOf g) (moveBeats g 1 m1 (moveBeats g 0 m0 s))

/-- GATE_REVOKE (R237). -/
def execGateRevoke (t : BitVec 64) (g : Gate) (moved0 moved1 : BitVec 32) (s : State) : Host.Outcome State Fault Refusal :=
  if !s.cmdOn then .next (tick t s) else
  .next (gateDone (gateRevoke (gateNo g) moved0.toNat moved1.toNat (tick t s)))

/-- A write of REVOKE in the window meets running grants whose beats it does not say. -/
def revokeWrite (g : Nat) (s : State) : State := releaseGated (gateRevoke g 0 0 (gateSync g s))

end Sys2Proof.Machine
end

