-- ==== Sys2Proof/Machine/Observe.lean ====
section
/-! DEFINITION. The observation unit: snapshots, clears, the operation-count accumulator, the trace's commands and the digest
table (R284 to R294). -/
namespace Sys2Proof.Machine

/-! Counters and snapshots (R284, R286, R300). -/

/-- Every counter as a table. -/
def State.allCounters (s : State) : List (Nat × Nat) := each (fun n l => tput 0 l n (s.cnt n)) (List.range 256) []

/-- A copy of all counters goes into the snapshot bank (R286); SNAPSEQ wraps at 16 bits. -/
def takeSnap (s : State) : State :=
  let s := syncAll s
  let l := s.allCounters
  modObs (fun o => { o with snap := l, snapSeq := (o.snapSeq + 1) % 65536, bankSeq := (o.snapSeq + 1) % 65536 }) s

/-- OBS_CTRL.SNAPNOW (R286). -/
def execObsSnapnow (s : State) : Host.Outcome State Fault Refusal :=
  if !s.cmdOn then .next s else
  .next (takeSnap s)

/-- A SNAP is armed for step 8 of the next boundary (R286). -/
def armSnap (s : State) : State := modObs (fun o => { o with snapPend := true }) s

/-- OBS_CTRL.SNAP (R286). -/
def execObsSnap (s : State) : Host.Outcome State Fault Refusal :=
  if !s.cmdOn then .next s else
  .next (armSnap s)

/-- CLEAR resets the main-domain counters (R284, R300). -/
def clearCounters (s : State) : State := modObs (fun o => { o with cnt := [] }) (syncAll s)

/-- OBS_CTRL.CLEAR (R300). -/
def execObsClear (s : State) : Host.Outcome State Fault Refusal :=
  if !s.cmdOn then .next s else
  .next (clearCounters s)

/-- CLEARKEEP resets counters 0xF0 to 0xF7 and their keep-MRAM copies (R284, R300). -/
def clearKeep (s : State) : State := { s with keep := { s.keep with cnt := [] } }

/-- OBS_CTRL.CLEARKEEP (R300). -/
def execObsClearkeep (s : State) : Host.Outcome State Fault Refusal := .next (clearKeep s)

/-! Operation counts (R287 to R289). -/

/-- Records the accumulator's queue holds (R288). -/
def opsQueueSize : Nat := 16384

/-- The version slot under which a draft pass of a model is counted: the slot that a seat of the deal pinned. -/
def State.draftSlotOf (s : State) (d : Deal) (m : Nat) : Nat :=
  match d.seats.find? fun x => (s.seat x.seat).draftOn && (s.seat x.seat).draftM.toNat == m with
  | some x => (s.seat x.seat).draftVs.toNat
  | none => 0

/-- The key word of an operation record (R288, R289). -/
def State.opsKey (s : State) (d : Deal) (r : OpsRec) : Word :=
  let m := if r.draft then r.draftM.toNat else d.model
  let v := if r.draft then s.draftSlotOf d r.draftM.toNat else d.slot
  let mk := s.rd F.OBS_MARK_MARKER
  let marked := r.operator == 0xFFFF && mk != 0
  pack [(6, m), (2, v), (12, r.layer.toNat), (16, if marked then mk else r.operator.toNat), (4, r.optype.toNat), (3, r.format.toNat),
    (1, bit marked), (20, 0)]

/-- The entries that a key's probe visits: the home entry and seven after it, wrapping to entry 1 (R288). -/
def opsProbe (log2 : Nat) (key : Word) : List Nat :=
  let n := 2 ^ log2 - 1
  let h := (sip64 0 0 [key]).toNat % n
  (List.range 8).map fun i => 1 + (h + i) % n

/-- An entry that nothing has been added to. -/
def OpsEnt.empty : OpsEnt := ⟨0, 0, 0, 0⟩

/-- A record is added to the table: to its key's entry, or to the catch-all with a miss counted (R288). -/
def addOps (d : Deal) (r : OpsRec) (s : State) : State :=
  let k := s.opsKey d r
  let at_ := (opsProbe (s.fld F.OPS_BASE_LOG2) k).find? fun n =>
    let e := tget OpsEnt.empty s.obs.ops n
    e.first == 0 || e.key == k
  let n := at_.getD 0
  let e := tget OpsEnt.empty s.obs.ops n
  let e : OpsEnt := ⟨if at_.isSome then k else e.key, sat 18446744073709551615 (e.count + r.count.toNat),
    if e.first = 0 then d.epoch else e.first, d.epoch⟩
  modObs (fun o => { o with
    ops := tput OpsEnt.empty o.ops n e
    misses := if at_.isSome then o.misses else sat 4294967295 (o.misses + 1) }) s

/-- The records of a completion report are applied in order. -/
def addAll (d : Deal) (l : List OpsRec) (s : State) : State := each (addOps d) l s

/-- The running deal's queued records reach the table before step 8 of its boundary (R288). -/
def applyOps (s : State) : State :=
  match s.deals.running with
  | some r =>
    let l := s.obs.opsQueue.map (·.2)
    addAll r.deal l (modObs (fun o => { o with opsQueue := [] }) s)
  | none => modObs (fun o => { o with opsQueue := [] }) s

/-- The epoch-done of the running deal is taken (R100, R101). -/
def takeDone (s : State) : State :=
  let upd := fun (r : Running) => { r with epochDone := some s.now }
  modDeals (fun d => { d with running := d.running.map upd }) s

/-- A report of the running deal joins the accumulator's queue; without room its epoch-done is held (R288). -/
def queueOps (epoch : Nat) (recs : List OpsRec) (s : State) : State :=
  let recs := if s.on F.OBS_CTRL_OPSEN then recs else []
  if opsQueueSize < s.obs.opsQueue.length + recs.length then
    modObs (fun o => { o with opsHeld := some (epoch, s.now, recs) }) s
  else takeDone (modObs (fun o => { o with opsQueue := o.opsQueue ++ recs.map fun r => (epoch, r) }) s)

/-- Room returns in the queue: the held report's records are taken, the wait is traced and epoch-done proceeds (R288, R290). -/
def opsRoom (s : State) : State :=
  match s.obs.opsHeld, s.deals.running with
  | some (e, since, recs), some r =>
    let n := s.obs.opsQueue.length + recs.length
    let s := applyOps s
    let s := addAll r.deal recs (modObs (fun o => { o with opsHeld := none }) s)
    takeDone (trace (mkTrc 0x06 e n 0 0xFFF since (s.now - since) false 0) s)
  | _, _ => s

/-- OPS_QUEUE_ROOM (R288). -/
def execOpsQueueRoom (t : BitVec 64) (s : State) : Host.Outcome State Fault Refusal :=
  if !s.mainOn then .next (tick t s) else
  .next (opsRoom (tick t s))

/-! The trace (R290 to R293). -/

/-- PRE and POST satisfy R293. -/
def State.trcCfgOk (s : State) : Bool :=
  decide (1 ≤ s.fld F.TRC_CFG_PRE ∧ s.fld F.TRC_CFG_PRE + s.fld F.TRC_CFG_POST + 2 ≤ 2097152)

/-- ARM: the trace restarts at slot 0 with the PRE and POST then in TRC_CFG (R293, R297). -/
def armTrace (s : State) : State :=
  let pre := s.fld F.TRC_CFG_PRE
  let post := s.fld F.TRC_CFG_POST
  modObs (fun o => { o with
    trcState := 1, traced := true, trcCount := 0, post := 0, pre := pre, postMax := post, gap := 0, lost := 0, dropped := 0 }) s

/-- TRC_TRIG.ARM (R293). -/
def execTrcArm (s : State) : Host.Outcome State Fault Refusal :=
  if !s.cmdOn then .next s else
  if s.trcCfgOk then .next (armTrace s) else .fault (.misuse 293)

/-- FIRE triggers an armed trace; its kind 0x1E record goes to slot PRE unless its kind is masked or records are not accepted, and a
gap marker that is due precedes it (R291 to R293). A FIRE at any other time is ignored (R297). -/
def fireNow (s : State) : State :=
  let o := s.obs
  if o.trcState ≠ 1 then s
  else if s.on F.OBS_CTRL_TRCEN && (s.reg 0x6020).getLsbD 0x1E then
    let o := if 0 < o.gap ∧ o.staging.length < 8192 then placeRec (gapRec o.gap) { o with gap := 0 } else o
    { s with obs := fireTrace s.now (mkTrc 0x1E 0 0 0 0xFFF s.now 0 false 0) o }
  else
    let o := { o with trcState := 2, post := 0, trigAt := s.now }
    { s with obs := if o.postMax = 0 then freezeTrace o else o }

/-- TRC_TRIG.FIRE (R293). -/
def execTrcFire (t : BitVec 64) (s : State) : Host.Outcome State Fault Refusal :=
  if !s.cmdOn then .next (tick t s) else
  .next (fireNow (tick t s))

/-- The staging buffer's oldest record goes to its slot of the trace region (R292). -/
def drainStaging (s : State) : State :=
  match s.obs.staging with
  | [] => s
  | (n, r) :: l => modObs (fun o => { o with staging := l, region := tins o.region n r }) s

/-- TRACE_STAGING_DRAIN (R292). -/
def execTraceStagingDrain (s : State) : Host.Outcome State Fault Refusal :=
  if !s.mainOn then .next s else
  .next (drainStaging s)

/-- PREHEAD and WRAPPED of TRC_STATUS (R293). -/
def Obs.wrapped (o : Obs) : Bool := decide (o.pre < o.trcCount)

/-- The slot of the oldest kept pre-trigger record (R293). -/
def Obs.prehead (o : Obs) : Nat := if o.wrapped then o.trcCount % o.pre else 0

/-! The digest table (R294). -/

/-- A write of the selected digest entry; it is in force from step 8 of the next boundary (R7, R300). Reserved bits written as ones
break R8. -/
def digWrite (v : Word) (s : State) : Host.Outcome State Fault Refusal :=
  if v.toNat % 2 ^ 31 ≠ 0 then .fault (.misuse 8)
  else .next (modObs (fun o => { o with dig := tput 0 o.dig (s.fld F.DIG_SEL_ENTRY) v }) s)

/-- DIG_DATA_WRITE (R294, R300). -/
def execDigDataWrite (v : Word) (s : State) : Host.Outcome State Fault Refusal := digWrite v s

end Sys2Proof.Machine
end

