-- ==== Sys2Proof/Machine/Policies.lean ====
section
/-! DEFINITION. What firmware does at boundaries and window edges: exhaustion (R46), the drop check (R49), the estimators
(R54, R55), pausing and resuming under load (R57), and the window edge with its refills, attainment and chunk
tuning (R42, R48, R60). -/
namespace Sys2Proof.Machine

/-! Exhaustion (R46). -/

/-- LEVEL < -(OVERDRAFT x 1,024). -/
def Tenant.exhausted (t : Tenant) : Bool := decide (t.lvl < -((t.overdraft.toNat * 1024 : Nat) : Int))

/-- The tenants that are exhausted now. -/
def State.exhausted (s : State) : List Nat := (s.tenants.filter fun e => e.2.exhausted).map (·.1)

/-- Firmware may act on a seat: no flag or failure is to close it already. -/
def State.actable (s : State) (i : Nat) : Bool :=
  let a := s.seat i
  a.role != 2 && !a.cancel && !a.stopSeen && (s.side i).badReason == 0

/-- One seat of an exhausted tenant, by its class's EXHAUST: a budget pause, or a close with 0x20 (R46, R285). -/
def exhaustSeat (i : Nat) (s : State) : State :=
  let a := s.seat i
  match s.fld (F.ADM_CLASS_POLICY_EXHAUST a.cls.toNat) with
  | 1 => if a.scratch0 &&& budgetBit != 0 then s else bump 0x2B (bump 0x2C (requestPause i budgetBit s))
  | 2 => bump 0x2B (failSeat i 0x20 s)
  | _ => s

/-- Seats in Ready and Dealt of exhausted tenants are acted on, in index order. -/
def exhaustSeats (ts : List Nat) (s : State) : State :=
  each exhaustSeat ((s.seatsIn [.ready, .dealt]).filter fun i => ts.contains (s.seat i).tenant.toNat && s.actable i) s

/-! The drop check (R49). -/

/-- A seat is late beyond its class's grace: the counter is past D(GENERATED + 1) + DROPGRACE. -/
def State.late (s : State) (i : Nat) : Bool :=
  let a := s.seat i
  decide (s.dueIn i (a.generated.toNat + 1) + 1000000 * s.fld (F.ADM_CLASS_POLICY_DROPGRACE a.cls.toNat) < s.sinceArrival i)

/-- Late seats of classes with DROP close with 0x21. A seat whose OPEN is undecided has no deadline budget yet. -/
def dropCheck (s : State) : State :=
  if !s.on F.ADM_CTRL_DROPEN then s
  else each (fun i s => closeSeat i 0x21 s)
    ((s.seatsIn [.opening, .routed, .prefilling, .ready, .dealt, .paused, .spilled]).filter fun i =>
      s.on (F.ADM_CLASS_POLICY_DROP (s.seat i).cls.toNat) && s.pinned i && s.actable i && s.late i) s

/-! The estimators (R54, R55). -/

/-- BASE, ROWCOST and CHUNKCOST after a deal that took `t` ns (R54). -/
def updStep (d : Deal) (t : Nat) (s : State) : State :=
  if !s.tuning then s
  else
    let rows := rowsOf d.seats
    let p := s.stepFor rows d.chunkTok
    let fr := Config.freeNat s.free
    let u := fun e prior lim => clampPrior prior lim (multUpd e s.gain t p fr)
    { s with
      free := if p = 0 then s.free + 1 else s.free
      est := { s.est with
        base := u s.est.base (s.fld F.ADM_PRIOR0_BASE) 0xFFFFFFFF
        rowCost := if 0 < rows then u s.est.rowCost (s.fld F.ADM_PRIOR0_ROWCOST) 0xFFFF else s.est.rowCost
        chunkCost := if 0 < d.chunkTok then u s.est.chunkCost (s.fld F.ADM_PRIOR0_CHUNKCOST) 0xFFFF else s.est.chunkCost } }

/-- Tokens that a seat emitted in the deal that the Sieve's results are of. -/
def State.emittedBy (s : State) (seat : Nat) : Nat := match s.sieve.results.find? fun r => r.seat == seat with
  | some r => r.emitted.length
  | none => 0

/-- TPD of a class after a deal: `n` decode seats emitted `k` tokens (R54); the field holds 1/256ths, from 1.0 to 9.0. -/
def updTpd (c n k : Nat) (s : State) : State :=
  if n = 0 then s
  else
    let g := 2 ^ s.gain
    modCls c (fun x => { x with tpd := min 2304 (max 256 (roundDiv (x.tpd * (g - 1) * n + 256 * k) (g * n))) }) s

/-- TPD of every class whose decode rows the deal held. -/
def updTpds (r : Running) (s : State) : State :=
  if !s.tuning then s
  else
    let decode := r.deal.seats.filter fun x => (x.kind == 1 || x.kind == 2) && !r.voided.contains x.seat
    each (fun c s =>
      let mine := decode.filter fun x => (s.seat x.seat).cls.toNat == c
      updTpd c mine.length (sumOf (mine.map fun x => s.emittedBy x.seat)) s) (List.range 8) s

/-- DEALSOBS counts completed deals up to 1,024, where COLD clears (R55). -/
def observe (s : State) : State :=
  let n := sat 1024 (s.est.dealsObs + 1)
  { s with est := { s.est with dealsObs := n, cold := s.est.cold && decide (n < 1024) } }

/-- The estimators take in a completed deal (R54, R55). -/
def updEstimators (r : Running) (s : State) : State := observe (updTpds r (updStep r.deal (s.now - r.launchedAt) s))

/-! Load (R57). -/

/-- Candidates of a class for a load pause: its Ready and Dealt seats, then its Prefilling seats, the latest ARRIVAL first. -/
def State.loadVictims (s : State) (v : Nat) : List Nat :=
  let pick := fun (l : List SeatState) =>
    sortBy (fun a b => decide (s.sinceArrival a < s.sinceArrival b) || (s.sinceArrival a == s.sinceArrival b && decide (a ≤ b)))
      ((s.seatsIn l).filter fun i => (s.seat i).cls.toNat == v && !(s.seat i).pauseReq && s.actable i)
  pick [.ready, .dealt] ++ pick [.prefilling]

/-- Seats are paused in order until class `c` is back within its TPOT budget, or `n` more have been paused. -/
def loadPause (c : Nat) : Nat → List Nat → State → State
  | _, [], s => s
  | 0, _, s => s
  | n + 1, i :: r, s =>
    if s.tpotOver s.stepNext c 1 1 then loadPause c n r (bump 0x2D (requestPause i loadBit s)) else s

/-- The most urgent class with Ready or Dealt seats that is predicted to miss. -/
def State.missing1 (s : State) : Option Nat :=
  (List.range 8).find? fun c => ((s.seatsIn [.ready, .dealt]).any fun i => (s.seat i).cls.toNat == c) && s.tpotOver s.stepNext c 1 1

/-- Every class with live seats keeps within RESUMEFRAC of its TPOT budget for a step of `st` ns (R57, R60). -/
def State.roomy (s : State) (st : Nat) : Bool :=
  (List.range 8).all fun c => (s.cls c).live == 0 || !s.tpotOver st c (s.fld F.ADM_TUNE_RESUMEFRAC) 256

/-- Load-paused seats resume in order while there is room for their rows, at most `n` (R57). `rows` are those of seats resumed so
far whose rows the ledger does not show yet. -/
def loadResume : Nat → Nat → List Nat → State → State
  | _, _, [], s => s
  | 0, _, _, s => s
  | n + 1, rows, i :: r, s =>
    let a := s.seat i
    let pre := a.state == .prefilling || a.state == .routed || a.state == .opening
    let dr := if pre then 0 else 1 + a.draftLen.toNat
    if !s.roomy (s.stepFor (s.rowsNext + rows + dr) (min s.chunkBudget s.chunkSum)) then s
    else
      let hidden := a.state == .spilled && a.scratch0 &&& budgetBit == 0
      loadResume n (if hidden then rows + dr else rows) r (bump 0x2E (clearPause i loadBit s))

/-- The load evaluation of a boundary (R57): one class is relieved, or else load-paused seats resume. -/
def loadEval (s : State) : State :=
  if !s.on F.ADM_CTRL_PAUSEEN || s.est.cold then s
  else
    let most := s.fld F.ADM_TUNE_PAUSEMAX
    match s.missing1 with
    | some c =>
      let vs := (List.range 8).reverse.filter fun v => decide (c < v) && s.on (F.ADM_CLASS_POLICY_PAUSABLE v)
      loadPause c most (vs.flatMap s.loadVictims) s
    | none =>
      let l := s.pauseOrder (s.seatIdx.filter fun i =>
        (s.seat i).state != .free && (s.seat i).scratch0 &&& loadBit != 0 && s.actable i)
      loadResume most 0 l s

/-! The window edge (R42, R46, R48, R60). -/

/-- LEVEL becomes min(CAP, LEVEL + REFILL) for every tenant. -/
def refillPots (s : State) : State :=
  { s with tenants := tmap Tenant.empty (fun _ t =>
      { t with level := satLevel (min (t.cap.toNat : Int) (t.lvl + t.refill.toNat)) }) s.tenants }

/-- The on-time fraction in units of 1/65,536, capped; 0xFFFF without a message (R48). DESIGN CHOICE: it is rounded down (log
entry 63). -/
def fraction (on all : Nat) : Nat := if all = 0 then 0xFFFF else sat 0xFFFF (on * 65536 / all)

/-- Attainment of the window just ended, for every class. -/
def attain (s : State) : State :=
  each (fun c s => modCls c (fun x => { x with
    attainTtft := fraction x.firstOn x.first, attainTpot := fraction x.laterOn x.later
    first := 0, firstOn := 0, later := 0, laterOn := 0 }) s) (List.range 8) s

/-- Budget-paused seats of tenants whose LEVEL is 0 or above resume, the oldest PAUSEEPOCH first (R46). -/
def budgetResume (s : State) : State :=
  each (fun i s => clearPause i budgetBit s) (s.pauseOrder (s.seatIdx.filter fun i =>
    let a := s.seat i
    a.state != .free && a.scratch0 &&& budgetBit != 0 && decide (0 ≤ (s.tenant a.tenant.toNat).lvl))) s

/-- A seat still budget-paused at an edge counts it; the BUDGETWAIT-th closes it with 0x20 (R46). -/
def budgetEdge (i : Nat) (s : State) : State :=
  let w := s.fld (F.ADM_CLASS_POLICY_BUDGETWAIT (s.seat i).cls.toNat)
  let s := modSide i (fun d => { d with budgetEdges := d.budgetEdges + 1 }) s
  if w ≠ 0 ∧ w ≤ (s.side i).budgetEdges then closeSeat i 0x20 s else s

/-- CHUNKDEF of a class is set, counted when it changes (R60). -/
def setChunkDef (c v : Nat) (s : State) : State :=
  let v := max (s.fld (F.ADM_CLASS_LIMIT_CHUNKMIN c)) (min (s.fld (F.ADM_CLASS_LIMIT_CHUNKMAX c)) v)
  if v = s.fld (F.ADM_CLASS_POLICY_CHUNKDEF c) then s else bump 0x2F (setFld (F.ADM_CLASS_POLICY_CHUNKDEF c) v s)

/-- Chunk tuning of a window edge (R60). -/
def tuneChunks (s : State) : State :=
  if s.est.cold || !s.tuning then s
  else
    let st := s.stepNext
    let step := s.fld F.ADM_TUNE_CHUNKSTEP
    if (List.range 8).any fun v => (s.cls v).live != 0 && s.tpotOver st v 1 1 then
      each (fun c s => setChunkDef c (s.fld (F.ADM_CLASS_POLICY_CHUNKDEF c) - step) s) (List.range 8) s
    else if s.roomy st then
      each (fun c s => setChunkDef c (s.fld (F.ADM_CLASS_POLICY_CHUNKDEF c) + step) s)
        ((List.range 8).filter fun c => decide ((s.cls c).attainTtft < 65536 - 256 * s.fld F.ADM_TUNE_MISSTOL)) s
    else s

/-- The work of a budget window edge: refills, attainment, resumptions, waits, exhaustion, tuning. -/
def windowEdge (s : State) : State :=
  let s := { s with est := { s.est with
    winNum := (s.est.winNum + 1) % 4294967296, edgeAt := s.nextEdge, winLen := s.fld F.ADM_WINDOW_WINLEN } }
  let s := budgetResume (attain (refillPots (bump 0x2A s)))
  let s := each budgetEdge ((s.seatsIn [.paused, .spilled]).filter fun i => (s.seat i).scratch0 &&& budgetBit != 0) s
  tuneChunks (exhaustSeats s.exhausted s)

/-- WINDOW_EDGE: the end of the window that runs (R42, R64). -/
def execWindowEdge (t : BitVec 64) (s : State) : Host.Outcome State Fault Refusal :=
  if !s.mainOn then .next (tick t s) else
  let s := tick t s
  if s.nextEdge ≤ s.now then .next (finish (windowEdge s)) else .next s

end Sys2Proof.Machine
end

