-- ==== Sys2Proof/Machine/Boundary.lean ====
section
/-! DEFINITION. The deal boundary (R27): the Sieve's results reach the ledger, TOKENS leave, flags take effect, closes, pauses and
deferred writes, and the command DEAL_COMPLETE (R101). -/
namespace Sys2Proof.Machine

/-- A launch word of the Herald (R98). -/
def herWord (kind epoch through : Nat) (s : State) : State := launchWord kind [(4, kind), (48, epoch), (12, through)] s

/-! Step 2: results (R27, R146, R156, R158, R160). -/

/-- One emitted token enters a penalty count table of at most `cap` entries; the Bool says that there was no room (R146). -/
def countTok (cap tok : Nat) (p : Bool × List (Nat × Nat)) : Bool × List (Nat × Nat) :=
  let n := tget 0 p.2 tok
  if n ≠ 0 then (p.1, tins p.2 tok (sat 16777215 (n + 1)))
  else if cap ≤ p.2.length then (true, p.2)
  else (p.1, tins p.2 tok 1)

/-- The seat's emitted tokens enter its count table (R146). -/
def countToks (i : Nat) (toks : List Nat) (s : State) : State :=
  let r := each (countTok (s.fld F.SIEVE_PCTCFG_CAP)) toks (false, (s.side i).pct)
  let s := modSeat i (fun a => { a with pctUsed := BitVec.ofNat 16 r.2.length })
    (modSide i (fun d => { d with pct := r.2 }) s)
  if r.1 then setFlag F.SIEVE_SAMPFLAGS_PCTFULL (bump 0x76 (modSieve (fun q => { q with results := q.results.map fun x =>
      if x.seat == i && x.gen == (s.seat i).gen.toNat then { x with pctFull := true } else x }) s)) else s

/-- The draft length that a window of W proposed drafts leads to (R158). -/
def nextDraft (w raise lower prop acc len most : Nat) : Nat :=
  if prop < w then len
  else if raise * prop ≤ acc * 256 ∧ len < most then len + 1
  else if acc * 256 < lower * prop then len - 1
  else len

/-- The draft counters of a seat after a trick with D of 1 or more (R158). -/
def afterTrick (i : Nat) (r : Result) (s : State) : State :=
  let a := s.seat i
  let w := s.rd F.SIEVE_DRAFTCFG_W
  let prop := a.proposed.toNat + r.ndraft
  let acc := a.accepted.toNat + r.nacc
  let len := nextDraft w (s.rd F.SIEVE_DRAFTCFG_RAISE) (s.rd F.SIEVE_DRAFTCFG_LOWER) prop acc a.draftLen.toNat a.draftMax.toNat
  let s := if a.draftLen.toNat < len then bump 0x7A s else if len < a.draftLen.toNat then bump 0x7B s else s
  modSeat i (fun a => { a with
    draftLen := BitVec.ofNat 4 len
    proposed := if w ≤ prop then 0 else BitVec.ofNat 16 prop
    accepted := if w ≤ prop then 0 else BitVec.ofNat 16 acc
    tricks := if a.tricks = 0xFFFFFF then a.tricks else a.tricks + 1 }) s

/-- A deal run at DRAFTLEN 0 counts toward a probe (R158). -/
def afterPlain (i : Nat) (s : State) : State :=
  let a := s.seat i
  let n := a.proposed.toNat + 1
  if s.rd F.SIEVE_DRAFTCFG_PROBE ≤ n then
    bump 0x7C (modSeat i (fun a => { a with draftLen := 1, proposed := 0, accepted := 0 }) s)
  else modSeat i (fun a => { a with proposed := BitVec.ofNat 16 n }) s

/-- The draft counters of a seat after a deal (R158). -/
def updDraft (i : Nat) (r : Result) (s : State) : State :=
  let a := s.seat i
  if !a.draftOn || a.draftMax == 0 then s
  else if a.draftLen ≠ 0 ∧ r.kind = 2 ∧ 0 < r.dlen then afterTrick i r s
  else if a.draftLen = 0 ∧ (r.kind = 1 ∨ (r.kind = 2 ∧ r.dlen = 0)) then afterPlain i s
  else s

/-- Tokens emitted beyond RES since admission are debited (R44). -/
def debitToks (i n : Nat) (s : State) : State :=
  let a := s.seat i
  if a.role = 2 then s
  else
    let c := a.generated.toNat - (s.side i).gen0
    let res := (s.side i).res
    let k := (c + n - res) - (c - res)
    debit i (k * (s.tenant a.tenant.toNat).wGen.toNat : Nat) s

/-- µs from arrival to now as FIRSTTOK and LASTTOK hold them (R22). -/
def State.tokTime (s : State) (i : Nat) : BitVec 32 := BitVec.ofNat 32 (s.elapsed i)

/-- The fields that emitted tokens move: GENERATED, NEXTPOS, DRAWIDX, TAIL, FIRSTTOK, LASTTOK (R22, R27, R156). -/
def progress (toks : List Nat) (at_ : BitVec 32) (a : Seat) : Seat :=
  let t := a.tail ++ toks.map (BitVec.ofNat 20)
  let t := t.drop (t.length - 15)
  { a with
    generated := a.generated + BitVec.ofNat 24 toks.length, nextPos := a.nextPos + BitVec.ofNat 32 toks.length, drawIdx := 0
    tail := t, tailLen := BitVec.ofNat 4 t.length
    firstTok := if a.generated = 0 ∧ toks ≠ [] then at_ else a.firstTok
    lastTok := if toks = [] then a.lastTok else at_ }

/-- Tokens that a seat emits at a boundary: the record, the count table, the pot, a lead's stretch, the next feed (R27). -/
def takeToks (i : Nat) (toks : List Nat) (s : State) : State :=
  let s := countToks i toks (debitToks i toks.length s)
  let s := modSeat i (progress toks (s.tokTime i)) s
  let s := modSide i (fun d => { d with emitted := d.emitted ++ toks }) s
  let s := if (s.seat i).role = 1 then modSplit i (fun e => { e with len := e.len + toks.length }) s else s
  bumpN 0x73 toks.length (modDeals (fun d => { d with fresh := tput [] d.fresh i toks }) s)

/-- The state a result leaves its seat in: Ready with a first token, Draining with a stop or a draw from an EMPTY row
(R25, R27, R160). -/
def resultState (i : Nat) (r : Result) (s : State) : State :=
  let s := if (s.seat i).state = .prefilling ∧ r.emitted ≠ [] then modSeat i (fun a => { a with state := .ready }) s else s
  if r.emptyDraw then modSide i (fun d => { d with badReason := 0x7F }) s
  else match r.stop with
    | some k => modSeat i (fun a => { a with state := .draining, stopSeen := true, closeReason := BitVec.ofNat 8 k }) s
    | none => s

/-- A seat result record is written to its seat (R27 step 2). A seat that was to close already takes nothing from it. -/
def writeSeat (r : Result) (s : State) : State :=
  let i := r.seat
  let st := (s.seat i).state
  if st = .prefilling ∨ st = .ready ∨ st = .dealt then
    let s := if 0 < r.dlen ∧ r.kind = 2 then bumpN 0x72 r.nacc (bumpN 0x71 r.ndraft (bump 0x70 s)) else s
    resultState i r (takeToks i r.emitted (updDraft i r s))
  else s

/-- One seat of the deal: PREFILLED rises by its chunk, its result is written (R27 step 2). -/
def writeBack (x : DealSeat) (s : State) : State :=
  if !s.current x.seat x.gen then s
  else
    let s := if (x.kind = 3 ∨ x.kind = 4) ∧ (s.seat x.seat).state = .prefilling then
        modSeat x.seat (fun a => { a with prefilled := a.prefilled + BitVec.ofNat 24 x.chunkLen }) s
      else s
    match s.sieve.results.find? fun r => r.seat == x.seat && r.gen == x.gen with
    | some r => writeSeat r s
    | none => s

/-- Blocks of a seat whose every position is in place, from the start of its chain (R177). -/
def State.wholeBlocks (s : State) (i : Nat) : Nat :=
  let a := s.seat i
  if a.generated = 0 then (a.prefilled.toNat + s.tokOff i) / 64 else (a.nextPos.toNat - 1) / 64

/-- A block of a seat's chain, by its number, has yet to be taken as complete: it is not Complete, or the prompt pool returned it
since the latest boundary. -/
def State.unfinished (s : State) (i j : Nat) : Bool :=
  (s.side i).toIndex.contains j || match (s.chain i)[j - 1 - s.blkBase i]? with
    | some b => (s.blk b).state != .complete || (s.blk b).depth == 0
    | none => false

/-- The blocks of a seat that have become complete are written and indexed (R177, R194); none is once its context-table entry is
unreadable (R305). -/
def completeBlocks (i : Nat) (s : State) : State :=
  let b := s.blkBase i
  let due := fun (j : Nat) => (s.side i).toIndex.contains j || (decide (j ≤ s.wholeBlocks i) && s.unfinished i j)
  let js := if (s.side i).ctxLost then [] else ((List.range (s.seat i).kvBlocks.toNat).map fun k => b + 1 + k).filter due
  modSide i (fun d => { d with toIndex := [] }) (each (completeBlock i) js s)

/-- Seats whose blocks may have completed: those of the deal and those with blocks returned by the prompt pool, in index order. -/
def State.toComplete (s : State) (d : Deal) : List Nat :=
  sortBy (fun a b => decide (a ≤ b)) (nodupNat ((d.seats.filter fun x => s.current x.seat x.gen).map (·.seat) ++
    (s.led.sides.filter fun e => e.2.toIndex != []).map (·.1)))

/-- What the result registers and the trace say of the completed deal (R145, R167, R290). -/
def recordResults (r : Running) (done : Nat) (s : State) : State :=
  let v := s.sieve
  let tail := if done < v.lastFinal then sat 0xFFFF ((v.lastFinal - done) / 64) else 0
  let tricks := v.results.filter fun x => x.kind == 2 && decide (0 < x.dlen)
  let s := setReg 0x2038 (pack [(18, v.rowsSeen), (18, v.rowsRefilled), (12, v.maxRound), (16, tail)]) s
  let s := setReg 0x2060 (pack [(18, tricks.length), (18, sumOf (tricks.map (·.ndraft))), (18, sumOf (tricks.map (·.nacc))), (10, 0)]) s
  let s := setReg 0x2068 (pack [(18, sumOf (v.results.map fun x => x.emitted.length)),
    (18, (v.results.filter fun x => x.stop.isSome).length), (18, v.approxRows), (10, 0)]) s
  let s := setReg 0x1870 (pack [(32, sat 0xFFFFFFFF ((s.now - r.launchedAt) / 64)), (32, sat 0xFFFFFFFF (r.holdNs / 64))]) s
  if done < v.lastFinal then
    trace (mkTrc 0x05 r.deal.epoch v.lastLane 0 0xFFF done (v.lastFinal - done) false v.lastRounds) s
  else s

/-! Step 3: TOKENS (R27, R251, R252). -/

/-- The TOKENS message of a result; ELAPSED is written when it leaves. -/
def tokensMsg (s : State) (r : Result) (first : Bool) : Msg :=
  let n := r.emitted.length
  let fl := (sumOf ((nodupNat r.flags).map fun k => 2 ^ k)) / 8
  mkMsg .G 0 0x14 [(4, n), (8, fl), (1, bit first), (31, 0)]
    ([(s.seat r.seat).reqid, pack [(32, r.firstPos), (32, 0)]] ++ packToks n r.emitted) 0 []

/-- Nothing of a seat's request waits in the outbound queue. -/
def State.noneQueued (s : State) (i : Nat) : Bool :=
  s.ports.queue.all fun q => !(q.kind != 0 && q.seat == i && q.gen == (s.seat i).gen.toNat)

/-- The row-1 and row-2 reasons of R32 and CANCEL suppress a seat's tokens of the deal. -/
def State.suppressed (s : State) (i : Nat) : Bool :=
  (s.seat i).cancel || (s.side i).badReason == 0x7F || (s.side i).badReason == 0x30

/-- A seat's TOKENS message leaves under its seat lease, or queues for credit (R252). A seat whose CLOSE was formed while the deal
ran took nothing of it and sends nothing more (R16, R30). -/
def sendTokens (r : Result) (s : State) : State :=
  let i := r.seat
  if r.emitted = [] ∨ s.suppressed i = true ∨ s.current i r.gen = false ∨ (s.side i).closeSent = true then s
  else
    let m := tokensMsg s r ((s.seat i).generated.toNat == r.emitted.length)
    if (s.side i).lease && s.noneQueued i then
      leave ⟨m, 1, i, r.gen, 1, r.emitted.length, 0, false⟩ false (modSide i (fun d => { d with lease := false }) s)
    else sendFor m 1 i 1 r.emitted.length s

/-! Steps 3 to 7: closes, pauses, leases (R27, R30, R32, R111). -/

/-- The reasons that have arisen for a seat at this boundary. -/
def State.reasons (s : State) (i : Nat) : List Nat :=
  let a := s.seat i
  (if (s.side i).badReason = 0 then [] else [(s.side i).badReason]) ++ (if a.cancel then [0x10] else []) ++
    (if a.stopSeen then [a.closeReason.toNat] else [])

/-- One reason stands (R32): the seat enters Draining with it and CLOSE follows its last TOKENS (R30). -/
def finalReason (i : Nat) (s : State) : State :=
  match bestOf (fun (a b : Nat) => decide (failRank a < failRank b)) (s.reasons i) with
  | some r =>
    if (s.side i).closeSent then s
    else closeOut i (enterDraining i r (modSide i (fun d => { d with badReason := 0 }) s))
  | none => s

/-- Closes of steps 2 to 4: every seat in Prefilling, Ready, Dealt or newly Draining that has a reason. -/
def boundaryCloses (s : State) : State := each finalReason (s.seatsIn [.prefilling, .ready, .dealt, .draining]) s

/-- The seat whose leased fetch owns the C-link gate (R113, R221). -/
def State.fetchingSeat (s : State) : Option Nat :=
  match (s.gate 0).p0.owner with
  | some r => if r ≤ 1 then (s.tagUse ((s.gate 0).req 0 r).tag).bind TagUse.seat else none
  | none => none

/-- The transfer that owns a gate's path is one whose seat lease has lapsed (R113, R232). -/
def lapseOwner (g : Nat) (s : State) : State :=
  match (s.gate g).p0.owner with
  | some r => if r ≤ 1 then modReq g 0 r (fun q => { q with lapsed := true }) s else s
  | none => s

/-- The seat leases of a deal lapse: messages not used return to the credit of ports G and C that they came from, but the credit of a
transfer that owns its gate is kept until its grant ends (R111, R113, R232, R252). -/
def lapseLeases (s : State) : State :=
  let held := (s.led.sides.filter fun e => e.2.lease || e.2.leaseC || e.2.leaseN).map (·.1)
  let busy := match s.fetchingSeat with
    | some i => if (s.side i).leaseN then some i else none
    | none => none
  let n := s.ports.pool + (held.filter fun i => (s.side i).lease).length
  let c := s.ports.poolC + (held.filter fun i => (s.side i).leaseC && some i != busy).length
  let s := if busy.isSome then lapseOwner 0 s else s
  let s := if s.led.sides.any fun e => e.2.leaseN then lapseOwner 2 s else s
  let s := each (fun i s => modSide i (fun d => { d with lease := false, leaseC := d.leaseC && some i == busy, leaseN := false }) s) held s
  giveBack .C c (giveBack .G n (modPorts (fun p => { p with pool := 0, poolC := 0 }) s))

/-- Step 5: seats with PAUSEREQ become Paused, and the leases of the deal lapse. -/
def boundaryPauses (epoch : Nat) (s : State) : State :=
  lapseLeases (each (fun i s => pauseSeat i epoch s) ((s.seatsIn [.ready, .dealt]).filter fun i => (s.seat i).pauseReq) s)

/-- A seat holds rows in the deal handed off. -/
def State.rowsNextDeal (s : State) (i : Nat) : Bool := match s.deals.handed with
  | some d => d.seats.any fun x => x.seat == i && x.gen == (s.seat i).gen.toNat && (x.kind == 1 || x.kind == 2 || x.kind == 5)
  | none => false

/-- Step 6: Dealt seats with no rows in the next deal become Ready. -/
def undeal (s : State) : State :=
  each (fun i s => if s.rowsNextDeal i then s else modSeat i (fun a => { a with state := .ready }) s) (s.seatsIn [.dealt]) s

/-! Step 8: deferred writes (R27, R81, R139, R286, R300). -/

/-- The slot-table banks swap when SWAPREQ is 1, and the new active bank is copied into the new shadow bank (R81). -/
def swapBanks (s : State) : State :=
  if s.fld F.DEAL_SLOTCFG_SWAPREQ = 1 then
    setFld F.DEAL_SLOTCFG_SWAPREQ 0 (modDeals (fun d =>
      if d.active then { d with active := false, bankB := d.bankA } else { d with active := true, bankA := d.bankB }) s)
  else s

/-- A new range marker is traced (R289, R290). -/
def traceMarker (epoch : Nat) (s : State) : State :=
  let old := s.rd F.OBS_MARK_MARKER
  let new := s.fld F.OBS_MARK_MARKER
  if old = new then s else trace (mkTrc 0x11 epoch new 0 0xFFF s.now 0 false old) s

/-- The epoch of the next deal to launch (R10, R139). -/
def State.epochNext (s : State) : Nat := match s.deals.handed with
  | some d => d.epoch
  | none => s.deals.nextEpoch

/-- Deferred register writes take effect, and CAND_CFG leaves when FIRST is one of them (R7, R139). -/
def applyDeferred (s : State) : State :=
  let cfg := s.rd F.SIEVE_CANDCFG_FIRST != s.fld F.SIEVE_CANDCFG_FIRST
  let s := if cfg then modSieve (fun q => { q with candCfgDue := true }) s else s
  let s := { s with force := s.regs, obs := { s.obs with digForce := s.obs.dig } }
  if s.portOpen .F then candCfg s.epochNext s else s

/-- A SNAP that waits copies the counters (R286). -/
def snapDue (s : State) : State :=
  if s.obs.snapPend then takeSnap (modObs (fun o => { o with snapPend := false }) s) else s

/-- Step 8 (R27), and the records of the epoch that has completed (R121). -/
def boundaryWrites (epoch : Nat) (s : State) : State :=
  let s := snapDue (applyDeferred (swapBanks (traceMarker epoch s)))
  setFld F.HER_REC_LEDGER_EPOCH epoch (setFld F.HER_REC_SIEVE_EPOCH epoch (setFld F.HER_REC_CLUSTER_EPOCH epoch s))

/-! The cut that a boundary stop makes (R115, R116). -/

/-- DISCARD for a deal that has been handed off and not launched (R98, R115); its epoch, or 0. -/
def discardHanded (s : State) : Nat × State := match s.deals.handed with
  | none => (0, s)
  | some d =>
    let s := endBindings (fun n => n == d.epoch) (bump 0x5B (herWord 4 d.epoch 0 s))
    (d.epoch, modPorts (fun p => { p with fQueue := p.fQueue.filter fun e => e.2.op == 0x48 })
      (modDeals (fun q => { q with handed := none, feed := [], feedSent := false, nextEpoch := d.epoch }) s))

/-- A boundary that waited for the Dealer when a stop came: the wait is traced as cut (R290). -/
def cutDealerWait (s : State) : State :=
  match s.deals.boundaryOf with
  | some e => if s.deals.handed.isNone then
      trace (mkTrc 0x04 e 0 0 0xFFF s.deals.boundaryAt (s.now - s.deals.boundaryAt) true 0) s
    else s
  | none => s

/-- STOPPED is set: the stop's record, its counter, and the ledger's actions of a stopped node (R115, R290, R327). -/
def setStopped (mode discarded : Nat) (s : State) : State :=
  let s := setFld F.HER_REC_DEALER_EPOCH discarded s
  let s := modDeals (fun d => { d with stopped := true, stopping := false, pendStop := none, stopMode := mode }) s
  let s := trace (mkTrc 0x10 discarded mode 0 0xFFF s.now 0 false discarded) (bump (if mode = 1 then 0x59 else 0x5A) s)
  idleActions s

/-- SPLIT_PAUSE for every split seat that an epoch dealt (R116, R117). -/
def pauseSplits (epoch : Nat) (s : State) : State :=
  each (fun i s => tellFollowers 0x73 i s) (s.seatIdx.filter fun i =>
    let a := s.seat i
    a.role == 1 && a.lastEpoch.toNat == epoch && (a.state == .ready || a.state == .dealt || a.state == .prefilling)) s

/-- The consistent cut of a boundary stop, of a stop at the end of a boundary, and of an idle stop (R115, R116). -/
def haltCut (mode : Nat) (s : State) : State :=
  let e := s.deals.lastDone
  let s := endHold true (cutDealerWait s)
  let r := discardHanded s
  let s := freezeGates r.2
  let s := modDeals (fun d => { d with composing := none, boundaryOf := none, emptied := false, fresh := [] }) s
  let s := each (fun i s => modSeat i (fun a => { a with state := .ready }) s) (s.seatsIn [.dealt]) s
  let s := setFld F.HER_REC_LEDGER_EPOCH e (setFld F.HER_REC_SIEVE_EPOCH e (setFld F.HER_REC_CLUSTER_EPOCH e s))
  let s := setFld F.HER_REC_LANES_LANES 0 (setReg 0x1850 0 s)
  setStopped mode r.1 (if e = 0 then s else pauseSplits e s)

/-! The boundary (R27, R84, R101). -/

/-- Step 1: the deal is complete; RETIRE leaves, and what the deal held in the block goes (R98, R101). -/
def completeDeal (r : Running) (done : Nat) (s : State) : State :=
  let e := r.deal.epoch
  let s := recordResults r done (applyOps (herWord 3 e 0 (endHold false s)))
  let s := modDeals (fun d => { d with
    running := none, lastDone := e, boundaryOf := some e, boundaryAt := s.now, emptied := false, fresh := []
    peerWaits := [], followWaits := [] }) s
  hotRetry (chipAtComplete (ringDone e (setFld F.MOD_LASTSTEP_FLASHREAD (s.model r.deal.model r.deal.slot).flashBytes s)))

/-- Step 2. -/
def stepTwo (r : Running) (s : State) : State :=
  let s := each completeBlocks (s.toComplete r.deal) (each writeBack r.deal.seats s)
  updEstimators r s

/-- Steps 3 to 7, with what firmware does after step 3. -/
def stepsThreeToSeven (r : Running) (s : State) : State :=
  let e := r.deal.epoch
  let broke := s.exhausted
  let s := boundaryCloses (each sendTokens s.sieve.results s)
  let s := loadEval (dropCheck (exhaustSeats broke s))
  let s := undeal (endBindings (fun n => decide (n ≤ e)) (boundaryPauses e s))
  each finishDraining (s.seatsIn [.draining]) s

/-- After step 8: a boundary stop, or the feed of the next deal, or the wait for the Dealer, which is flagged and counted (R84, R90,
R116). -/
def afterBoundary (epoch : Nat) (s : State) : State :=
  let stop := match s.deals.pendStop with
    | some es => decide (es ≤ epoch)
    | none => false
  if stop then haltCut 1 s
  else if s.deals.handed.isSome then sendFeed s
  else
    if !s.on F.DEAL_CTRL_ENABLE && s.deals.composing.isNone then endBoundary s
    else setFlag F.DEAL_STATUS_LATE (bump 0x41 s)

/-- The running deal is complete: boundary steps 1 to 8 (R27, R101). -/
def dealComplete (r : Running) (done : Nat) (s : State) : State :=
  let e := r.deal.epoch
  let s := stepsThreeToSeven r (stepTwo r (completeDeal r done s))
  let s := modSieve (fun q => { q with rows := [], runs := [], results := [] }) s
  afterBoundary e (spillOrders e (boundaryWrites e s))

/-- DEAL_COMPLETE: epoch-done has been taken and the Sieve has no row of the deal open (R101). -/
def execDealComplete (t : BitVec 64) (s : State) : Host.Outcome State Fault Refusal :=
  if !s.mainOn then .next (tick t s) else
  let s := tick t s
  match s.deals.running with
  | some r => match r.epochDone with
    | some done => if s.sieve.runs.isEmpty && !r.abandoned then .next (finish (dealComplete r done s)) else .next s
    | none => .next s
  | none => .next s

end Sys2Proof.Machine
end

