-- ==== Sys2Proof/Machine/Herald.lean ====
section
/-! DEFINITION. The Herald: launch, layer release and layer-done (R98, R103, R104, R111), epoch-done (R100), stops and GO (R115 to
R118), the write lock (R320), and the ledger's scrubber (R37). -/
namespace Sys2Proof.Machine

/-! Launch (R27 step 9, R103, R111). -/

/-- A seat's entry of a deal launches void: its reference is stale, or it is no longer in a state that runs it (R27, R90). -/
def State.voidAt (s : State) (feed : List FeedEnt) (x : DealSeat) : Bool :=
  let st := (s.seat x.seat).state
  let runs := if x.kind = 3 ∨ x.kind = 4 then st == .prefilling
    else st == .ready || st == .dealt || (x.kind == 5 && st == .prefilling)
  (s.seat x.seat).gen.toNat != x.gen || !runs || feed.any fun e => e.seat == x.seat && e.gen == x.gen && e.void

/-- The draft length D that the feed carries for a seat (R72). -/
def draftOf (feed : List FeedEnt) (x : DealSeat) : Nat := match feed.find? fun e => e.seat == x.seat && e.gen == x.gen with
  | some e => e.draftLen
  | none => 0

/-- A row of which no list has arrived. -/
def Row.open_ (x : DealSeat) (row : Nat) : Row where
  seat := x.seat
  gen := x.gen
  row := row
  lane := x.lane
  held := []
  sums := []
  lastShard := none
  round := 0
  want := []
  overflow := false
  dups := 0
  nanIn := false
  sortErr := false
  undef := false
  limit := false
  refilled := false
  reserved := 0
  waiting := none
  sampUsed := false
  sel := none
  final := false
  approx := false
  bnd := none

/-- A seat's run through the deal, with `d` drafts to come; drafts are waited for only in trick rows (R148, R157). `ended` says that
no row of it is to be evaluated. -/
def SeatRun.start (x : DealSeat) (d : Nat) (ended : Bool) : SeatRun where
  seat := x.seat
  gen := x.gen
  lane := x.lane
  kind := x.kind
  dlen := d
  live := d + 1
  drafts := if x.kind = 2 then none else some []
  i := 0
  emitted := []
  nacc := 0
  stop := none
  ended := ended
  flags := []
  emptyDraw := false

/-- The Sieve opens the rows of a deal that will yield candidates (R122): live rows of kinds 1 and 2, and the last row of a final
chunk, which the clusters run even for a seat that has since been closed. -/
def openRows (feed : List FeedEnt) (voided : List Nat) (seats : List DealSeat) (s : State) : State :=
  let live := seats.filter fun x => x.kind == 4 || ((x.kind == 1 || x.kind == 2) && !voided.contains x.seat)
  modSieve (fun q => { q with
    rows := live.flatMap fun x => (List.range ((if x.kind = 2 then draftOf feed x else 0) + 1)).map (Row.open_ x)
    runs := live.map fun x => SeatRun.start x (if x.kind = 2 then draftOf feed x else 0) (voided.contains x.seat)
    results := [], rowsSeen := 0, rowsRefilled := 0, maxRound := 0, approxRows := 0, lastFinal := 0, lastLane := 0, lastRounds := 0 }) s

/-- Seats of the deal with rows become Dealt; LASTEPOCH is set for every seat of it (R27). -/
def dealSeat (epoch : Nat) (x : DealSeat) (s : State) : State :=
  if !s.current x.seat x.gen then s
  else modSeat x.seat (fun a => { a with
    lastEpoch := BitVec.ofNat 48 epoch
    state := if (x.kind = 1 ∨ x.kind = 2 ∨ x.kind = 5) ∧ a.state = .ready then .dealt else a.state }) s

/-- The seat lease of a seat of the deal: one STREAM message of port G and one fetch of port C while their pools last, and the exchange
on port N, whose credit is the peer leases' (R111, R244, R252). -/
def giveLease (x : DealSeat) (s : State) : State :=
  if s.current x.seat x.gen = false then s
  else
    let g := decide (0 < s.ports.pool)
    let c := decide (0 < s.ports.poolC)
    let kept := (s.side x.seat).leaseC
    modSide x.seat (fun d => { d with lease := g, leaseC := kept || c, leaseN := true })
      (modPorts (fun p => { p with pool := p.pool - 1, poolC := if kept then p.poolC else p.poolC - 1 }) s)

/-- A port sets `n` messages of class 1 aside. -/
def setAside (p : Port) (n : Nat) (s : State) : State :=
  if n = 0 then s else modSess p 0 (fun e => { e with out := modNth (· - n) e.out 1 }) s

/-- The ports set their pools aside and the seats of the deal take their leases, in descriptor order (R111, R252). The spec does not
say how much port C sets aside: a free value, at most the credit held (log entry 56). -/
def giveLeases (d : Deal) (s : State) : State :=
  let n := min (s.fld F.PORTG_STREAM_POOL) (s.outCredit .G 0 1)
  let f := takeFree s
  let c := f.1 % (s.outCredit .C 0 1 + 1)
  each giveLease d.seats (modPorts (fun p => { p with pool := n, poolC := c }) (setAside .C c (setAside .G n f.2)))

/-- Blocks of the deal's seats, and the versions it uses, carry its epoch as their latest use (R175, R205). -/
def stampUse (d : Deal) (s : State) : State :=
  let s := each (fun (x : DealSeat) s => if s.current x.seat x.gen then
      each (fun b s => modBlk b (fun y => { y with stamp := d.epoch % 2 ^ 32 }) s) (s.chain x.seat) s
    else s) d.seats s
  let s := modModel d.model d.slot (fun x => { x with stamp := d.epoch % 2 ^ 32 }) s
  each (fun (x : DealSeat) s => if x.kind = 2 then
      modModel (s.seat x.seat).draftM.toNat (s.seat x.seat).draftVs.toNat (fun y => { y with stamp := d.epoch % 2 ^ 32 }) s
    else s) d.seats s

/-- Slack rows of a seat's entry (R72). -/
def slackOf (feed : List FeedEnt) (x : DealSeat) : Nat := if x.kind = 2 then x.rows - 1 - draftOf feed x else 0

/-- What the counters and DEAL_LAST1 say of a launch (R95, R285); seat-deals and boundary time are of a boundary. -/
def countLaunch (d : Deal) (feed : List FeedEnt) (voided : List Nat) (s : State) : State :=
  let void := sumOf ((d.seats.filter fun x => voided.contains x.seat).map (·.rows))
  let slack := sumOf ((d.seats.filter fun x => !voided.contains x.seat).map (slackOf feed))
  let lead := d.seats.any fun x => x.split && (x.kind == 1 || x.kind == 2)
  let s := bumpN 0x45 void (bumpN 0x44 slack (bump 0x50 s))
  let s := setFld F.DEAL_LAST1_SLACKROWS (slack + void) (if lead then bump 0x5D s else s)
  if s.deals.boundaryOf.isNone then s
  else
    let n := fun st => (s.seatsIn [st]).length
    let used := (s.led.seats.filter fun e => e.2.state != .free).length
    let s := bumpN 0x5F ((s.now - s.deals.boundaryAt) / 64) (bumpN 0x20 (65536 - used) s)
    each (fun (st : SeatState) s => bumpN (0x20 + st.code) (n st) s)
      [.opening, .routed, .prefilling, .ready, .dealt, .paused, .spilled, .draining, .closed] s

/-- A deal of a class H main model that is not joint is released whole (R103). -/
def State.wholeAt (s : State) (d : Deal) : Bool :=
  s.classH d.model d.slot && !(d.seats.any fun x => x.split && (x.kind == 1 || x.kind == 2))

/-- THROUGH of a launch word for layers released up to one below `n`; 0xFFF for every layer (R98). -/
def throughField (n : Nat) : Nat := if n = 4096 then 0xFFF else n - 1

/-- Seats of kind 5 wait for their first QUERY from the launch on, while their lead has live rows (R107, R109). -/
def followSeat (epoch : Nat) (voided : List Nat) (x : DealSeat) (s : State) : State :=
  if x.kind = 5 ∧ voided.contains x.seat = false ∧ ((s.split x.seat).bound.any fun b => b.2 == epoch) = true then
    modDeals (fun q => { q with followWaits := q.followWaits ++ [(x.seat, s.now)] }) s
  else s

/-- JOINT_GO for a lead's entry, with its live rows and the tokens of the boundary before (R107). -/
def goEntry (d : Deal) (feed : List FeedEnt) (voided : List Nat) (x : DealSeat) (s : State) : State :=
  if x.split then goSeat d.epoch (if voided.contains x.seat then 0 else draftOf feed x + 1) x (tget [] s.deals.fresh x.seat) s else s

/-- The handed-off deal launches (R27 step 9, R103). -/
def launchDeal (d : Deal) (s : State) : State :=
  let feed := s.deals.feed
  let voided := (d.seats.filter (s.voidAt feed)).map (·.seat)
  let held := match s.deals.hold with
    | some h => s.now - h.since
    | none => 0
  let s := endHold false s
  let r0 : Running := { d.asRun feed s.now with voided := voided, holdNs := held }
  let s := modDeals (fun q => { q with running := some r0, handed := none, feed := [], feedSent := false, runEpoch := d.epoch }) s
  let n := if s.wholeAt d then 4096 else s.releasable r0
  let r1 : Running := { r0 with through := n }
  let s := herWord 1 d.epoch (throughField n) (modDeals (fun q => { q with running := some r1 }) s)
  let s := openRows feed voided d.seats (each (dealSeat d.epoch) d.seats s)
  let s := countLaunch d feed voided s
  let s := each (goEntry d feed voided) d.seats s
  let s := each (followSeat d.epoch voided) d.seats (giveLeases d (stampUse d s))
  let s := modDeals (fun q => { q with boundaryOf := none, fresh := [] }) s
  sievePump (if (s.model d.model d.slot).poisoned then closeUsers d.model d.slot s else s)

/-- LAUNCH: the deal is handed off, its feed has left and layer 0 can be released; otherwise the hold of layer 0 is recorded
(R103, R104). -/
def execLaunch (t : BitVec 64) (s : State) : Host.Outcome State Fault Refusal :=
  if !s.mainOn then .next (tick t s) else
  let s := tick t s
  match s.deals.handed with
  | some d => if s.launchDue && s.layerIn d.model d.slot d.epoch 0 then .next (finish (launchDeal d s)) else .next (holdStep s)
  | none => .next s

/-- Layers are released as far ahead as R103 allows. -/
def releaseLayers (r : Running) (s : State) : State :=
  let n := s.releasable r
  if n ≤ r.through ∨ r.abandoned = true then s
  else
    let s := endHold false (herWord 2 r.deal.epoch (throughField n) s)
    let up := fun (x : Running) => { x with through := n }
    modDeals (fun q => { q with running := q.running.map up }) s

/-- LAYER_RELEASE (R103, R104). -/
def execLayerRelease (t : BitVec 64) (s : State) : Host.Outcome State Fault Refusal :=
  if !s.mainOn then .next (tick t s) else
  let s := tick t s
  match s.deals.running with
  | some r => .next (finish (releaseLayers r s))
  | none => .next s

/-- The tree's layer-done value: ring space of the layers done is freed (R100, R211). -/
def layerDone (r : Running) (layer : Nat) (s : State) : State :=
  let up := fun (x : Running) => { x with layerDone := max x.layerDone layer }
  ringFree r.deal.epoch layer (modDeals (fun q => { q with running := q.running.map up }) s)

/-- LAYER_DONE (R100). -/
def execLayerDone (t : BitVec 64) (layer : BitVec 12) (s : State) : Host.Outcome State Fault Refusal :=
  if !s.mainOn then .next (tick t s) else
  let s := tick t s
  match s.deals.running with
  | some r => .next (finish (layerDone r layer.toNat s))
  | none => .next s

/-! Stops (R115 to R118). -/

/-- Operation records that count: none while OPSEN is 0 (R288). -/
def State.opsOf (s : State) (recs : List OpsRec) : List OpsRec := if s.on F.OBS_CTRL_OPSEN then recs else []

/-- Every group in use has its bit in a mask. -/
def State.allGroups (s : State) (mask : Nat) : Bool := s.groups.all fun g => mask.testBit g

/-- A group mask as groups in use have it. -/
def State.groupBits (s : State) (mask : Nat) : Nat := sumOf ((s.groups.filter fun g => mask.testBit g).map fun g => 2 ^ g)

/-- Every group has acknowledged STOP: the cluster records, the counts of the work done, the closes that the abandoned deal's
boundary would have made, and STOPPED (R100, R117). -/
def stopAck (r : Running) (ahead : Nat) (recs : List OpsRec) (s : State) : State :=
  let s := addAll r.deal (s.opsOf recs) (applyOps s)
  let whole := s.allGroups ahead
  let s := setFld F.HER_REC_CLUSTER_EPOCH (if whole then r.deal.epoch else s.deals.lastDone) s
  let s := setReg 0x1850 (BitVec.ofNat 64 (if whole then 0 else s.groupBits ahead)) s
  let s := hotRetry (chipAtComplete (ringDone r.deal.epoch (modDeals (fun d => { d with running := none }) s)))
  let bad := (s.led.sides.filter fun e => e.2.badReason != 0).map (·.1)
  let s := each (fun i s => closeSeat i (s.side i).badReason (modSide i (fun d => { d with badReason := 0 }) s)) bad
    (modDeals (fun d => { d with stopped := true }) s)
  setStopped 2 (s.fld F.HER_REC_DEALER_EPOCH) s

/-- The record of an open wait at an immediate stop, of the kinds that MINWAIT filters (R290, R291, R297). -/
def traceCut (kind epoch waitFor waiter layer start detail : Nat) (s : State) : State :=
  let d := s.now - start
  if 64 * s.fld F.TRC_CFG_MINWAIT ≤ d then trace (mkTrc kind epoch waitFor waiter layer start d true detail) s else s

/-- Requesters that wait for a path of a gate. -/
def State.gateWaiters (s : State) (g p : Nat) : List Nat :=
  (requesters g).filter fun r => ((s.gate g).req p r).requesting && ((s.gate g).path p).owner != some r

/-- The waits that an immediate stop leaves waiting are recorded as open at it too: for a gate, for credit, for a fetch, for ring room
(R297; log entry 61). -/
def cutOpen (s : State) : State :=
  let s := each (fun g s => each (fun p s => each (fun r s =>
    traceCut 0x07 s.epochNow (s.ownerAt g p) (16 * g + r) 0xFFF ((s.gate g).req p r).waitFrom p s) (s.gateWaiters g p) s)
    (pathsOf g) s) [0, 1, 2] s
  let s := each (fun (i : OutItem) s =>
    if i.atGate then s else traceCut 0x09 0 i.msg.peer (16 * portNo i.msg.port + i.cls) 0xFFF i.queuedAt 0 s) s.ports.queue s
  let s := each (fun (e : Nat × TagUse) s => match e.2 with
    | .fetch _ _ _ b _ => each (fun i s => match (s.side i).lookup with
      | some l => traceCut 0x0D 0 ((l.run.takeWhile fun k => k.blk != b).length + 1) i 0xFFF (tget 0 s.kv.tagAt e.1) 0 s
      | none => s) (s.waitersOf b) s
    | _ => s) s.kv.tags s
  match s.seq.stageWait, s.seq.queue.find? fun f => f.dst == 0 with
  | some since, some f => trace (mkTrc 0x0C f.epoch f.obj 0 0xFFF since (s.now - since) true f.m) s
  | _, _ => s

/-- Waits that an immediate stop ends are traced as cut (R290). -/
def cutWaits (r : Running) (s : State) : State :=
  let s := endHold true s
  let s := match r.epochDone with
    | some e => trace (mkTrc 0x05 r.deal.epoch s.sieve.lastLane 0 0xFFF e (s.now - e) true s.sieve.lastRounds) s
    | none => s
  cutOpen (match s.obs.opsHeld with
  | some (e, since, recs) => trace (mkTrc 0x06 e (s.obs.opsQueue.length + recs.length) 0 0xFFF since (s.now - since) true 0) s
  | none => s)

/-- Lanes in use with a seat's run still open. -/
def State.openLanes (s : State) : List Nat := nodupNat (s.sieve.runs.map (·.lane))

/-- What each Sieve lane had completed when the deal was abandoned (R117). -/
def recordLanes (epoch : Nat) (s : State) : State :=
  let busy := s.openLanes
  let ahead := s.lanesOn.filter fun k => !busy.contains k
  if busy = [] then setReg 0x1858 0 (setFld F.HER_REC_SIEVE_EPOCH epoch s)
  else setReg 0x1858 (BitVec.ofNat 64 (shardMask ahead)) (setFld F.HER_REC_SIEVE_EPOCH s.deals.lastDone s)

/-- The Sieve drops what it holds. -/
def dropRows (s : State) : State := modSieve (fun q => { q with rows := [], runs := [], results := [] }) s

/-- The write lock is no longer held; nothing held is taken. -/
def unlock (s : State) : State := modPwr (fun p => { p with locked := none, heldDone := none }) s

/-- An immediate stop while a deal runs (R117). DESIGN CHOICE: a deal whose epoch-done has been signalled has every group's report, so
STOP is acknowledged at once, with every group one epoch ahead (log entry 51). -/
def stopRunning (r : Running) (s : State) : State :=
  let e := r.deal.epoch
  let recs := (match s.obs.opsHeld with
    | some (_, _, l) => l
    | none => []) ++ (match s.pwr.heldDone with
    | some (_, _, _, _, l) => l
    | none => [])
  let done := (r.epochDone.isSome || s.obs.opsHeld.isSome || s.pwr.heldDone.isSome) && s.pwr.state != 5
  let d := discardHanded (herWord 5 e 0 (cutWaits r s))
  let s := setFld F.HER_REC_DEALER_EPOCH d.1 (setFld F.HER_REC_LEDGER_EPOCH d.2.deals.lastDone (recordLanes e d.2))
  let s := candBack (dropRows (lapseLeases (endBindings (fun n => n == e) (pauseSplits e (revokeAll (freezeGates s))))))
  let ab : Running := { r with abandoned := true }
  let s := modDeals (fun q => { q with
    running := some ab, composing := none, boundaryOf := none, emptied := false, fresh := [], peerWaits := [], followWaits := []
    stopping := true, pendStop := none }) s
  let s := unlock (modObs (fun o => { o with opsHeld := none }) s)
  if done then stopAck ab (2 ^ 64 - 1) recs s else s

/-- An immediate stop request (R115). -/
def immediateStop (s : State) : State :=
  if s.deals.stopped || s.deals.stopping then bump 0x5C s
  else match s.deals.running with
    | some r => stopRunning r s
    | none => haltCut 2 (unlock (cutOpen s))

/-- A boundary stop request at an epoch (R115). -/
def boundaryStop (es : Nat) (s : State) : State :=
  if s.deals.stopped || s.deals.stopping then bump 0x5C s
  else
    let pend := fun (n : Nat) => modDeals (fun d => { d with pendStop := some n }) s
    match s.deals.running with
    | some r => pend (max es r.deal.epoch)
    | none => match s.deals.boundaryOf with
      | some e => if es ≤ e then haltCut 1 s else pend es
      | none => haltCut 1 s

/-- SPLIT_RESUME to the followers that a stop paused (R114, R116). -/
def resumeSplits (s : State) : State :=
  each (fun i s => tellFollowers 0x74 i s) (s.seatIdx.filter fun i =>
    let a := s.seat i
    a.role == 1 && a.lastEpoch.toNat == s.deals.runEpoch && s.deals.runEpoch != 0 && (a.state == .ready || a.state == .prefilling)) s

/-- GO: the Herald's freeze clears, Dealt seats become Ready, and deals are composed afresh (R118); before STOPPED reads 1 it is
ignored and counted. -/
def goNode (s : State) : State :=
  if !s.deals.stopped then bump 0x5C s
  else
    let s := releaseGated (thawGates (modDeals (fun d => { d with stopped := false, stopMode := 0 }) s))
    resumeSplits (each (fun i s => modSeat i (fun a => { a with state := .ready }) s) (s.seatsIn [.dealt]) s)

/-- STOP_BOUNDARY: STOPEPOCH and BOUNDARY are written to HER_STOPCTL (R115). -/
def execStopBoundary (t : BitVec 64) (epoch : BitVec 48) (s : State) : Host.Outcome State Fault Refusal :=
  let s := setFld F.HER_STOPCTL_STOPEPOCH epoch.toNat (tick t s)
  if s.cmdOn then .next (finish (boundaryStop epoch.toNat s)) else .next s

/-- STOP_IMMEDIATE: IMMEDIATE is written to HER_STOPCTL (R115). -/
def execStopImmediate (t : BitVec 64) (s : State) : Host.Outcome State Fault Refusal :=
  if !s.cmdOn then .next (tick t s) else
  .next (finish (immediateStop (tick t s)))

/-- STOP_GO: GO is written to HER_STOPCTL (R118). -/
def execStopGo (t : BitVec 64) (s : State) : Host.Outcome State Fault Refusal :=
  if !s.cmdOn then .next (tick t s) else
  .next (finish (goNode (tick t s)))

/-! Epoch-done and the write lock (R100, R320). -/

/-- Epoch-done of an epoch is taken: a completion of the running deal, or the acknowledgement of STOP (R100, R101, R117). -/
def epochDone (epoch ahead : Nat) (abandoned : Bool) (recs : List OpsRec) (s : State) : State :=
  match s.deals.running with
  | some r =>
    if r.deal.epoch ≠ epoch then s
    else if r.abandoned then stopAck r ahead recs s
    else if abandoned || r.epochDone.isSome || s.obs.opsHeld.isSome then s
    else queueOps epoch recs s
  | none => s

/-- While the lock is held, the epoch-done of the running deal waits (R320). -/
def epochSignal (epoch ahead : Nat) (abandoned : Bool) (recs : List OpsRec) (s : State) : State :=
  let mine := match s.deals.running with
    | some r => r.deal.epoch == epoch && !r.abandoned && r.epochDone.isNone && !abandoned
    | none => false
  if s.pwr.locked.isSome && mine && s.pwr.heldDone.isNone then
    modPwr (fun p => { p with heldDone := some (epoch, s.now, abandoned, ahead, recs), holds := (p.holds + 1) % 4294967296 }) s
  else if s.pwr.heldDone.isSome && mine then s
  else epochDone epoch ahead abandoned recs s

/-- EPOCH_DONE (R100). -/
def execEpochDone (t : BitVec 64) (epoch : BitVec 48) (abandoned : Bool) (ahead : BitVec 64) (recs : List OpsRec) (s : State) :
    Host.Outcome State Fault Refusal :=
  if !s.mainOn then .next (tick t s) else
  .next (finish (epochSignal epoch.toNat ahead.toNat abandoned recs (tick t s)))

/-- The lock clears, and an epoch-done that it held is taken (R320). -/
def releaseLock (s : State) : State :=
  match s.pwr.heldDone with
  | some (e, _, ab, ahead, recs) => epochDone e ahead ab recs (unlock s)
  | none => unlock s

/-- ACQUIRE sets LOCKED; between commands BOUNDARY reads 0 (R320). -/
def acquireLock (s : State) : State :=
  if s.pwr.locked.isSome then s else modPwr (fun p => { p with locked := some s.now }) s

/-- LOCK_ACQUIRE (R320). -/
def execLockAcquire (t : BitVec 64) (s : State) : Host.Outcome State Fault Refusal :=
  if !s.cmdOn then .next (tick t s) else
  .next (acquireLock (tick t s))

/-- LOCK_RELEASE (R320). -/
def execLockRelease (t : BitVec 64) (s : State) : Host.Outcome State Fault Refusal := .next (finish (releaseLock (tick t s)))

/-- LOCK_EXPIRY: 65,536 cycles of 2/3 ns after it was set, the lock clears and EXPIRED is set (R320). -/
def execLockExpiry (t : BitVec 64) (s : State) : Host.Outcome State Fault Refusal :=
  if !s.mainOn then .next (tick t s) else
  let s := tick t s
  match s.pwr.locked with
  | some at_ => if at_ * 3 + 131072 ≤ s.now * 3 + 48 then .next (finish (setFlag F.STAT_WINDOW_EXPIRED (releaseLock s))) else .next s
  | none => .next s

/-! The scrubber (R37). -/

/-- An uncorrectable word of a seat: what only it referenced is lost, the seat closes with 0x7F and its index retires. -/
def loseWord (i w : Nat) (s : State) : State :=
  let held := (s.seat i).state != .free
  let leak := held && ((w == 8 && (s.seat i).kvBlocks != 0) || w == 10)
  let s := if leak then setFlag F.STAT_LEDGERECC_LEAK (bump 0x0B s) else s
  let s := if held && w == 8 then modSeat i (fun a => { a with kvHead := 0xFFFFFFFF, kvTail := 0xFFFFFFFF, kvBlocks := 0, shared := 0 }) s
    else s
  let s := modLed (fun l => { l with
    retired := if l.retired.contains i then l.retired else l.retired ++ [i]
    lostPins := if held && w == 10 && !l.lostPins.contains i then l.lostPins ++ [i] else l.lostPins }) s
  failSeat i 0x7F (setFlag F.STAT_LEDGERECC_UE (setFld F.STAT_LEDGERECC_LASTWORD w (setFld F.STAT_LEDGERECC_LASTSEAT i s)))

/-- The directory entry of a live seat is uncorrectable: it is dropped, and messages naming its request id name an unknown one (R37).
DESIGN CHOICE: LASTSEAT names the seat, and LASTWORD stays as it was (log entry 51). -/
def loseEntry (i : Nat) (s : State) : State :=
  let s := setFlag F.STAT_LEDGERECC_UE (setFld F.STAT_LEDGERECC_LASTSEAT i (bump 0x09 s))
  if (s.seat i).state = .free ∨ s.led.lostDir.contains i = true then s
  else modLed (fun l => { l with lostDir := l.lostDir ++ [i] }) s

/-- A corrected ledger error is counted (R37, R38). -/
def correctedWord (s : State) : State :=
  setFlag F.STAT_LEDGERECC_CE (setFld F.STAT_LEDGERECC_CECOUNT (sat 0xFFFF (s.fld F.STAT_LEDGERECC_CECOUNT + 1)) (bump 0x08 s))

/-- A corrected or an uncorrectable error of the hot cache or the context table (R169, R173, R202). -/
def keptEcc (fixed : Bool) (s : State) : State :=
  if fixed then setFlag F.PKV_FLAGS_HOTCE (bump 0x8F s) else setFlag F.PKV_FLAGS_HOTUE (bump 0x9F s)

/-- An uncorrectable context-table entry closes its seat with 0x7F, after PREFILL_ABANDON when its shipment has left; none of its
blocks completes after it (R305). -/
def loseContext (i : Nat) (s : State) : State :=
  let a := s.seat i
  if a.state = .free ∨ closing a.state = true ∨ s.pinned i = false then s
  else failSeat i 0x7F (modSide i (fun d => { d with ctxLost := true }) s)

/-- An uncorrectable hot-cache line is dropped, and the index serves its key (R173). -/
def dropHot (n : Nat) (s : State) : State :=
  modKv (fun k => { k with hot := tmap [] (fun _ l => l.filter (· != n)) k.hot }) s

/-- One seat word as the scrubber finds it. -/
def scrubSeat (found : Ecc) (s : State) : State :=
  let n := s.led.scrub
  let s := modLed (fun l => { l with scrub := (n + 1) % 2097152 }) s
  match found with
  | .clean => s
  | .corrected => correctedWord s
  | .uncorrectable =>
    let i := n / 32
    let new := !s.led.retired.contains i
    loseWord i (n % 32) (bump 0x09 (if new then bump 0x0A s else s))
  | _ => s

/-- The scrubber reads its next seat word, or a read of another protected memory finds an error (R37, R169, R173, R305). -/
def scrubWord (found : Ecc) (s : State) : State :=
  match found with
  | .directory i => loseEntry i.toNat s
  | .directoryCorrected _ => correctedWord s
  | .context i fixed =>
    let s := keptEcc fixed s
    if fixed then s else loseContext i.toNat s
  | .hotLine n fixed =>
    let s := keptEcc fixed s
    if fixed then s else dropHot n.toNat s
  | _ => scrubSeat found s

/-- SCRUB_TICK (R37). -/
def execScrubTick (t : BitVec 64) (found : Ecc) (s : State) : Host.Outcome State Fault Refusal :=
  .next (finish (scrubWord found (tick t s)))

end Sys2Proof.Machine
end

