-- ==== Sys2Proof/Machine/Sessions.lean ====
section
/-! DEFINITION. Links, sessions and ports as they open, lose and drop (R238 to R247, R258, R262, R272), and the replay of the sag
record (R279). -/
namespace Sys2Proof.Machine

/-- The port's interface has power: port G from the start instant until the supply sags, the others while the main domain runs
(R265). -/
def State.powered (s : State) (p : Port) : Bool :=
  s.pwr.started && s.pwr.state != 5 && (p == .G || s.mainOn)

/-- Ports that have sessions (R240). -/
def hasSessions (p : Port) : Bool := p != .F && p != .M

/-- The peers of a port with a session entry (R240). -/
def State.peersOf (s : State) (p : Port) : List Nat :=
  (s.ports.sess.filter fun e => e.1 / 64 == portNo p).map fun e => e.1 % 64

/-! A lost session (R241). -/

/-- A request of port G's lost session ends without CLOSE (R241): it is treated as cancelled, and its pot is settled at Closed; one
that is Closed already, its CLOSE dropped from the queue, is settled and counted now. -/
def loseRequest (ph : Phase) (i : Nat) (s : State) : State :=
  let s := modSide i (fun d => { d with phase := ph, closeSent := false }) s
  match (s.seat i).state with
  | .closed =>
    let r := (s.seat i).closeReason.toNat
    releaseIndex i (settle i r (bump (closeCnt r) s))
  | .opening | .routed | .paused | .spilled => closeSeat i 0x10 (modSeat i (fun a => { a with cancel := true }) s)
  | _ =>
    let s := modSeat i (fun a => { a with cancel := true }) s
    if s.atOnce then atOnceSeat i s else s

/-- Port G's session ends for one seat: an OPEN without an answer is dropped, any other request is lost (R14, R241). A request whose
CLOSE has left is settled. -/
def loseSeat (i : Nat) (s : State) : State :=
  let a := s.seat i
  if a.role = 2 ∨ a.state = .free ∨ (s.side i).settled = true then s
  else match (s.side i).phase with
    | .undecided | .awaitImage | .refused => freeSeat i (dropRun i s)
    | .admitted => loseRequest .dropped i s
    | .answered => loseRequest .lost i s
    | .dropped | .lost => s

/-- Port G's session ends: what it held is dropped with it (R240, R241). -/
def lostG (s : State) : State :=
  let held := (s.led.sides.filter fun e => e.2.lease).map (·.1)
  let s := each (fun i s => modSide i (fun d => { d with lease := false }) s) held s
  let s := modPwr (fun p => { p with hold := [] }) (modKv (fun k => { k with heldPrompts := [] }) s)
  each loseSeat s.seatIdx (modPorts (fun p => { p with pool := 0 }) s)

/-- A Routed-to-prompt seat when port P's session ends: its shipment fails; a follower's stretch that comes from the cache pool fails with
it (R194, R198, R241). -/
def loseRouted (i : Nat) (s : State) : State :=
  if (s.side i).ship.isSome then shipFail i s
  else if (s.seat i).role = 2 then stretchFail i s
  else closeSeat i 0x31 s

/-- Port P's session ends: every Routed-to-prompt seat closes (R194, R241). -/
def lostP (s : State) : State := each loseRouted (s.seatsIn [.routed]) s

/-- An outstanding tag of port C fails, or is declined (R241). -/
def lostTag (e : Nat × TagUse) (s : State) : State :=
  match e.2 with
  | .putPublish _ | .putSpill _ _ _ | .putShip _ _ _ | .imagePut _ _ => putAnswered e.1 none s
  | .repair m v _ _ _ _ => if (s.model m v).f.secKind = 2 then objDataTaken e.1 false s else s
  | _ => fetchMissed e.1 s

/-- POOL is cleared in every index entry and block record (R241). -/
def clearPool (s : State) : State :=
  let s := each (fun n s => setIdx n { s.idx n with pool := false, handle := 0 } s) (s.kv.index.map (·.1)) s
  modKv (fun k => { k with blocks := tmap Blk.empty (fun _ x => { x with pool := false, handle := 0 }) k.blocks }) s

/-- Port C's session ends (R241). -/
def lostC (s : State) : State :=
  let held := (s.led.sides.filter fun e => e.2.leaseC).map (·.1)
  let s := each (fun i s => modSide i (fun d => { d with leaseC := false }) s) held (modPorts (fun p => { p with poolC := 0 }) s)
  clearPool (each lostTag s.kv.tags (modPwr (fun p => { p with replay := false }) s))

/-- Split seats with a member on a node, by seat index. -/
def State.splitOn (s : State) (node : Nat) : List Nat :=
  s.seatIdx.filter fun i =>
    let a := s.seat i
    a.role != 0 && a.state != .free && a.state != .closed && (s.split i).mem.any (fun m => m.1 == node)

/-- A split seat loses a member's node: its waits end, the rows of a running deal are void, and it closes with 0x40 (R241). -/
def loseSplit (i : Nat) (s : State) : State :=
  let s := modDeals (fun d => { d with peerWaits := d.peerWaits.filter fun w => w.seat != i }) s
  let running := match s.deals.running with
    | some r => r.deal.holds i (s.seat i).gen.toNat
    | none => false
  let s := if running then voidRun i s else s
  failSeat i 0x40 (modSplit i (fun e => { e with link := 3 }) (unbind i s))

/-- A peer's session ends: split seats with a member there close, leases lapse, fetches from it fail (R112, R241). -/
def lostN (peer node : Nat) (s : State) : State :=
  let s := each loseSplit (s.splitOn node) s
  let s := modDeals (fun d => { d with leases := d.leases.filter fun l => l.peer != peer }) s
  each (fun (e : Nat × TagUse) s => match e.2 with
    | .repair m v _ _ _ _ =>
      if (s.model m v).f.secKind = 1 ∧ (s.model m v).f.secNode.toNat = node then objDataTaken e.1 false s else s
    | _ => s) s.kv.tags s

/-- Port T's session ends: taken as TSTATUS with both tiers down; fetches outstanding wait for their tier (R217, R241). Bedrock mode
holds its tier state (R271). -/
def lostT (s : State) : State :=
  if s.bedrock then s else
  let s := each (fun (e : Nat × Fetch) s =>
    modSeq (fun q => { q with out := tdel q.out e.1, down := q.down ++ [e.2] }) s) s.seq.out s
  tiersChange false false s

/-- A session ends: its credits and queued messages go with it, it is counted, and the effects of R241 follow at once. -/
def endSession (p : Port) (peer : Nat) (s : State) : State :=
  let node := (s.sess p peer).node
  let gone := fun (e : Sess) => { Sess.empty with linkUp := e.linkUp, node := e.node, era := e.era }
  let s := dropQueue p peer (modSess p peer gone s)
  let s := setFlag (F.PORT_FLAGS_SESSIONLOST (portNo p)) (bump 0xF8 s)
  match p with
  | .G => lostG s
  | .P => lostP s
  | .C => lostC s
  | .N => lostN peer node s
  | .T => lostT s
  | .F | .M => s

/-- A port's live session ends. -/
def dropSession (p : Port) (peer : Nat) (s : State) : State := if s.live p peer then endSession p peer s else s

/-- Every session of a port ends (R262). -/
def dropPort (p : Port) (s : State) : State := each (dropSession p) (s.peersOf p) s

/-! The sag record's replay (R279). -/

/-- The three words of a SAG_REPLAY entry. -/
def sagEntry (e : SagSeat) : List Word :=
  [e.reqid, pack [(24, e.promptLen), (24, e.generated), (8, e.reason), (8, 0)], pack [(32, e.nextPos), (16, e.drawIdx), (16, 0)]]

/-- A SAG_REPLAY message; the record restores the pot of each of the 4,096 tenants. -/
def sagMsg (l : List SagSeat) (last : Bool) : Msg :=
  mkMsg .G 0 0x18 [(12, l.length), (1, bit last), (31, 0)] (pack [(24, 4096), (40, 0)] :: l.flatMap sagEntry) 0 []

/-- The messages of a replay: 1,364 entries each, the last with LAST. -/
def sendParts : List (List SagSeat) → State → State
  | [], s => s
  | l :: r, s => sendParts r (send ⟨sagMsg l (r == []), 2, 65536, 0, 6, bit (r == []), 0, false⟩ s)

/-- The replay of a valid record found at this start, on an open port G with a session (R279). -/
def sagReplay (s : State) : State :=
  match s.keep.sag with
  | some r =>
    if s.pwr.sagFound ∧ r.state = 1 ∧ s.live .G 0 = true ∧ s.portOpen .G = true then
      sendParts (if r.seats = [] then [[]] else chunksOf 1364 r.seats.length r.seats) s
    else s
  | none => s

/-! Links and HELLO (R240, R247). -/

/-- The host reports a link up: the port sends HELLO once its interface has power. -/
def linkRaise (p : Port) (peer : Nat) (s : State) : State :=
  if (s.sess p peer).linkUp then s
  else
    let s := modSess p peer (fun e => { e with linkUp := true }) s
    if s.powered p then sendHello p peer s else s

/-- LINK_UP (R240). In fallow LINKUP of the ports in the main domain reads 0 (R321). -/
def execLinkUp (t : BitVec 64) (p : Port) (peer : BitVec 6) (s : State) : Host.Outcome State Fault Refusal :=
  let s := tick t s
  if !hasSessions p || !s.pwr.started || s.pwr.state == 5 || (p != .G && s.pwr.state == 3) then .next s
  else .next (linkRaise p peer.toNat s)

/-- The host reports a link down: the session ends, and the next link report sends HELLO anew. -/
def linkDrop (p : Port) (peer : Nat) (s : State) : State :=
  modSess p peer (fun e => { Sess.empty with node := e.node, era := e.era }) (dropSession p peer s)

/-- LINK_DOWN (R240, R241). -/
def execLinkDown (t : BitVec 64) (p : Port) (peer : BitVec 6) (s : State) : Host.Outcome State Fault Refusal :=
  let s := tick t s
  if !hasSessions p || !s.pwr.started || s.pwr.state == 5 || (p != .G && s.pwr.state == 3) then .next s
  else .next (finish (linkDrop p peer.toNat s))

/-- A session begins with a partner's HELLO: HELLO goes out where it has not, SESSIONS counts it, and the partner gets the full
credit of an open port or the greeting credit (R240, R245). -/
def beginSession (p : Port) (peer node era : Nat) (opened : Bool) (s : State) : State :=
  let s := if (s.sess p peer).heloOut then s else sendHello p peer s
  let og := if opened then 0 else 8
  let ig := if s.portOpen p then 0 else 8
  let s := modSess p peer (fun e => { e with
    heloIn := true, node := node, era := era, popen := opened, inn := [0, 0, 0], innPay := 0, greet := ig
    out := [0, 0, 0], outPay := 0, ogreet := og, gfree := [0, 0, 0], owed := 0 }) s
  let s := takeFull p peer s
  let n := portNo p
  let s := modPorts (fun q => { q with sessions := tput 0 q.sessions n ((tget 0 q.sessions n + 1) % 65536) }) s
  let s := if s.portOpen p then grantFull p peer s else s
  match p with
  | .C => modPwr (fun q => { q with replay := true }) s
  | .G => sagReplay s
  | _ => s

/-- A partner's HELLO: it begins a session, or ends a live one whose NODEID or ERA differs and begins another (R240). -/
def helloTaken (p : Port) (peer node era : Nat) (opened : Bool) (s : State) : State :=
  let e := s.sess p peer
  let s := portCnt p 0 1 s
  if !e.linkUp then setFlag (F.PORT_FLAGS_STRAY (portNo p)) (bump 0xFB s)
  else if s.live p peer then
    if e.node = node ∧ e.era = era then s else beginSession p peer node era opened (endSession p peer s)
  else beginSession p peer node era opened s

/-- HELLO (R240, R247). -/
def execHello (t : BitVec 64) (p : Port) (peer : BitVec 6) (node era : BitVec 16) (opened : Bool) (s : State) :
    Host.Outcome State Fault Refusal :=
  let s := tick t s
  if !hasSessions p || !s.powered p then .next s
  else .next (finish (helloTaken p peer.toNat node.toNat era.toNat opened s))

/-! CREDIT and messages a port does not carry (R238, R242, R247). -/

/-- Credit of a class is added. -/
def addCredit (e : BitVec 4 × BitVec 20) (x : Sess) : Sess := { x with out := modNth (· + e.2.toNat) x.out e.1.toNat }

/-- A partner's CREDIT: message and payload credit are added, and OPEN ends the greeting credit (R242, R245). -/
def creditTaken (p : Port) (peer : Nat) (opened : Bool) (beats : Nat) (es : List (BitVec 4 × BitVec 20)) (s : State) : State :=
  let pn := portNo p
  let s := portCnt p 0 1 s
  if !s.live p peer then setFlag (F.PORT_FLAGS_STRAY pn) (bump 0xFB s)
  else if 8 < es.length then setFlag (F.PORT_FLAGS_BADLEN pn) (bump 0xFA s)
  else
    modSess p peer (fun e =>
      let e := Sess.moveOwed (each addCredit es { e with outPay := e.outPay + beats })
      if opened then { e with popen := true, ogreet := 0 } else e) s

/-- CREDIT (R242, R247); queued messages leave under it. -/
def execCredit (t : BitVec 64) (p : Port) (peer : BitVec 6) (opened : Bool) (beats : BitVec 40)
    (es : List (BitVec 4 × BitVec 20)) (s : State) : Host.Outcome State Fault Refusal :=
  let s := tick t s
  if !hasSessions p || !s.powered p then .next s
  else .next (finish (creditTaken p peer.toNat opened beats.toNat es s))

/-- A message whose opcode the port does not carry, or whose LENGTH is not allowed: discarded and counted (R238). In the greeting
phase it is answered with NOT_READY like any other (R245). A partner's NOT_READY returns the greeting credit that the refused
message used. -/
def unknownTaken (p : Port) (peer : Nat) (badLen : Bool) (op : Nat) (word1 : Word) (s : State) : State :=
  let pn := portNo p
  let bad := fun s => setFlag (if badLen then F.PORT_FLAGS_BADLEN pn else F.PORT_FLAGS_BADOP pn) (bump 0xFA s)
  if p = .F then bad (bump 0xFE s)
  else
    let s := portCnt p 0 1 s
    if !s.live p peer then setFlag (F.PORT_FLAGS_STRAY pn) (bump 0xFB s)
    else if op = 3 ∧ badLen = false then
      modSess p peer (fun e => if e.popen then e else { e with ogreet := min 8 (e.ogreet + 1) }) s
    else if !s.portOpen p then sendNotReady p peer op word1 s
    else bad s

/-- UNKNOWN_MESSAGE (R238). -/
def execUnknownMessage (t : BitVec 64) (p : Port) (peer : BitVec 6) (badLen : Bool) (opcode : BitVec 8) (word1 : Word)
    (s : State) : Host.Outcome State Fault Refusal :=
  let s := tick t s
  if p == .M || !s.powered p then .next s else .next (unknownTaken p peer.toNat badLen opcode.toNat word1 s)

/-! Opening and dropping ports (R245, R262, R272). -/

/-- The port before this one in the order of R245 is open; in Bedrock mode ports T, C, N and P are passed over and never open. -/
def State.inOrder (s : State) (p : Port) : Bool :=
  match p with
  | .M => false
  | .F => true
  | .T => !s.bedrock && s.portOpen .F
  | .C => !s.bedrock && s.portOpen .T
  | .N => !s.bedrock && s.portOpen .C
  | .P => !s.bedrock && s.portOpen .N
  | .G => if s.bedrock then s.portOpen .F else s.portOpen .P

/-- The port's own condition (R272). -/
def State.portReady (s : State) (p : Port) : Bool :=
  match p with
  | .F => s.pwr.applied && s.ports.fabricReady
  | .C => s.pwr.cleared
  | _ => true

/-- The conditions under which a port opens: power, the order, its PHASEAT (after a wake there is none to wait for) and its own
condition (R245, R272, R275). -/
def State.mayOpen (s : State) (p : Port) : Bool :=
  s.powered p && s.mainOn && !s.portOpen p && s.inOrder p && s.portReady p &&
    (s.portOpen .G || decide (s.fld (F.PORT_CFG_PHASEAT (portNo p)) * 1000000 ≤ s.now))

/-- The gate whose freeze ends when a port opens (R272). -/
def portGate : Port → Option Nat
  | .C => some 0
  | .T => some 1
  | .N => some 2
  | _ => none

/-- A port leaves its greeting phase: every live session gets the full credit, and what R272 lists is done. -/
def openPort (p : Port) (s : State) : State :=
  let s := modPorts (fun q => { q with open_ := q.open_ ++ [portNo p] }) s
  let s := each (fun k s => if s.live p k then grantFull p k s else s) (s.peersOf p) s
  let s := match portGate p with
    | some g => releaseGated (gateThaw g (setFld (F.GATE_CTRL_FREEZE g) 0 s))
    | none => s
  match p with
  | .F =>
    let s := setFld F.MOD_CTRL_ENABLE 1 (setFld F.HER_CTRL_LAUNCHEN 1 (setFld F.DEAL_CTRL_ENABLE 1 s))
    candCfg s.deals.nextEpoch (modSieve (fun q => { q with candCfgDue := true }) s)
  | .G =>
    let s := modPwr (fun q => { q with
      portGOpen := if q.portGOpen = 0xFFFF then min 0xFFFE (s.now / 1000000) else q.portGOpen
      state := if q.state = 0 then 1 else q.state }) s
    admissionOpens (sagReplay s)
  | _ => s

/-- A write of 1 to PORTp_CTRL.OPEN (R245, R262): without the conditions of R245 and R272 the port stays in its greeting phase. -/
def portOpenWrite (p : Port) (s : State) : State := if s.mayOpen p then openPort p s else s

/-- PORT_OPEN (R245). -/
def execPortOpen (t : BitVec 64) (p : Port) (s : State) : Host.Outcome State Fault Refusal :=
  .next (finish (portOpenWrite p (tick t s)))

/-- A write of 1 to PORTp_CTRL.DROP; in fallow and in a wake only port G's is taken (R322). -/
def portDropWrite (p : Port) (s : State) : State :=
  if !s.powered p || (p != .G && !s.cmdOn) then s else dropPort p s

/-- PORT_DROP (R241, R262). -/
def execPortDrop (t : BitVec 64) (p : Port) (s : State) : Host.Outcome State Fault Refusal :=
  .next (finish (portDropWrite p (tick t s)))

/-- FABRIC_READY: the host reports the fabric interface ready (R272). -/
def execFabricReady (t : BitVec 64) (s : State) : Host.Outcome State Fault Refusal :=
  let s := tick t s
  if !s.pwr.started || s.pwr.state == 3 || s.pwr.state == 5 then .next s
  else .next (modPorts (fun q => { q with fabricReady := true }) s)

/-- FABRIC_EGRESS_CREDIT: the fabric interface returns egress credit of an engine group, and held messages leave (R258). -/
def execFabricEgressCredit (t : BitVec 64) (group : BitVec 6) (units : BitVec 32) (s : State) :
    Host.Outcome State Fault Refusal :=
  if !s.mainOn then .next (tick t s) else
  let g := group.toNat
  .next (finish (drainF (modPorts (fun q => { q with fCredit := tput 0 q.fCredit g (tget 0 q.fCredit g + units.toNat) }) (tick t s))))

end Sys2Proof.Machine
end

