-- ==== Sys2Proof/Machine/RegWrite.lean ====
section
/-! DEFINITION. What a write stores: the fields of a register under their access codes (R7 to R9, R299, R315 to R317), the write limits
(R97, R201, R218, R325), the stated ranges (R309) and the data registers behind a selector (R40, R66, R77, R81, R106, R300). -/
namespace Sys2Proof.Machine

/-- What the first of two actions leaves, the second goes on with; a stop stays. -/
def andThen (o : Host.Outcome State Fault Refusal) (f : State → Host.Outcome State Fault Refusal) :
    Host.Outcome State Fault Refusal :=
  match o with
  | .next s => f s
  | .fault r => .fault r
  | .refused r => .refused r

/-- An action for every element of a list, in order. -/
def eachDo {α : Type} (f : α → State → Host.Outcome State Fault Refusal) :
    List α → State → Host.Outcome State Fault Refusal
  | [], s => .next s
  | a :: r, s => andThen (f a s) (eachDo f r)

/-! The tenant record (R40, R66). -/

/-- Bits hi:lo of a word. -/
def bitsOf (w : Word) (hi lo : Nat) : Nat := w.toNat / 2 ^ lo % 2 ^ (hi - lo + 1)

/-- The fields of a tenant record that a write of its word `i` reaches; LIVESEATS and HITFRAC are read only. -/
def tenantWord (i : Nat) (v : Word) (t : Tenant) : Tenant :=
  match i with
  | 0 => { t with maxSeats := BitVec.ofNat 16 (bitsOf v 63 48), cap := BitVec.ofNat 40 (bitsOf v 39 0) }
  | 1 => { t with level := BitVec.ofNat 48 (bitsOf v 47 0) }
  | 2 => { t with
      wPrompt := BitVec.ofNat 8 (bitsOf v 63 56), wCached := BitVec.ofNat 8 (bitsOf v 55 48)
      wGen := BitVec.ofNat 8 (bitsOf v 47 40), classMask := BitVec.ofNat 8 (bitsOf v 39 32)
      refill := BitVec.ofNat 32 (bitsOf v 31 0) }
  | _ => { t with tseed := BitVec.ofNat 32 (bitsOf v 63 32), overdraft := BitVec.ofNat 16 (bitsOf v 15 0) }

/-- Word `i` of a tenant record (R40). -/
def Tenant.word (t : Tenant) (i : Nat) : Word :=
  match i with
  | 0 => pack [(16, t.maxSeats.toNat), (8, 0), (40, t.cap.toNat)]
  | 1 => pack [(16, t.liveSeats.toNat), (48, t.level.toNat)]
  | 2 => pack [(8, t.wPrompt.toNat), (8, t.wCached.toNat), (8, t.wGen.toNat), (8, t.classMask.toNat), (32, t.refill.toNat)]
  | _ => pack [(32, t.tseed.toNat), (16, t.hitFrac.toNat), (16, t.overdraft.toNat)]

/-- A write of ADM_TDATA`i`: one atomic pot operation on the selected tenant (R43, R66). -/
def tenantWrite (i : Nat) (v : Word) (s : State) : Host.Outcome State Fault Refusal :=
  if i = 0 ∧ bitsOf v 47 40 ≠ 0 then .fault (.misuse 8)
  else .next (modTenant (s.fld F.ADM_TSEL_TENANT) (tenantWord i v) s)

/-! The slot table (R77, R81, R95). -/

/-- A slot-table entry from its word. -/
def slotOf (v : Word) : Slot :=
  ⟨v.getLsbD 63, v.getLsbD 62, bitsOf v 61 56, bitsOf v 55 40, bitsOf v 39 29, bitsOf v 28 14⟩

/-- The word of a slot-table entry. -/
def Slot.word (x : Slot) : Word :=
  pack [(1, bit x.valid), (1, bit x.priv), (6, x.group), (16, x.rowCap), (11, x.chunkCap), (15, x.seatCap), (14, 0)]

/-- A write of DEAL_SLOTDATA always reaches the shadow bank (R81, R95). -/
def slotWrite (v : Word) (s : State) : Host.Outcome State Fault Refusal :=
  let x := slotOf v
  let n := s.fld F.DEAL_SLOTSEL_SLOT
  if bitsOf v 13 0 ≠ 0 then .fault (.misuse 8)
  else if 1024 < x.chunkCap ∨ 16384 < x.seatCap then .fault (.misuse 77)
  else .next (modDeals (fun d =>
    if d.active then { d with bankA := tput (slotDefault n) d.bankA n x } else { d with bankB := tput (slotDefault n) d.bankB n x }) s)

/-! The split-seat table (R106). -/

/-- Reserved bits of a word of a split-seat entry. -/
def splitReserved (w : Nat) (v : Word) : Nat :=
  match w with
  | 0 => bitsOf v 37 0
  | 3 => bitsOf v 17 2
  | _ => bitsOf v 15 0

/-- A split-seat entry with a word written; W1, W2 and LINK are read only. -/
def splitWord (w : Nat) (v : Word) (e : SplitEnt) : SplitEnt :=
  match w with
  | 0 => { e with lead := bitsOf v 63 48, last := bitsOf v 47 43, self := bitsOf v 42 38 }
  | 1 | 2 => e
  | 3 => { e with start := bitsOf v 63 40, len := bitsOf v 39 18 }
  | _ =>
    let l := e.members ++ List.replicate (w - 3 - e.members.length) (0, 0, 0)
    { e with
      members := modNth (fun _ => (bitsOf v 63 48, bitsOf v 47 32, bitsOf v 31 16)) l (w - 4), known := nodupNat ((w - 4) :: e.known) }

/-- Word `w` of a split-seat entry (R106). -/
def SplitEnt.word (e : SplitEnt) (w : Nat) : Word :=
  match w with
  | 0 => pack [(16, e.lead), (5, e.last), (5, e.self), (38, 0)]
  | 1 => pack [(48, e.jEpoch), (16, 0)]
  | 2 => pack [(48, e.localEpoch), (16, 0)]
  | 3 => pack [(24, e.start), (22, e.len), (16, 0), (2, e.link)]
  | _ => match e.members[w - 4]? with
    | some m => pack [(16, m.1), (16, m.2.1), (16, m.2.2), (16, 0)]
    | none => 0

/-- A write of HER_SPLITDATA reaches the selected word; there is none past word 35 (R106, R121). -/
def splitWrite (v : Word) (s : State) : Host.Outcome State Fault Refusal :=
  let w := s.fld F.HER_SPLITSEL_WORD
  let n := s.fld F.HER_SPLITSEL_ENTRY
  if 35 < w then .next s
  else if splitReserved w v ≠ 0 then .fault (.misuse 8)
  else .next (modDeals (fun d => { d with
    splits := tput SplitEnt.empty d.splits n (splitWord w v (tget SplitEnt.empty d.splits n)) }) s)

/-! Limits on a write. -/

/-- The registers whose fields are "stopped only" (R145, R167, R201, R218, R298). -/
def stoppedOnly : List Nat :=
  [0x2018, 0x2050, 0x2070, 0x2810, 0x2818, 0x2820, 0x2828, 0x2830, 0x2838, 0x2850, 0x2878, 0x3010, 0x3018, 0x3020, 0x3028, 0x3030,
    0x3038, 0x3040, 0x6018, 0x6058]

/-- A "stopped only" field may be written: STOPPED, before the first LAUNCH, or in fallow (R325). -/
def State.mayStopped (s : State) : Bool := s.deals.stopped || s.deals.runEpoch == 0 || s.pwr.state == 3 || s.pwr.state == 4

/-- The rule whose stated range the value of a class register breaks (R46, R65). -/
def classRange (off : Nat) (w : Word) : Option Nat :=
  let c := (off - 0x880) / 0x20
  if off % 0x20 = 8 then
    let d := (F.ADM_CLASS_POLICY_CHUNKDEF c).get w
    if d = 0 ∨ 1024 < d then some 65 else if (F.ADM_CLASS_POLICY_EXHAUST c).get w = 3 then some 46 else none
  else if off % 0x20 = 0x10 ∧ (F.ADM_CLASS_LIMIT_CHUNKMAX c).get w < (F.ADM_CLASS_LIMIT_CHUNKMIN c).get w then some 65
  else none

/-- A value inside a range. -/
def within (lo hi v : Nat) : Bool := decide (lo ≤ v ∧ v ≤ hi)

/-- The rule whose stated range a register's new value breaks, where R309 names the breach a misuse. -/
def rangeRule (off : Nat) (w : Word) : Option Nat :=
  let chk := fun (ok : Bool) (rule : Nat) => if ok then none else some rule
  if 0x880 ≤ off ∧ off < 0x980 then classRange off w
  else if off = 0x818 then chk (F.ADM_SHIP_THRESH.get w % 64 == 0 && F.ADM_SHIP_LOADMIN.get w % 64 == 0) 59
  else if off = 0x1018 then
    chk (within 1 16384 (F.DEAL_LIMITS_MAXSEATS.get w) && within 1 131072 (F.DEAL_LIMITS_MAXROWS.get w) &&
      within 0 1024 (F.DEAL_LIMITS_MAXCHUNK.get w)) 95
  else if off = 0x2010 then
    chk (within 1 256 (F.SIEVE_CANDCFG_FIRST.get w) && within 1 256 (F.SIEVE_CANDCFG_REFILLN.get w) &&
      within 1 4095 (F.SIEVE_CANDCFG_MAXROUND.get w)) 145
  else if off = 0x2048 then chk (decide (F.SIEVE_DRAFTCFG_LOWER.get w ≤ F.SIEVE_DRAFTCFG_RAISE.get w)) 167
  else if off = 0x3808 ∨ off = 0x3a08 ∨ off = 0x3c08 then
    let g := (off - 0x3800) / 0x200
    chk (within 256 65535 ((F.GATE_CFG_WINDOW g).get w) && within 2 64 ((F.GATE_CFG_ROTN g).get w) &&
      within 1 1024 ((F.GATE_CFG_BURST g).get w)) 236
  else if off = 0x6010 then
    chk (decide (1 ≤ F.TRC_CFG_PRE.get w ∧ F.TRC_CFG_PRE.get w + F.TRC_CFG_POST.get w + 2 ≤ 2097152)) 293
  else none

/-- Every other range the register tables state; a configuration image must keep to them too (R267). -/
def rangeOther (off : Nat) (w : Word) : Bool :=
  if off = 0x800 then within 1 4 (F.ADM_CTRL_OPENCREDIT.get w)
  else if off = 0x810 then within 1000 1000000 (F.ADM_WINDOW_WINLEN.get w)
  else if off = 0x820 then within 1 255 (F.ADM_RETRY_PREDMULT.get w)
  else if off = 0x828 then within 1 15 (F.ADM_TUNE_GAINSHIFT.get w)
  else if off = 0x1010 then within 1 65535 (F.DEAL_TIMING_MODELWAIT.get w)
  else if off = 0x1020 then within 2 16384 (F.DEAL_SUITCFG_SUITMIN.get w)
  else if off = 0x1828 then within 100 1000000 (F.HER_PEER_PEERWAIT.get w) && within 1 255 (F.HER_PEER_LEASELEN.get w)
  else if off = 0x1878 then within 0 35 (F.HER_SPLITSEL_WORD.get w)
  else if off = 0x2040 then within 0 1 (F.SIEVE_SAMPCFG_NORMAL.get w)
  else if off = 0x2048 then within 1 4095 (F.SIEVE_DRAFTCFG_W.get w) && within 1 4095 (F.SIEVE_DRAFTCFG_PROBE.get w)
  else if off = 0x2050 then within 8 65528 (F.SIEVE_PCTCFG_CAP.get w) && F.SIEVE_PCTCFG_CAP.get w % 8 == 0
  else if off = 0x2830 then within 1 16777216 (F.PKV_KVCFG_BLOCKS.get w) && within 1 65535 (F.PKV_KVCFG_BLOCKBYTES.get w)
  else if off = 0x2838 ∨ off = 0x3020 then w.toNat % 4096 == 0
  else if off = 0x2850 then within 1 16777215 (F.PKV_PROMPTCFG_PAGES.get w)
  else if off = 0x2868 then within 1 4095 (F.PKV_FETCHCFG_DEPTH.get w)
  else if off = 0x2888 then within 0 4096 (F.PKV_OBJDATA0_LPLEN.get w)
  else if off = 0x3018 then within 1 8388608 (F.MOD_OBJSTORE_CAP.get w)
  else if off = 0x410 then within 1 65535 (F.START_BOOT_STARTWIN.get w)
  else if off = 0x6010 then within 1 63 (F.TRC_CFG_DRAINGBS.get w)
  else if off = 0x6058 then within 10 20 (F.OPS_BASE_LOG2.get w)
  else true

/-! Storing a write. -/

/-- The fields of RO registers that a configuration image sets (R267). -/
def imageOnly (off : Nat) : Word :=
  if off = 0x1818 then F.HER_NODE_NODEID.mask
  else if off = 0x830 ∨ off = 0x838 then BitVec.allOnes 64
  else 0

/-- PORTp_CREDIT, PORTp_PAYCRED and PORTp_OUTCRED of ports F and M, which read zero and ignore writes (R261). -/
def creditFM : List Nat := [0x4518, 0x4520, 0x4530, 0x4618, 0x4620, 0x4630]

/-- The bits that a write stores: RW, RL and RD fields; port M takes no PHASEAT, port G no CLASS0
(R7, R261, R262). PORTp_CTRL.OPEN is the port's own state. -/
def writable (r : RegDef) (img : Bool) : Word :=
  let m := r.maskOf [.RW, .RL, .RD] ||| (if img then imageOnly r.off else 0)
  if r.off = 0x4610 then 0
  else if r.off = 0x4018 then m &&& ~~~ (F.PORT_CREDIT_CLASS0 0).mask
  else if 0x4000 ≤ r.off ∧ r.off ≤ 0x4600 ∧ r.off % 0x100 = 0 then 0
  else m

/-- The word a register holds after a write of its fields: stored bits take the value, W1C bits written as 1 clear (R7). -/
def State.newWord (s : State) (r : RegDef) (img : Bool) (v : Word) : Word :=
  let m := writable r img
  ((s.reg r.off &&& ~~~ m) ||| (v &&& m)) &&& ~~~ (v &&& r.maskOf [.W1C])

/-- HER_NEXTEPOCH is written: only while stopped (or by the image), and never at or below the highest epoch launched (R10, R97). -/
def nextEpochWrite (img : Bool) (v : Word) (s : State) : Host.Outcome State Fault Refusal :=
  let e := F.HER_NEXTEPOCH_EPOCH.get v
  if !img && !s.deals.stopped then .fault (.misuse 97)
  else if e ≤ s.deals.runEpoch then .fault (.misuse 97)
  else .next (modDeals (fun d => { d with nextEpoch := e }) s)

/-- A register is stored; a gate register's live write takes effect while the gates have power (R228, R236, R322). -/
def gateStore (off : Nat) (w : Word) (s : State) : State :=
  if 0x3800 ≤ off ∧ off < 0x3e00 ∧ s.mainOn = true then
    let g := (off - 0x3800) / 0x200
    releaseGated (gateWritten g (s.gateFrozen g) (setReg off w (gateSync g s)))
  else setReg off w s

/-- PORTp_CTRL.OPEN is written as 1 (R262). -/
def openEffect (off : Nat) (v : Word) (s : State) : State :=
  if 0x4000 ≤ off ∧ off ≤ 0x4600 ∧ off % 0x100 = 0 ∧ v.getLsbD 0 = true then portOpenWrite (portOf ((off - 0x4000) / 0x100)) s
  else s

/-- ADM_CTRL.OPEN is first set by a write: START_TIMES.ADMITOPEN keeps the ms (R282). -/
def admitNoted (off : Nat) (s : State) : State :=
  if off = 0x800 ∧ s.on F.ADM_CTRL_OPEN ∧ s.pwr.admitOpen = 0xFFFF then
    modPwr (fun p => { p with admitOpen := min 0xFFFE (s.now / 1000000) }) s
  else s

/-- The lanes a write of SIEVE_LANEMAP names on this part; a write that enables none is ignored (R145). -/
def laneWrite (v : Word) (s : State) : State :=
  let m := v &&& BitVec.ofNat 64 (2 ^ s.grade.lanes - 1)
  if m = 0 then s else setReg 0x2008 m s

/-- A write of the fields of a register with stored fields. -/
def fieldWrite (img : Bool) (r : RegDef) (v : Word) (s : State) : Host.Outcome State Fault Refusal :=
  let w := s.newWord r img v
  if v &&& r.reserved ≠ 0 then .fault (.misuse 8)
  else if !img && stoppedOnly.contains r.off && !s.mayStopped then .fault (.misuse 201)
  else if (r.off = 0x3048 ∨ r.off = 0x3050) ∧ s.modBusy = true then .fault (.misuse 218)
  else match rangeRule r.off w with
    | some n => .fault (.misuse n)
    | none =>
      if img && !rangeOther r.off w then .fault (.misuse 267)
      else if r.off = 0x1810 then nextEpochWrite img v s
      else if r.off = 0x2008 then .next (laneWrite v s)
      else if r.off = 0x2810 ∨ r.off = 0x2818 then .next (setReg r.off v s)
      else .next (admitNoted r.off (openEffect r.off v (gateStore r.off w s)))

/-- A write's fields take effect, its command bits apart (R317). Offsets that hold no register are ignored (R313). -/
def storeWrite (img : Bool) (off : Nat) (v : Word) (s : State) : Host.Outcome State Fault Refusal :=
  if 0x988 ≤ off ∧ off ≤ 0x9a0 then tenantWrite ((off - 0x988) / 8) v s
  else if off = 0x1038 then slotWrite v s
  else if off = 0x1880 then splitWrite v s
  else if off = 0x6070 then digWrite v s
  else if creditFM.contains off then .next s
  else if 0x5000 ≤ off ∧ off < 0x5800 ∧ bitsOf v 63 48 ≠ 0 then .fault (.misuse 8)
  else match regAt off with
    | some r => fieldWrite img r v s
    | none => .next s

/-- A write of ADM_TDATA reaches the tenant that ADM_TSEL selects (R66). -/
def execTenantDataWrite (i : BitVec 2) (v : Word) (s : State) : Host.Outcome State Fault Refusal := tenantWrite i.toNat v s

/-- A write of DEAL_SLOTDATA (R81). -/
def execSlotDataWrite (v : Word) (s : State) : Host.Outcome State Fault Refusal := slotWrite v s

/-- A write of HER_SPLITDATA (R106). -/
def execSplitDataWrite (v : Word) (s : State) : Host.Outcome State Fault Refusal := splitWrite v s

end Sys2Proof.Machine
end

