-- ==== Sys2Proof/Machine/Power.lean ====
section
/-! DEFINITION. Starts, the configuration image, Bedrock mode, fallow and wake, the supply sag (R263 to R283, R318, R321, R323), and
what port G's arrivals become while they are held (R274, R275). -/
namespace Sys2Proof.Machine

/-! The configuration image (R266 to R268). -/

/-- The little-endian word at a byte offset; bytes that the NVM did not give read as zero. -/
def wordAt (bs : List Byte) (n : Nat) : Word :=
  BitVec.ofNat 64 (((bs.drop n).take 8).foldr (fun b w => b.toNat + 256 * w) 0)

/-- A section of the directory: KIND, OFFSET, BYTES (R266). -/
def dirEntry (bs : List Byte) (k : Nat) : Nat × Nat × Nat :=
  (bitsOf (wordAt bs (32 + 16 * k)) 63 56, bitsOf (wordAt bs (32 + 16 * k)) 31 0, bitsOf (wordAt bs (40 + 16 * k)) 63 32)

/-- LENGTH of an image. -/
def imageLength (bs : List Byte) : Nat := bitsOf (wordAt bs 8) 31 0

/-- The section directory. -/
def imageDir (bs : List Byte) : List (Nat × Nat × Nat) := (List.range (bitsOf (wordAt bs 0) 15 0)).map (dirEntry bs)

/-- The image's bytes as far as LENGTH. -/
def imageBytes (bs : List Byte) : List Byte :=
  let n := imageLength bs
  bs.take n ++ List.replicate (n - bs.length) 0

/-- CRC-32C of the whole image, its own field taken as zero (R266). -/
def imageCrc (bs : List Byte) : Nat :=
  let l := (imageBytes bs).map (·.toNat)
  crc32c (l.take 12 ++ [0, 0, 0, 0] ++ l.drop 16)

/-- Every section lies inside LENGTH, no kind repeats but REGISTERS, no KIND is unknown (R267, R268). -/
def dirOk (len : Nat) : List (Nat × Nat × Nat) → Bool
  | [] => true
  | (k, off, n) :: r =>
    decide (1 ≤ k ∧ k ≤ 4) && decide (off + n ≤ len) && (k == 2 || r.all fun e => e.1 != k) && dirOk len r

/-- REASON of the first check that fails, in the order of R268; 0 when every check passes. -/
def imageReason (bs : List Byte) : Nat :=
  if bitsOf (wordAt bs 0) 63 32 ≠ 0x4A52444C then 1
  else if bitsOf (wordAt bs 0) 31 16 ≠ 1 then 2
  else if !within 64 4194304 (imageLength bs) then 3
  else if imageCrc bs ≠ bitsOf (wordAt bs 8) 63 32 then 4
  else if !dirOk (imageLength bs) (imageDir bs) then 5
  else 0

/-- The words of a section. -/
def wordsOf (bs : List Byte) : List Word := (chunksOf 8 bs.length bs).map fun l => wordAt l 0

/-- A section of an image that has passed its checks (R267). -/
def imageSection (bs : List Byte) (e : Nat × Nat × Nat) : Section :=
  let b := (bs.drop e.2.1).take e.2.2
  let ws := wordsOf b
  match e.1 with
  | 1 => .firmware b
  | 2 => .registers ((chunksOf 2 ws.length ws).map fun l => (bitsOf (l.getD 0 0) 15 0, l.getD 1 0))
  | 3 => .tenants ((chunksOf 4 ws.length ws).take 4096)
  | _ => .slots (ws.take 256)

/-- What the checks leave to be applied: the image's sections, or the factory defaults with their REASON (R268). -/
def readImage (bs : List Byte) : Pending :=
  let r := imageReason bs
  if r ≠ 0 then ⟨r, 0, 0, []⟩
  else ⟨0, imageLength bs, wordAt bs 16, (imageDir bs).map (imageSection (imageBytes bs))⟩

/-! Applying a configuration (R267 to R269, R273). -/

/-- A register entry of an image: an ordinary write, with no command bit but those of HKEY (R267). -/
def imageEntry (e : Nat × Word) (s : State) : Host.Outcome State Fault Refusal :=
  let cmds := match regAt e.1 with
    | some r => if r.off = 0x2810 ∨ r.off = 0x2818 then 0 else r.maskOf [.WO]
    | none => 0
  if e.2 &&& cmds ≠ 0 then .fault (.misuse 267)
  else if e.1 % 8 ≠ 0 then .fault (.misuse 6)
  else storeWrite true e.1 e.2 s

/-- A tenant record from its four words; LIVESEATS, LEVEL and HITFRAC are set apart. -/
def tenantOf (ws : List Word) : Tenant :=
  tenantWord 3 (ws.getD 3 0) (tenantWord 2 (ws.getD 2 0) (tenantWord 0 (ws.getD 0 0) Tenant.empty))

/-- A list as a table keyed by position, without the entries that are defaults. -/
def tableOf {α : Type} [DecidableEq α] (d : Nat → α) : Nat → List α → List (Nat × α)
  | _, [] => []
  | n, a :: r => if a = d n then tableOf d (n + 1) r else (n, a) :: tableOf d (n + 1) r

/-- A section is applied (R267). -/
def applySection (x : Section) (s : State) : Host.Outcome State Fault Refusal :=
  match x with
  | .firmware b => .next (modPwr (fun p => { p with firmware := b }) s)
  | .registers l => eachDo imageEntry l s
  | .tenants l => .next { s with tenants := tableOf (fun _ => Tenant.empty) 0 (l.map tenantOf) }
  | .slots l =>
    let t := tableOf slotDefault 0 (l.map slotOf)
    .next (modDeals (fun d => { d with bankA := t, bankB := t }) s)

/-- The factory tenant record (R269). -/
def factoryTenant (t : Nat) : Tenant := ⟨0, 1000000000, 0, 0, 1, 1, 1, 1, 100000000, BitVec.ofNat 32 t, 0, 0⟩

/-- Every field that software writes takes its value at start; what hardware reports in a register stays (R269). -/
def resetFields (g : Grade) (e : Nat × Word) : Word := match regAt e.1 with
  | some r =>
    let m := r.maskOf [.RW, .RL, .RD, .WO] ||| imageOnly r.off
    (e.2 &&& ~~~ m) ||| (regDefault g e.1 &&& m)
  | none => e.2

/-- The factory defaults are applied (R269). -/
def applyDefaults (s : State) : State :=
  let rs := (s.regs.map fun e => (e.1, resetFields s.grade e)).filter fun e => e.2 != regDefault s.grade e.1
  modObs (fun o => { o with dig := [] }) (modDeals (fun d => { d with nextEpoch := 1, bankA := [], bankB := [], splits := [] })
    { s with regs := rs, tenants := tableOf (fun _ => Tenant.empty) 0 ((List.range 4096).map factoryTenant) })

/-- A tenant's LEVEL when the configuration is applied: the sag record's level up to CAP, or CAP (R273). -/
def State.startLevel (s : State) (t : Nat) : BitVec 48 :=
  let cap : Int := (s.tenant t).cap.toNat
  match s.keep.sag with
  | some r =>
    if s.pwr.sagFound then BitVec.ofInt 48 (min (BitVec.ofNat 48 (tget 0 r.levels t)).toInt cap) else BitVec.ofInt 48 cap
  | none => BitVec.ofInt 48 cap

/-- Every tenant's LEVEL and HITFRAC (R40, R64, R273). -/
def startTenants (s : State) : State :=
  let one := fun (t : Nat) =>
    { s.tenant t with level := s.startLevel t, hitFrac := BitVec.ofNat 16 (s.fld F.ADM_PRIOR1_HITPRIOR), liveSeats := 0 }
  { s with tenants := tableOf (fun _ => Tenant.empty) 0 ((List.range 4096).map one) }

/-- The estimators start at their priors, and the window that runs takes the configured length (R42, R54, R64). -/
def startEst (s : State) : State :=
  let tpd := s.fld F.ADM_PRIOR1_TPDPRIOR
  let s := { s with est := { s.est with
    base := s.fld F.ADM_PRIOR0_BASE, rowCost := s.fld F.ADM_PRIOR0_ROWCOST, chunkCost := s.fld F.ADM_PRIOR0_CHUNKCOST
    poolBase := s.fld F.ADM_PRIOR1_POOLBASE, poolKtok := s.fld F.ADM_PRIOR1_POOLKTOK, dealsObs := 0, cold := true
    winLen := s.fld F.ADM_WINDOW_WINLEN } }
  each (fun c s => modCls c (fun x => { x with tpd := tpd }) s) (List.range 8) s

/-- The local counter in ms, as START_TIMES holds it. -/
def State.nowMs (s : State) : Nat := min 0xFFFE (s.now / 1000000)

/-- What is done when the last section has been applied: every deferred field is in force, pots and estimators start, APPLIED. -/
def configDone (p : Pending) (s : State) : State :=
  let s := startEst (startTenants s)
  let s := { s with force := s.regs, obs := { s.obs with digForce := s.obs.dig } }
  let s := modPwr (fun q => { q with
    applied := true, pending := none, defaults := p.reason != 0, imgLen := p.length, buildId := p.buildId, appliedAt := s.nowMs }) s
  if s.pwr.mode = 1 then bump 0xF1 s else s

/-- CONFIG_APPLY: the pending sections in directory order, or the factory defaults (R267, R268). -/
def applyConfig (s : State) : Host.Outcome State Fault Refusal :=
  match s.pwr.pending with
  | none => .next s
  | some p =>
    if p.reason ≠ 0 then .next (configDone p (applyDefaults s))
    else andThen (eachDo applySection p.sections s) fun s => .next (configDone p s)

/-! Starts (R270, R271, R279, R318). -/

/-- The state at a start: everything at its value at start, but keep-MRAM, the part, what has drained to the trace region
(R297; what the staging buffer still held is lost) and the model's own fields. -/
def startState (k : KeepMram) (p : Power) (s : State) : State :=
  { State.reset with
    pending := s.pending, grade := s.grade, egress := s.egress, free := s.free, keep := k, pwr := p
    obs := { Obs.start with region := s.obs.region } }

/-- A start (R270, R271): BOOTS and ERA are read and written back raised; Bedrock mode is entered when BOOTS is 3 or more, when
keep-MRAM cannot be read, or when BEDROCKNEXT was written; a valid sag record is found (R279). The BOOTS of an unreadable
keep-MRAM is a free value. -/
def powerOnStart (readable : Bool) (s : State) : State :=
  let k := s.keep
  let r := if readable then (k.boots, s) else ((takeFree s).1 % 16, (takeFree s).2)
  let bed := !readable || k.forced || decide (3 ≤ r.1)
  let reason := if !readable then 17 else if k.forced then 18 else if bed then 16 else 0
  let found := readable && match k.sag with
    | some x => x.state == 1
    | none => false
  let prior := found && match k.sag with
    | some x => x.prior
    | none => false
  let p := { Power.off with
    started := true, mode := if bed then 2 else 0, reason := reason
    pending := if bed then some ⟨reason, 0, 0, []⟩ else none, sagFound := found, sagPrior := prior }
  let k := { k with boots := min 15 (r.1 + 1), era := if readable then (k.era + 1) % 65536 else 0xFFFF, forced := false }
  let s := setFld F.START_BOOT_BOOTS k.boots (setFld F.START_BOOT_ERA k.era (bump 0xF0 (startState k p r.2)))
  if bed then bump 0xF2 s else s

/-- POWER_ON_START (R264, R270, R271). -/
def execPowerOnStart (keepReadable : Bool) (s : State) : Host.Outcome State Fault Refusal := .next (powerOnStart keepReadable s)

/-- IMAGE_READ_DONE: the image is checked; outside Bedrock mode what passes waits for main power, or is applied (R268, R271). The
NVM is read once per start. -/
def execImageReadDone (t : BitVec 64) (bytes : List Byte) (s : State) : Host.Outcome State Fault Refusal :=
  let s := tick t s
  if !s.pwr.started || s.pwr.imgDone != 0xFFFF || s.pwr.state == 5 then .next s
  else
    let s := modPwr (fun p => { p with imgDone := s.nowMs }) s
    if s.bedrock then .next s
    else
      let p := readImage bytes
      let s := modPwr (fun q => { q with pending := some p, mode := if p.reason = 0 then 0 else 1, reason := p.reason }) s
      if s.mainOn then applyConfig s else .next s

/-- HELLO goes out on every link of the main domain that is up. -/
def greetLinks (s : State) : State :=
  each (fun p s => each (fun k s =>
    if (s.sess p k).linkUp && !(s.sess p k).heloOut then sendHello p k s else s) (s.peersOf p) s) [Port.P, .C, .N, .T] s

/-- MAIN_POWER_GOOD: the main domain runs; a configuration that waits is applied (R268), and links greet. -/
def execMainPowerGood (t : BitVec 64) (s : State) : Host.Outcome State Fault Refusal :=
  let s := tick t s
  if !s.pwr.started || s.pwr.mainGood || s.pwr.state == 3 || s.pwr.state == 5 then .next s
  else
    let s := modPwr (fun p => { p with mainGood := true }) s
    andThen (applyConfig s) fun s => .next (finish (greetLinks s))

/-- START_CLEARING_DONE: the clearing that follows the configuration, or a wake, is over (R197, R272, R275). -/
def execStartClearingDone (t : BitVec 64) (s : State) : Host.Outcome State Fault Refusal :=
  let s := tick t s
  if s.mainOn && s.pwr.applied then .next (modPwr (fun p => { p with cleared := true }) s) else .next s

/-- START_WINDOW_EXPIRY: STARTWIN seconds after the start instant BOOTS is written as 0, once (R270). -/
def execStartWindowExpiry (t : BitVec 64) (s : State) : Host.Outcome State Fault Refusal :=
  let s := tick t s
  if s.pwr.started && !s.pwr.startGood && decide (s.fld F.START_BOOT_STARTWIN * 1000000000 ≤ s.now) then
    .next { s with keep := { s.keep with boots := 0 }, pwr := { s.pwr with startGood := true } }
  else .next s

/-- BEDROCKNEXT writes BOOTS as 3 and forces Bedrock mode at the next start (R271, R282). -/
def bedrockNext (s : State) : State := { s with keep := { s.keep with boots := 3, forced := true } }

/-- BOOT_BEDROCKNEXT (R282). -/
def execBootBedrocknext (s : State) : Host.Outcome State Fault Refusal := .next (bedrockNext s)

/-- CLEAR writes BOOTS as 0 and prevents a forced Bedrock mode (R271, R282). -/
def bootClear (s : State) : State := { s with keep := { s.keep with boots := 0, forced := false } }

/-- BOOT_CLEAR (R282). -/
def execBootClear (s : State) : Host.Outcome State Fault Refusal := .next (bootClear s)

/-! Fallow and wake (R274, R275, R321). -/

/-- Port G holds arrivals: while the node enters fallow, is in it, or wakes (R274, R275). -/
def State.holding (s : State) : Bool := s.pwr.state == 2 || s.pwr.state == 3 || s.pwr.state == 4

/-- Every seat is Free; an index retired under R37 never is again and does not count (R274). -/
def State.allFree (s : State) : Bool := s.seatIdx.all fun i => (s.seat i).state == .free || s.led.retired.contains i

/-- The entry of fallow: hold mode, a boundary stop, gates frozen, ports dropped (R274). -/
def fallowEntry (s : State) : State :=
  let s := modPwr (fun p => { p with state := 2 }) s
  let s := if s.deals.stopped then s else boundaryStop 0 s
  let s := each softFreeze [0, 1, 2] s
  each dropPort [Port.F, .T, .C, .N, .P] s

/-- FALLOW_ENTRY: FALLOW is 1, every seat is Free and no OPEN is undecided (R274). -/
def execFallowEntry (t : BitVec 64) (s : State) : Host.Outcome State Fault Refusal :=
  let s := tick t s
  if s.pwr.state == 1 && s.on F.PWR_CTRL_FALLOW && s.allFree then .next (finish (fallowEntry s)) else .next s

/-- What the main domain loses when it switches off (R265, R275, R284, R321); the window's tables keep their contents. -/
def mainOff (s : State) : State :=
  let s := modKv (fun k => { Kv.start with serial := k.serial, nextTag := k.nextTag, objs := k.objs, retire := k.retire, retireWait := k.retireWait }) s
  let s := modSeq (fun q => { Seq.start with
    models := tmap ModelSlot.empty (fun _ x => { x with hotres := false, loading := false }) q.models
    store := q.store, scan := q.scan, nextTag := q.nextTag, retire := q.retire, retireWait := q.retireWait }) s
  let s := { s with gates := each (fun g l => tput GateSt.empty l g { GateSt.empty with hfreeze := (s.gate g).hfreeze }) [0, 1, 2] [] }
  let s := modPorts (fun q => { q with
    open_ := q.open_.filter fun n => n == 0 || n == 6, sess := q.sess.filter fun e => e.1 / 64 == 0
    queue := q.queue.filter fun i => i.msg.port == .G, fabricReady := false, fCredit := [], fQueue := [], gated := [] }) s
  let s := modObs (fun o => { o with cnt := [], snap := [], bankSeq := 0, opsQueue := [], opsHeld := none, traced := true }) s
  setReg 0x28c8 0 (modSieve (fun _ => SieveSt.start) s)

/-- FALLOW_POWER_OFF: stopped, the staging buffer drained and nothing held, the main domain switches off; STATE reads 3 (R274). -/
def execFallowPowerOff (t : BitVec 64) (s : State) : Host.Outcome State Fault Refusal :=
  let s := tick t s
  if s.pwr.state == 2 && s.deals.stopped && s.obs.staging == [] && s.pwr.hold == [] then
    .next (bump 0xF4 (modPwr (fun p => { p with
      state := 3, mainGood := false, cleared := false, replay := false, fallowAt := s.now }) (mainOff s)))
  else .next s

/-- A wake begins: fallow's time is counted; no budget window edge fell due in it (R42, R275, R285). -/
def startWake (s : State) : State :=
  let s := bump 0xF5 (bumpN 0xF6 ((s.now - s.pwr.fallowAt) / 1000000) (modPwr (fun p => { p with state := 4, wakeAt := s.now }) s))
  let win := 1000 * s.fld F.ADM_WINDOW_WINLEN
  if s.now < s.nextEdge then s
  else { s with est := { s.est with
    edgeAt := s.nextEdge + (s.now - s.nextEdge) / max 1 win * win, winLen := s.fld F.ADM_WINDOW_WINLEN } }

/-- PWR_CTRL.WAKE is written (R275); outside fallow there is nothing to wake from. -/
def wakeWrite (s : State) : State := if s.pwr.state = 3 then startWake s else s

/-- WAKE (R275). -/
def execWake (t : BitVec 64) (s : State) : Host.Outcome State Fault Refusal := .next (wakeWrite (tick t s))

/-- A message reaches the hold buffer before step 5: the entry is abandoned with a stop of it that still waits, and the ports reopen as
after a wake (R274; log entry 60). -/
def fallowAbandon (s : State) : State :=
  let s := modDeals (fun d => { d with pendStop := none }) (modPwr (fun p => { p with state := 4, wakeAt := s.now }) s)
  greetLinks (modPorts (fun q => { q with open_ := q.open_.filter fun n => n == 0 || n == 6 }) s)

/-- A held message is delivered to the ledger. -/
def deliverOne (c : Instr) (s : State) : State :=
  match c with
  | .openReq _ m => openGo m s
  | .prompt _ p peer m => promptGo p peer.toNat m s
  | .cancel _ r => sievePump (cancelGo r s)
  | _ => s

/-- Firmware writes GO to the node that fallow's entry left stopped (R321). -/
def wakeGo (s : State) : State := if s.deals.stopped then finish (goNode s) else s

/-- The hold buffer is delivered in order, and GO is written; STATE reads 1 and LASTWAKE the wake's length (R275, R321). -/
def deliverHold (s : State) : State :=
  wakeGo (each deliverOne s.pwr.hold
    (modPwr (fun p => { p with state := 1, hold := [], lastWake := sat 4294967295 ((s.now - p.wakeAt) / 1000) }) s))

/-- WAKEHOLD_EXPIRY: WAKEHOLD ms after the wake began the hold buffer is delivered regardless (R275). -/
def execWakeholdExpiry (t : BitVec 64) (s : State) : Host.Outcome State Fault Refusal :=
  let s := tick t s
  .next (if s.pwr.state == 4 && decide (s.pwr.wakeAt + 1000000 * s.fld F.PWR_FALLOW_WAKEHOLD ≤ s.now) then deliverHold s else s)

/-- In a wake: the tiers are up on an open port T, and the hold buffer can go (R275). -/
def State.wakeReady (s : State) : Bool := s.pwr.state == 4 && s.portOpen .T && s.live .T 0 && s.seq.flashUp && s.seq.hbmUp

/-- TSTATUS: READY follows the tiers (R207, R217); after a wake, tiers up on an open port T let the hold buffer go (R275). -/
def execTstatus (t : BitVec 64) (flashUp hbmUp : Bool) (s : State) : Host.Outcome State Fault Refusal :=
  if !s.mainOn then .next (tick t s) else
  let s := finish (taking .T 0 0 0x64 0 0 (tiersChange flashUp hbmUp) (tick t s))
  .next (if s.wakeReady then deliverHold s else s)

/-- A message of port G goes to the hold buffer, its credit kept (R274, R275); an OPEN starts a wake from fallow. -/
def holdMsg (c : Instr) (cls op : Nat) (word1 : Word) (isOpen : Bool) (s : State) : State :=
  match arrive .G 0 cls op word1 0 s with
  | (false, s) => s
  | (true, s) =>
    let s := modPwr (fun p => { p with hold := p.hold ++ [c] }) s
    if s.pwr.state = 2 then fallowAbandon s
    else if s.pwr.state = 3 ∧ isOpen = true then startWake s
    else s

/-- OPEN arrives on port G (R21, R248, R274, R275). -/
def execOpenReq (t : BitVec 64) (m : OpenMsg) (s : State) : Host.Outcome State Fault Refusal :=
  let s := tick t s
  if !s.powered .G then .next s
  else if s.holding then .next (holdMsg (.openReq t m) 0 0x10 m.reqid true s)
  else .next (handleOpen m s)

/-- PROMPT arrives on port G, or on port N from a lead (R249). -/
def execPrompt (t : BitVec 64) (p : Port) (peer : BitVec 6) (m : PromptMsg) (s : State) : Host.Outcome State Fault Refusal :=
  let s := tick t s
  if (p != .G && p != .N) || !s.powered p then .next s
  else if p == .G && s.holding then .next (holdMsg (.prompt t p peer m) 1 0x11 m.reqid false s)
  else .next (handlePrompt p peer.toNat m s)

/-- CANCEL arrives on port G (R17, R29). -/
def execCancel (t : BitVec 64) (reqid : BitVec 64) (s : State) : Host.Outcome State Fault Refusal :=
  let s := tick t s
  if !s.powered .G then .next s
  else if s.holding then .next (holdMsg (.cancel t reqid) 2 0x16 reqid false s)
  else .next (sievePump (handleCancel reqid s))

/-! The supply sag (R276 to R280). -/

/-- S of R277: GENERATED minus the tokens held in port G's queue at the halt. -/
def State.sagSent (s : State) (i : Nat) : Nat := (s.seat i).generated.toNat - s.queuedTok i

/-- The seat's ADMIT has left port G. -/
def State.admitLeft (s : State) (i : Nat) : Bool := (s.side i).phase == .answered || (s.side i).phase == .lost

/-- The seat's CLOSE has left port G. -/
def State.closeLeft (s : State) (i : Nat) : Bool := (s.side i).settled && (s.side i).phase == .answered

/-- The pot action of R277 for a seat that is not Free; one whose pot is settled, as at its CLOSE, has none. -/
def sagSettle (i : Nat) (s : State) : State :=
  let a := s.seat i
  let back := fun (n : Int) => modTenant a.tenant.toNat (fun t => { t with level := satLevel (t.lvl + n) }) s
  if a.role = 2 ∨ (s.side i).settled = true then s
  else if !s.admitLeft i then back a.charged.toNat
  else back ((a.charged.toNat : Int) - (s.sagSent i * (s.tenant a.tenant.toNat).wGen.toNat : Nat))

/-- The record's entry for a seat (R278). -/
def sagSeat (s : State) (i : Nat) : SagSeat :=
  let a := s.seat i
  let n := s.sagSent i
  let pos := a.promptLen.toNat + n
  ⟨a.reqid, a.promptLen.toNat, n, if s.closeLeft i then a.closeReason.toNat else 0x50, pos,
    if a.nextPos.toNat = pos then a.drawIdx.toNat else 0, a.tenant.toNat, a.cls.toNat, a.role.toNat⟩

/-- Seats that are not Free, in index order. -/
def State.usedSeats (s : State) : List Nat := s.seatIdx.filter fun i => (s.seat i).state != .free

/-- The sag record, being written (R277, R278). -/
def sagRecord (s : State) : SagRec :=
  let l := s.usedSeats
  let done := each sagSettle l s
  let prior := match s.keep.sag with
    | some r => r.state == 1
    | none => false
  ⟨s.keep.era, prior, s.now, 0,
    (done.tenants.map fun e => (e.1, e.2.level.toNat)).filter fun e => e.2 != 0,
    (l.filter fun i => (s.seat i).role != 2 && s.admitLeft i).map (sagSeat s)⟩

/-- The sag warning (R276): port G's egress halts, an immediate stop is requested, the lock ends, the main domain is isolated, and
the record begins unless no configuration was applied (R280). -/
def sagWarn (s : State) : State :=
  let rec_ := if s.pwr.applied then some (sagRecord s) else s.keep.sag
  let on := s.pwr.mainGood
  let s := bump 0xF3 (modPwr (fun p => { p with state := 5, sagWarn := true, warnAt := s.now, recDone := false, busUp := false }) s)
  let s := if on then unlock (immediateStop s) else s
  let n := if s.pwr.applied then match rec_ with
    | some r => r.seats.length
    | none => 0 else 0
  bumpN 0x1A n { s with keep := { s.keep with sag := rec_ }, pwr := { s.pwr with mainGood := false } }

/-- SAG_WARNING; a second one during the record is ignored (R276, R280). -/
def execSagWarning (t : BitVec 64) (s : State) : Host.Outcome State Fault Refusal :=
  let s := tick t s
  if s.pwr.started && s.pwr.state != 5 then .next (sagWarn s) else .next s

/-- A record is being written. -/
def State.writingSag (s : State) : Bool := s.pwr.state == 5 && s.pwr.applied && !s.pwr.recDone

/-- SAG_RECORD_DONE: STATE is written as 1 last; RECTIME, SAGS, and BOOTS less one (R270, R278). -/
def execSagRecordDone (t : BitVec 64) (s : State) : Host.Outcome State Fault Refusal :=
  let s := tick t s
  if s.writingSag then
    let done := fun (r : SagRec) => { r with state := 1 }
    .next { s with
      keep := { s.keep with
        sag := s.keep.sag.map done, recTime := sat 2097151 ((s.now - s.pwr.warnAt) / 1000), sags := sat 255 (s.keep.sags + 1)
        boots := s.keep.boots - 1 }
      pwr := { s.pwr with recDone := true } }
  else .next s

/-- BUS_RECOVERED: the bus is at 48 V again, and a full start is requested once the record is complete (R276). -/
def execBusRecovered (t : BitVec 64) (s : State) : Host.Outcome State Fault Refusal :=
  let s := tick t s
  if s.pwr.state == 5 then .next (modPwr (fun p => { p with busUp := true, sagWarn := false }) s) else .next s

/-- The controller requests a full start (R276): the start is the next POWER_ON_START. -/
def State.startDue (s : State) : Bool := s.pwr.state == 5 && s.pwr.busUp && !s.writingSag

end Sys2Proof.Machine
end

