-- ==== Sys2Proof/Machine/RegFile.lean ====
section
/-! DEFINITION. The register file: what a read of the window returns (R313, R316, R319 to R324) and REGISTER_WRITE (R310, R317). -/
namespace Sys2Proof.Machine

/-! Reads. A register is its stored word with the fields that show other state laid over it. -/

/-- A word with fields put into it, in order. -/
def putAll (l : List (Fld × Nat)) (w : Word) : Word := l.foldl (fun w e => e.1.put e.2 w) w

/-- The number whose set bits are listed. -/
def maskOfList (l : List Nat) : Nat := l.eraseDups.foldl (fun m i => m + 2 ^ i) 0

/-- Slots of four for which a test holds, as a mask. -/
def slotMask (p : Nat → Bool) : Nat := maskOfList ((List.range 4).filter p)

/-- Seats that are not Free. -/
def State.seatsUsed (s : State) : Nat := (s.led.seats.filter fun e => e.2.state != .free).length

/-- STAT_ID, STAT_SUMMARY, STAT_WINDOW and STAT_LEDGER (R38, R319, R320). DESIGN CHOICE: an index that was Free when its word was found
uncorrectable stays Free in the ledger and counts in FREE and in RETIRED (log entry 51). -/
def State.viewStat (s : State) (off : Nat) : List (Fld × Nat) :=
  match off with
  | 0x0 => [(F.STAT_ID_GRADE, s.grade.lanes)]
  | 0x8 => [(F.STAT_SUMMARY_PWRSTATE, s.pwr.state), (F.STAT_SUMMARY_MODE, s.pwr.mode), (F.STAT_SUMMARY_APPLIED, bit s.pwr.applied),
      (F.STAT_SUMMARY_ADMOPEN, s.fld F.ADM_CTRL_OPEN), (F.STAT_SUMMARY_RUNNING, bit s.deals.running.isSome),
      (F.STAT_SUMMARY_STOPPED, bit s.deals.stopped), (F.STAT_SUMMARY_COLD, bit s.est.cold),
      (F.STAT_SUMMARY_SAGWARN, bit s.pwr.sagWarn), (F.STAT_SUMMARY_PORTSOPEN, maskOfList s.ports.open_)]
  | 0x18 => [(F.STAT_WINDOW_HOLDS, s.pwr.holds), (F.STAT_WINDOW_LOCKED, bit s.pwr.locked.isSome)]
  | _ => [(F.STAT_LEDGER_RETIRED, sat 8191 s.led.retired.length),
      (F.STAT_LEDGER_PAUSED, (s.seatsIn [.paused, .spilled]).length), (F.STAT_LEDGER_DEALT, (s.seatsIn [.dealt]).length),
      (F.STAT_LEDGER_FREE, 65536 - s.seatsUsed)]

/-- START_STATUS, START_IMAGE, START_BOOT and START_TIMES (R282). -/
def State.viewStart (s : State) (off : Nat) : List (Fld × Nat) :=
  match off with
  | 0x400 => [(F.START_STATUS_MODE, s.pwr.mode), (F.START_STATUS_REASON, s.pwr.reason), (F.START_STATUS_APPLIED, bit s.pwr.applied),
      (F.START_STATUS_DEFAULTS, bit s.pwr.defaults), (F.START_STATUS_SAGREC, bit s.pwr.sagFound),
      (F.START_STATUS_SAGPRIOR, bit s.pwr.sagPrior), (F.START_STATUS_REPLAYED, bit s.pwr.replayed),
      (F.START_STATUS_IMGLEN, s.pwr.imgLen)]
  | 0x408 => [(F.START_IMAGE_BUILDID, s.pwr.buildId.toNat)]
  | 0x410 => []
  | _ => [(F.START_TIMES_IMGDONE, s.pwr.imgDone), (F.START_TIMES_APPLIEDAT, s.pwr.appliedAt),
      (F.START_TIMES_PORTGOPEN, s.pwr.portGOpen), (F.START_TIMES_ADMITOPEN, s.pwr.admitOpen)]

/-- The admission group's status fields (R64, R65). Every decision is taken within its command, so UNDECIDED reads 0 between commands,
and so does BOUNDARY. -/
def State.viewAdm (s : State) (off : Nat) : List (Fld × Nat) :=
  match off with
  | 0x808 => [(F.ADM_STATUS_DEALSOBS, s.est.dealsObs), (F.ADM_STATUS_COLD, bit s.est.cold)]
  | 0x810 => [(F.ADM_WINDOW_WINNUM, s.est.winNum)]
  | 0x840 => [(F.ADM_EST0_BASE, s.est.base), (F.ADM_EST0_ROWCOST, s.est.rowCost), (F.ADM_EST0_CHUNKCOST, s.est.chunkCost)]
  | 0x848 => [(F.ADM_EST1_POOLBASE, s.est.poolBase), (F.ADM_EST1_POOLKTOK, s.est.poolKtok)]
  | _ =>
    let c := (off - 0x880) / 0x20
    if off < 0x880 ∨ 0x980 ≤ off then []
    else if off % 0x20 = 0x10 then [(F.ADM_CLASS_LIMIT_LIVE c, (s.cls c).live)]
    else if off % 0x20 = 0x18 then
      [(F.ADM_CLASS_STAT_ATTAINTTFT c, (s.cls c).attainTtft), (F.ADM_CLASS_STAT_ATTAINTPOT c, (s.cls c).attainTpot),
        (F.ADM_CLASS_STAT_TPD c, (s.cls c).tpd)]
    else []

/-- The Dealer's and the Herald's status fields (R95, R121); THROUGH is the running deal's, as its launch words carry it, and
0 while none runs. -/
def State.viewDeals (s : State) (off : Nat) : List (Fld × Nat) :=
  match off with
  | 0x1008 => [(F.DEAL_STATUS_NOTABLE, bit (!s.tableOk)), (F.DEAL_STATUS_HANDED, bit s.deals.handed.isSome),
      (F.DEAL_STATUS_COMPOSING, bit s.deals.composing.isSome)]
  | 0x1028 => [(F.DEAL_SLOTCFG_ACTIVE, bit s.deals.active)]
  | 0x1808 => [(F.HER_STATUS_RUNEPOCH, s.deals.runEpoch), (F.HER_STATUS_STOPPED, bit s.deals.stopped),
      (F.HER_STATUS_STOPPING, bit (s.deals.stopping || s.deals.pendStop.isSome)), (F.HER_STATUS_STOPMODE, s.deals.stopMode),
      (F.HER_STATUS_PEERHOLD, match s.deals.hold with
        | some h => h.why / 2
        | none => 0),
      (F.HER_STATUS_WEIGHTHOLD, match s.deals.hold with
        | some h => h.why % 2
        | none => 0),
      (F.HER_STATUS_RUNNING, bit s.deals.running.isSome)]
  | 0x1810 => [(F.HER_NEXTEPOCH_EPOCH, s.deals.nextEpoch)]
  | 0x1868 =>
    let thr := (F.HER_LAYER_THROUGH, match s.deals.running with
      | some r => throughField r.through
      | none => 0)
    match s.deals.hold with
    | some h => [thr, (F.HER_LAYER_HELDAT, h.layer), (F.HER_LAYER_HOLDWHY, h.why),
        (F.HER_LAYER_PEERNODE, if 2 ≤ h.why then h.node else 0)]
    | none => [thr, (F.HER_LAYER_HELDAT, 0xFFF)]
  | _ => []

/-- The Sieve's status (R145). -/
def State.viewSieve (s : State) (off : Nat) : List (Fld × Nat) :=
  let rows := s.sieve.rows.filter fun r => !r.final
  if off = 0x2000 then
    [(F.SIEVE_STATUS_LANES, s.grade.lanes), (F.SIEVE_STATUS_BUSY, maskOfList (rows.map (·.lane))),
      (F.SIEVE_STATUS_OVERFLOW, ((rows.filter (·.overflow)).map (·.lane)).eraseDups.length)]
  else []

/-- The prefix and KV group's status (R202). -/
def State.viewPkv (s : State) (off : Nat) : List (Fld × Nat) :=
  match off with
  | 0x2808 => [(F.PKV_STATUS_LOWFREE, bit (s.mainOn && s.lowFree)), (F.PKV_STATUS_REPLAY, bit s.pwr.replay),
      (F.PKV_STATUS_CLEARED, bit s.pwr.cleared)]
  | 0x2840 => [(F.PKV_FREE_FREE, s.freeBlocks), (F.PKV_FREE_CACHED, s.cachedBlocks)]
  | 0x2858 => [(F.PKV_PROMPTFREE_FREEPAGES, s.freePages)]
  | 0x2870 => [(F.PKV_NAME_ERA, s.keep.era), (F.PKV_NAME_SERIAL, s.kv.serial)]
  | 0x28a8 =>
    let k := s.objSel.1
    let i := s.objSel.2
    let o := s.obj k i (s.fld F.PKV_OBJSEL_SLOT)
    [(F.PKV_OBJSTAT_CURSLOT, (s.objCur k i).getD 0), (F.PKV_OBJSTAT_HASCUR, bit (s.objCur k i).isSome),
      (F.PKV_OBJSTAT_LIVE, slotMask fun v => (s.obj k i v).live), (F.PKV_OBJSTAT_PINS, o.pins), (F.PKV_OBJSTAT_SLOTVER, o.version)]
  | 0x28b0 => match s.kv.retire with
    | (k, i, v) :: _ => [(F.PKV_RETIRE_VALID, 1), (F.PKV_RETIRE_KIND, k), (F.PKV_RETIRE_ID, i), (F.PKV_RETIRE_SLOT, v),
        (F.PKV_RETIRE_VERSION, (s.obj k i v).version)]
    | [] => []
  | _ => []

/-- The models and sequencer group's status (R219); in Bedrock mode tier 1 serves every load and HBMUP reads as TSTATUS gave it. -/
def State.viewMod (s : State) (off : Nat) : List (Fld × Nat) :=
  match off with
  | 0x3008 => [(F.MOD_STATUS_READYVERS, s.readyVers), (F.MOD_STATUS_HOTUSED, sumOf (s.hotUsed.map fun u => u.2.2)),
      (F.MOD_STATUS_FLASHUP, bit s.seq.flashUp), (F.MOD_STATUS_HBMUP, bit s.seq.hbmUp), (F.MOD_STATUS_LOADING, bit s.seq.chipLoad.isSome)]
  | 0x3058 =>
    let m := s.modSel.1
    let x := s.model m s.modSel.2
    [(F.MOD_STAT_CURSLOT, (s.modelCur m).getD 0), (F.MOD_STAT_HASCUR, bit (s.modelCur m).isSome),
      (F.MOD_STAT_LIVE, slotMask fun v => (s.model m v).live), (F.MOD_STAT_PINS, x.pins), (F.MOD_STAT_SLOTVER, x.f.version.toNat)]
  | 0x3060 => match s.seq.retire with
    | (m, v, ver) :: _ => [(F.MOD_RETIRE_VALID, 1), (F.MOD_RETIRE_MODEL, m), (F.MOD_RETIRE_SLOT, v), (F.MOD_RETIRE_VERSION, ver)]
    | [] => []
  | _ => []

/-- WAIT of GATEg_REQr: the wait age in units of 64 PCLK cycles of 4/3 ns (R224, R237). -/
def State.waitAge (s : State) (q : Req) : Nat := if q.requesting then sat 0xFFFF ((s.now - q.waitFrom) * 3 / 256) else 0

/-- The status fields of gate `g` (R237). -/
def State.viewGate (s : State) (g k : Nat) : List (Fld × Nat) :=
  let x := s.gate g
  if k = 0 then [(F.GATE_CTRL_HFREEZE g, bit x.hfreeze)]
  else if k = 0x10 then
    [(F.GATE_STATUS_OWNER0 g, x.p0.owner.getD 0), (F.GATE_STATUS_OWNED0 g, bit x.p0.owner.isSome),
      (F.GATE_STATUS_OWNER1 g, x.p1.owner.getD 0), (F.GATE_STATUS_OWNED1 g, bit x.p1.owner.isSome),
      (F.GATE_STATUS_REQUESTING g, maskOfList ((requesters g).filter fun r => (x.req 0 r).requesting || (x.req 1 r).requesting)),
      (F.GATE_STATUS_ROTPOS0 g, x.p0.sinceWaiter), (F.GATE_STATUS_ROTPOS1 g, x.p1.sinceWaiter)]
  else if 0x100 ≤ k then
    let r := (k - 0x100) / 8
    let q := if (x.req 0 r).requesting || !(x.req 1 r).requesting then x.req 0 r else x.req 1 r
    [(F.GATE_REQ_COUNTER g r, s.gateCredit g r), (F.GATE_REQ_PROGRESS g r, q.progress), (F.GATE_REQ_WAIT g r, s.waitAge q)]
  else []

/-- The status fields of port `p`; port N's own words show no single partner (R262). -/
def State.viewPort (s : State) (p : Port) (k : Nat) : List (Fld × Nat) :=
  let n := portNo p
  let e := s.sess p 0
  let peers := ((s.peersOf p).filter fun i => s.live p i).length
  let one := fun (v : Nat) => if p = .N then 0 else v
  let sel := s.fld F.PORTN_PEERSEL_PEER
  if k = 0 then [(F.PORT_CTRL_OPEN n, bit (s.portOpen p))]
  else if k = 8 then
    [(F.PORT_STATUS_PARTNERID n, one e.node), (F.PORT_STATUS_PARTNERERA n, one e.era),
      (F.PORT_STATUS_SESSIONS n, tget 0 s.ports.sessions n), (F.PORT_STATUS_PEERS n, if p = .N then peers else 0),
      (F.PORT_STATUS_SESSION n, bit (decide (0 < peers))),
      (F.PORT_STATUS_LINKUP n, bit ((s.peersOf p).any fun i => (s.sess p i).linkUp))]
  else if k = 0x30 then
    let sum := fun (c : Nat) => sumOf ((s.peersOf p).map fun i => (s.sess p i).out.getD c 0)
    [(F.PORT_OUTCRED_OUT0 n, sum 0), (F.PORT_OUTCRED_OUT1 n, sum 1), (F.PORT_OUTCRED_OUT2 n, sum 2)]
  else if p = .G ∧ k = 0x18 then [(F.PORT_CREDIT_CLASS0 0, s.fld F.ADM_CTRL_OPENCREDIT)]
  else if p = .G ∧ k = 0x38 then
    [(F.PORTG_STREAM_QUEUED, (s.ports.queue.filter fun i => i.msg.port == .G && i.cls == 1).length)]
  else if p = .N ∧ k = 0x48 then
    if s.live .N sel then [(F.PORTN_PEERSTAT_NODEID, (s.sess .N sel).node), (F.PORTN_PEERSTAT_ERA, (s.sess .N sel).era),
      (F.PORTN_PEERSTAT_UP, 1)] else []
  else []

/-- The trace group's status (R300). -/
def State.viewObs (s : State) (off : Nat) : List (Fld × Nat) :=
  let o := s.obs
  match off with
  | 0x6008 => [(F.OBS_STATUS_SNAPSEQ, o.snapSeq), (F.OBS_STATUS_QUEUED, o.opsQueue.length), (F.OBS_STATUS_MISSES, o.misses),
      (F.OBS_STATUS_SNAPPEND, bit o.snapPend)]
  | 0x6030 => [(F.TRC_STATUS_STATE, o.trcState), (F.TRC_STATUS_DRAINED, bit (o.traced && o.staging == [])), (F.TRC_STATUS_WRAPPED, bit o.wrapped),
      (F.TRC_STATUS_PREHEAD, o.prehead), (F.TRC_STATUS_POSTCOUNT, o.post)]
  | 0x6038 => [(F.TRC_LOST_COUNT, o.lost)]
  | 0x6040 => [(F.TRC_DROPPED_COUNT, o.dropped)]
  | 0x6048 => [(F.TRC_TRIGAT_AT, o.trigAt)]
  | _ => []

/-- The power and sag group's status (R283). -/
def State.viewPwr (s : State) (off : Nat) : List (Fld × Nat) :=
  match off with
  | 0x7008 => [(F.PWR_STATUS_STATE, s.pwr.state), (F.PWR_STATUS_SAGWARN, bit s.pwr.sagWarn), (F.PWR_STATUS_HELD, s.pwr.hold.length)]
  | 0x7010 => [(F.PWR_FALLOW_LASTWAKE, s.pwr.lastWake)]
  | 0x7018 => [(F.PWR_COUNTER_NOW, s.now)]
  | 0x7020 => [(F.PWR_SAG_RECSTATE, match s.keep.sag with
        | some r => r.state
        | none => 0),
      (F.PWR_SAG_NSEAT, match s.keep.sag with
        | some r => r.seats.length
        | none => 0),
      (F.PWR_SAG_RECTIME, s.keep.recTime), (F.PWR_SAG_SAGS, s.keep.sags)]
  | _ => []

/-- The fields of a register that show state kept elsewhere. -/
def State.view (s : State) (off : Nat) : List (Fld × Nat) :=
  if off < 0x400 then (if off < 0x20 ∨ off = 0x180 then s.viewStat off else [])
  else if off < 0x800 then s.viewStart off
  else if off < 0x1000 then s.viewAdm off
  else if off < 0x2000 then s.viewDeals off
  else if off < 0x2800 then s.viewSieve off
  else if off < 0x3000 then s.viewPkv off
  else if off < 0x3800 then s.viewMod off
  else if off < 0x4000 then s.viewGate ((off - 0x3800) / 0x200) ((off - 0x3800) % 0x200)
  else if off < 0x5000 then s.viewPort (portOf ((off - 0x4000) / 0x100)) (off % 0x100)
  else if off < 0x7000 then s.viewObs off
  else s.viewPwr off

/-- DEAL_SLOTDATA reads the bank that READACTIVE chooses (R95). -/
def State.slotData (s : State) : Word :=
  let n := s.fld F.DEAL_SLOTSEL_SLOT
  let active := s.on F.DEAL_SLOTSEL_READACTIVE
  (tget (slotDefault n) (if s.deals.active == active then s.deals.bankB else s.deals.bankA) n).word

/-- HER_SPLITDATA reads the selected word; LINK reads 2 while a seat of the entry waits on a peer (R106). -/
def State.splitData (s : State) : Word :=
  let n := s.fld F.HER_SPLITSEL_ENTRY
  let e := tget SplitEnt.empty s.deals.splits n
  let waits := (s.deals.peerWaits.map (·.seat) ++ s.deals.followWaits.map (·.1)).any fun i => (s.seat i).splitIdx.toNat == n
  if 35 < s.fld F.HER_SPLITSEL_WORD then 0
  else (if waits then { e with link := 2 } else e).word (s.fld F.HER_SPLITSEL_WORD)

/-- What a read of the window returns (R313, R314, R316, R324). A read changes nothing; command bits and HKEY read as zero. -/
def State.read (s : State) (off : Nat) : Word :=
  if 0x5000 ≤ off ∧ off < 0x5800 ∧ off % 8 = 0 then BitVec.ofNat 64 (s.cnt ((off - 0x5000) / 8))
  else if 0x5800 ≤ off ∧ off < 0x6000 ∧ off % 8 = 0 then pack [(16, s.obs.bankSeq), (48, tget 0 s.obs.snap ((off - 0x5800) / 8))]
  else if 0x988 ≤ off ∧ off ≤ 0x9a0 ∧ off % 8 = 0 then (s.tenant (s.fld F.ADM_TSEL_TENANT)).word ((off - 0x988) / 8)
  else if off = 0x10 then BitVec.ofNat 64 s.errSum
  else if off = 0x1038 then s.slotData
  else if off = 0x1880 then s.splitData
  else if off = 0x6070 then tget 0 s.obs.dig (s.fld F.DIG_SEL_ENTRY)
  else match regAt off with
    | some r => putAll (s.view off) (s.reg off &&& ~~~ (r.maskOf [.WO] ||| r.reserved))
    | none => 0

/-! Command bits (R317, R322). -/

/-- Command bits of a register that act in a main-domain unit: ignored while STATE is 3 or 4 (R322). -/
def whenCmd (f : State → State) (s : State) : State := if s.cmdOn then f s else s

/-- The command bits of a written register, in ascending order; TRC_TRIG performs ARM before FIRE (R317). -/
def cmdBits (off : Nat) (v : Word) : List Nat :=
  if off = 0x6028 then (if v.getLsbD 1 then [1] else []) ++ (if v.getLsbD 0 then [0] else [])
  else (List.range 64).filter fun i => v.getLsbD i

/-- The command bits of HER_STOPCTL in one write (R115, R317): a boundary request beside an immediate one is overridden by it, and GO
beside a request is ignored and counted, for STOPPED is not yet 1. -/
def stopBits (v : Word) (s : State) : State :=
  let halted := s.deals.stopped || s.deals.stopping
  let b := v.getLsbD 1 && (halted || !v.getLsbD 2)
  let t := if b then boundaryStop (s.fld F.HER_STOPCTL_STOPEPOCH) s else s
  let t := if v.getLsbD 2 then immediateStop t else t
  if !v.getLsbD 3 then t
  else if (v.getLsbD 1 || v.getLsbD 2) && !s.deals.stopped then bump 0x5C t
  else goNode t

/-- One command bit of MOD_CMD; the slot's fields and descriptors are as they stand in the table (R205, R218). -/
def modBit (i : Nat) (s : State) : State :=
  match i with
  | 0 => modRegisterStart (s.model s.modSel.1 s.modSel.2).f [] s
  | 1 => modWithdraw s
  | 2 => modReobj none s
  | 3 => hotStart s.modSel.1 s.modSel.2 s
  | _ => s

/-- One command bit of OBS_CTRL (R300). -/
def obsBit (i : Nat) (s : State) : State :=
  match i with
  | 0 => whenCmd takeSnap s
  | 1 => whenCmd armSnap s
  | 2 => whenCmd clearCounters s
  | 3 => clearKeep s
  | _ => s

/-- One command bit of the register at an offset. -/
def cmdBit (off i : Nat) (s : State) : Host.Outcome State Fault Refusal :=
  match off, i with
  | 0x18, 0 => .next (whenCmd acquireLock s)
  | 0x18, 1 => .next (releaseLock s)
  | 0x410, 0 => .next (bootClear s)
  | 0x410, 1 => .next (bedrockNext s)
  | 0x28a0, 0 => .next (whenCmd registerObj s)
  | 0x28a0, 1 => .next (whenCmd withdrawObj s)
  | 0x28b8, 0 => .next (whenCmd popObj s)
  | 0x3050, i => .next (whenCmd (modBit i) s)
  | 0x3068, 0 => .next (whenCmd modPop s)
  | 0x6000, i => .next (obsBit i s)
  | 0x6028, 1 => if s.cmdOn = true ∧ s.trcCfgOk = false then .fault (.misuse 293) else .next (whenCmd armTrace s)
  | 0x6028, 0 => .next (whenCmd fireNow s)
  | 0x7000, 1 => .next (wakeWrite s)
  | off, 3 =>
    if off = 0x3800 ∨ off = 0x3a00 ∨ off = 0x3c00 then .next (whenCmd (revokeWrite ((off - 0x3800) / 0x200)) s) else .next s
  | off, 1 =>
    if 0x4000 ≤ off ∧ off ≤ 0x4600 ∧ off % 0x100 = 0 then .next (portDropWrite (portOf ((off - 0x4000) / 0x100)) s) else .next s
  | _, _ => .next s

/-- The command bits of a write are performed (R317); more than one of PKV_OBJCMD or MOD_CMD is a misuse. -/
def commands (off : Nat) (v : Word) (s : State) : Host.Outcome State Fault Refusal :=
  match regAt off with
  | none => .next s
  | some r =>
    let l := cmdBits off (v &&& r.maskOf [.WO])
    if (off = 0x28a0 ∨ off = 0x3050) ∧ 1 < l.length then .fault (.misuse 317)
    else if off = 0x2810 ∨ off = 0x2818 then .next s
    else if off = 0x1830 then .next (whenCmd (stopBits v) s)
    else eachDo (cmdBit off) l s

/-- A write of the window: aligned to 8 B (R6), its fields first and then its command bits (R317). -/
def registerWrite (off : Nat) (v : Word) (s : State) : Host.Outcome State Fault Refusal :=
  if off % 8 ≠ 0 then .fault (.misuse 6)
  else andThen (andThen (storeWrite false off v s) (commands off v)) (fun s => .next (finish s))

/-- REGISTER_WRITE (R310, R317, R322, R325). -/
def execRegisterWrite (t : BitVec 64) (off : BitVec 16) (v : Word) (s : State) : Host.Outcome State Fault Refusal :=
  registerWrite off.toNat v (tick t s)

end Sys2Proof.Machine
end

