-- ==== Sys2Proof/Machine/Dispatch.lean ====
section
/-! DEFINITION. One arm per command. -/
namespace Sys2Proof.Machine

/-- A command's effect on everything but the queue of waiting commands. -/
def exec (i : Instr) (s : State) : Host.Outcome State Fault Refusal :=
  match i with
  | .powerOnStart keepReadable => Sys2Proof.Machine.execPowerOnStart keepReadable s
  | .imageReadDone t bytes => Sys2Proof.Machine.execImageReadDone t bytes s
  | .mainPowerGood t => Sys2Proof.Machine.execMainPowerGood t s
  | .startClearingDone t => Sys2Proof.Machine.execStartClearingDone t s
  | .fabricReady t => Sys2Proof.Machine.execFabricReady t s
  | .startWindowExpiry t => Sys2Proof.Machine.execStartWindowExpiry t s
  | .sagWarning t => Sys2Proof.Machine.execSagWarning t s
  | .sagRecordDone t => Sys2Proof.Machine.execSagRecordDone t s
  | .busRecovered t => Sys2Proof.Machine.execBusRecovered t s
  | .fallowEntry t => Sys2Proof.Machine.execFallowEntry t s
  | .fallowPowerOff t => Sys2Proof.Machine.execFallowPowerOff t s
  | .wake t => Sys2Proof.Machine.execWake t s
  | .wakeholdExpiry t => Sys2Proof.Machine.execWakeholdExpiry t s
  | .linkUp t p peer => Sys2Proof.Machine.execLinkUp t p peer s
  | .linkDown t p peer => Sys2Proof.Machine.execLinkDown t p peer s
  | .hello t p peer node era opened => Sys2Proof.Machine.execHello t p peer node era opened s
  | .credit t p peer opened beats entries => Sys2Proof.Machine.execCredit t p peer opened beats entries s
  | .unknownMessage t p peer badLen opcode word1 => Sys2Proof.Machine.execUnknownMessage t p peer badLen opcode word1 s
  | .portOpen t p => Sys2Proof.Machine.execPortOpen t p s
  | .portDrop t p => Sys2Proof.Machine.execPortDrop t p s
  | .openReq t m => Sys2Proof.Machine.execOpenReq t m s
  | .prompt t p peer m => Sys2Proof.Machine.execPrompt t p peer m s
  | .promptwaitExpiry t seat => Sys2Proof.Machine.execPromptwaitExpiry t seat s
  | .cancel t reqid => Sys2Proof.Machine.execCancel t reqid s
  | .prefillShip t seat => Sys2Proof.Machine.execPrefillShip t seat s
  | .prefillKv t seat gen block tag carrier => Sys2Proof.Machine.execPrefillKv t seat gen block tag carrier s
  | .prefillFail t seat gen code => Sys2Proof.Machine.execPrefillFail t seat gen code s
  | .shipwaitExpiry t seat => Sys2Proof.Machine.execShipwaitExpiry t seat s
  | .kvData t tag handle carrier => Sys2Proof.Machine.execKvData t tag handle carrier s
  | .kvMiss t tag handle => Sys2Proof.Machine.execKvMiss t tag handle s
  | .putAck t tag handle => Sys2Proof.Machine.execPutAck t tag handle s
  | .putDecline t tag => Sys2Proof.Machine.execPutDecline t tag s
  | .imageData t tag handle image => Sys2Proof.Machine.execImageData t tag handle image s
  | .dirAdd t entries => Sys2Proof.Machine.execDirAdd t entries s
  | .dirDrop t entries => Sys2Proof.Machine.execDirDrop t entries s
  | .replayEnd t count => Sys2Proof.Machine.execReplayEnd t count s
  | .fetchwaitExpiry t tag => Sys2Proof.Machine.execFetchwaitExpiry t tag s
  | .splitOpen t peer m => Sys2Proof.Machine.execSplitOpen t peer m s
  | .splitOpened t peer reqid seat gen self refused hits => Sys2Proof.Machine.execSplitOpened t peer reqid seat gen self refused hits s
  | .splitClose t peer seat gen reason => Sys2Proof.Machine.execSplitClose t peer seat gen reason s
  | .splitPause t peer seat gen => Sys2Proof.Machine.execSplitPause t peer seat gen s
  | .splitResume t peer seat gen => Sys2Proof.Machine.execSplitResume t peer seat gen s
  | .jointOffer t peer el seat gen rows => Sys2Proof.Machine.execJointOffer t peer el seat gen rows s
  | .jointBind t peer el seat gen refused ef => Sys2Proof.Machine.execJointBind t peer el seat gen refused ef s
  | .jointGo t peer el seat gen liveRows firstPos toks => Sys2Proof.Machine.execJointGo t peer el seat gen liveRows firstPos toks s
  | .query t peer el layer rows seat gen => Sys2Proof.Machine.execQuery t peer el layer rows seat gen s
  | .partialMsg t peer el layer seat gen self => Sys2Proof.Machine.execPartialMsg t peer el layer seat gen self s
  | .clusterExchangeOut t isQuery seat gen el layer rows bytes => Sys2Proof.Machine.execClusterExchangeOut t isQuery seat gen el layer rows bytes s
  | .lease t peer el len msgs beats => Sys2Proof.Machine.execLease t peer el len msgs beats s
  | .peerwaitLeadExpiry t seat => Sys2Proof.Machine.execPeerwaitLeadExpiry t seat s
  | .peerwaitFollowerExpiry t seat => Sys2Proof.Machine.execPeerwaitFollowerExpiry t seat s
  | .leaseIdleExpiry t peer => Sys2Proof.Machine.execLeaseIdleExpiry t peer s
  | .objFetch t peer tag handle bytes => Sys2Proof.Machine.execObjFetch t peer tag handle bytes s
  | .objData t p tag status => Sys2Proof.Machine.execObjData t p tag status s
  | .secwaitExpiry t tag => Sys2Proof.Machine.execSecwaitExpiry t tag s
  | .tfetch t => Sys2Proof.Machine.execTfetch t s
  | .tdone t tag status badAddr => Sys2Proof.Machine.execTdone t tag status badAddr s
  | .terr t addr => Sys2Proof.Machine.execTerr t addr s
  | .tstatus t flashUp hbmUp => Sys2Proof.Machine.execTstatus t flashUp hbmUp s
  | .candList t m => Sys2Proof.Machine.execCandList t m s
  | .refillRoomFreed t lane => Sys2Proof.Machine.execRefillRoomFreed t lane s
  | .drafts t m => Sys2Proof.Machine.execDrafts t m s
  | .epochDone t epoch abandoned ahead recs => Sys2Proof.Machine.execEpochDone t epoch abandoned ahead recs s
  | .layerDone t layer => Sys2Proof.Machine.execLayerDone t layer s
  | .composeBegin t => Sys2Proof.Machine.execComposeBegin t s
  | .idleComposeStart t => Sys2Proof.Machine.execIdleComposeStart t s
  | .dealHandOff t => Sys2Proof.Machine.execDealHandOff t s
  | .dealComplete t => Sys2Proof.Machine.execDealComplete t s
  | .launch t => Sys2Proof.Machine.execLaunch t s
  | .layerRelease t => Sys2Proof.Machine.execLayerRelease t s
  | .stopBoundary t epoch => Sys2Proof.Machine.execStopBoundary t epoch s
  | .stopImmediate t => Sys2Proof.Machine.execStopImmediate t s
  | .stopGo t => Sys2Proof.Machine.execStopGo t s
  | .blockHashDone t seat => Sys2Proof.Machine.execBlockHashDone t seat s
  | .indexProbeDone t seat => Sys2Proof.Machine.execIndexProbeDone t seat s
  | .pkvRegister => Sys2Proof.Machine.execPkvRegister s
  | .pkvWithdraw => Sys2Proof.Machine.execPkvWithdraw s
  | .pkvRetirePop => Sys2Proof.Machine.execPkvRetirePop s
  | .modRegister fields descs => Sys2Proof.Machine.execModRegister fields descs s
  | .modRegisterDone t => Sys2Proof.Machine.execModRegisterDone t s
  | .modWithdraw => Sys2Proof.Machine.execModWithdraw s
  | .modHotload t => Sys2Proof.Machine.execModHotload t s
  | .modReobj fix => Sys2Proof.Machine.execModReobj fix s
  | .modRetirePop => Sys2Proof.Machine.execModRetirePop s
  | .gateRequest t g r path tag moved => Sys2Proof.Machine.execGateRequest t g r path tag moved s
  | .gateRequestDrop t g r path moved lapsed => Sys2Proof.Machine.execGateRequestDrop t g r path moved lapsed s
  | .gateBurstLimit t g path => Sys2Proof.Machine.execGateBurstLimit t g path s
  | .gateWindowEdge t g moved0 moved1 => Sys2Proof.Machine.execGateWindowEdge t g moved0 moved1 s
  | .gateWatchdog t g path moved => Sys2Proof.Machine.execGateWatchdog t g path moved s
  | .gateRevoke t g moved0 moved1 => Sys2Proof.Machine.execGateRevoke t g moved0 moved1 s
  | .windowEdge t => Sys2Proof.Machine.execWindowEdge t s
  | .scrubTick t found => Sys2Proof.Machine.execScrubTick t found s
  | .lockAcquire t => Sys2Proof.Machine.execLockAcquire t s
  | .lockRelease t => Sys2Proof.Machine.execLockRelease t s
  | .lockExpiry t => Sys2Proof.Machine.execLockExpiry t s
  | .bootBedrocknext => Sys2Proof.Machine.execBootBedrocknext s
  | .bootClear => Sys2Proof.Machine.execBootClear s
  | .obsSnapnow => Sys2Proof.Machine.execObsSnapnow s
  | .obsSnap => Sys2Proof.Machine.execObsSnap s
  | .obsClear => Sys2Proof.Machine.execObsClear s
  | .obsClearkeep => Sys2Proof.Machine.execObsClearkeep s
  | .trcArm => Sys2Proof.Machine.execTrcArm s
  | .trcFire t => Sys2Proof.Machine.execTrcFire t s
  | .opsQueueRoom t => Sys2Proof.Machine.execOpsQueueRoom t s
  | .tenantDataWrite idx v => Sys2Proof.Machine.execTenantDataWrite idx v s
  | .slotDataWrite v => Sys2Proof.Machine.execSlotDataWrite v s
  | .splitDataWrite v => Sys2Proof.Machine.execSplitDataWrite v s
  | .digDataWrite v => Sys2Proof.Machine.execDigDataWrite v s
  | .registerWrite t off v => Sys2Proof.Machine.execRegisterWrite t off v s
  | .traceStagingDrain => Sys2Proof.Machine.execTraceStagingDrain s
  | .residentBlockVerified t seat => Sys2Proof.Machine.execResidentBlockVerified t seat s
  | .fabricEgressCredit t group units => Sys2Proof.Machine.execFabricEgressCredit t group units s

end Sys2Proof.Machine
end

