-- ==== Sys2Proof/Safety.lean ====
section
/-! DEFINITION. What counts as a safe step and a sound state, and the views of a state that the claims compare: in the terms the
claims use. -/
namespace Sys2Proof

/-- The instant a command carries: when it happens, on the local counter (log entry 6). -/
def Instr.instant : Instr → Option (BitVec 64)
  | .imageReadDone t _ | .mainPowerGood t | .startClearingDone t | .fabricReady t | .startWindowExpiry t
  | .sagWarning t | .sagRecordDone t | .busRecovered t | .fallowEntry t | .fallowPowerOff t | .wake t
  | .wakeholdExpiry t | .linkUp t _ _ | .linkDown t _ _ | .hello t _ _ _ _ _ | .credit t _ _ _ _ _
  | .unknownMessage t _ _ _ _ _ | .portOpen t _ | .portDrop t _ | .openReq t _ | .prompt t _ _ _
  | .promptwaitExpiry t _ | .cancel t _ | .prefillShip t _ | .prefillKv t _ _ _ _ _ | .prefillFail t _ _ _
  | .shipwaitExpiry t _ | .kvData t _ _ _ | .kvMiss t _ _ | .putAck t _ _ | .putDecline t _ | .imageData t _ _ _
  | .dirAdd t _ | .dirDrop t _ | .replayEnd t _ | .fetchwaitExpiry t _ | .splitOpen t _ _ | .splitOpened t _ _ _ _ _ _ _
  | .splitClose t _ _ _ _ | .splitPause t _ _ _ | .splitResume t _ _ _ | .jointOffer t _ _ _ _ _
  | .jointBind t _ _ _ _ _ _ | .jointGo t _ _ _ _ _ _ _ | .query t _ _ _ _ _ _ | .partialMsg t _ _ _ _ _ _
  | .clusterExchangeOut t _ _ _ _ _ _ _ | .lease t _ _ _ _ _ | .peerwaitLeadExpiry t _ | .peerwaitFollowerExpiry t _
  | .leaseIdleExpiry t _ | .objFetch t _ _ _ _ | .objData t _ _ _ | .secwaitExpiry t _ | .tfetch t | .tdone t _ _ _
  | .terr t _ | .tstatus t _ _ | .candList t _ | .refillRoomFreed t _ | .drafts t _ | .epochDone t _ _ _ _
  | .layerDone t _ | .composeBegin t | .idleComposeStart t | .dealHandOff t | .dealComplete t | .launch t
  | .layerRelease t | .stopBoundary t _ | .stopImmediate t | .stopGo t | .blockHashDone t _ | .indexProbeDone t _
  | .modRegisterDone t | .modHotload t | .gateRequest t _ _ _ _ _ | .gateRequestDrop t _ _ _ _ _
  | .gateBurstLimit t _ _ | .gateWindowEdge t _ _ _ | .gateWatchdog t _ _ _ | .gateRevoke t _ _ _ | .windowEdge t
  | .scrubTick t _ | .lockAcquire t | .lockRelease t | .lockExpiry t | .trcFire t | .opsQueueRoom t
  | .registerWrite t _ _ | .residentBlockVerified t _ | .fabricEgressCredit t _ _ => some t
  | .powerOnStart _ | .pkvRegister | .pkvWithdraw | .pkvRetirePop | .modRegister _ _ | .modWithdraw | .modReobj _
  | .modRetirePop | .bootBedrocknext | .bootClear | .obsSnapnow | .obsSnap | .obsClear | .obsClearkeep | .trcArm
  | .tenantDataWrite _ _ | .slotDataWrite _ | .splitDataWrite _ | .digDataWrite _ | .traceStagingDrain => none

namespace Machine

/-- The state in which a command acts: the local counter moved on to its instant. -/
def clocked (c : Instr) (s : State) : State := match c.instant with
  | some t => tick t s
  | none => s

/-- The outcome is a next state. -/
def goesOn (o : Host.Outcome State Fault Refusal) : Prop := ∃ u, o = .next u

/-- The outcome is a misuse of R308, with the rule that names it. -/
def isMisuse (o : Host.Outcome State Fault Refusal) (rule : Nat) : Prop := o = .fault (.misuse rule)

/-- The block's clock, modes and keep-MRAM are sound: the local counter holds a multiple of 16 ns (R264), STATE and MODE are values
that R282 and R283 name, the main domain has power only after a start and neither in fallow nor after a sag warning (R263, R265,
R276), and BOOTS, ERA, RECTIME and SAGS fit their fields (R270, R282, R283). -/
def State.sound (s : State) : Prop :=
  s.counter.toNat % 16 = 0 ∧ s.pwr.state ≤ 5 ∧ s.pwr.mode ≤ 2 ∧
    (s.pwr.mainGood = true → s.pwr.started = true ∧ s.pwr.state ≠ 3 ∧ s.pwr.state ≠ 5) ∧
    s.keep.boots ≤ 15 ∧ s.keep.era < 65536 ∧ s.keep.recTime < 2097152 ∧ s.keep.sags ≤ 255

/-- The indexed stores are in their canonical form: keys strictly rising, no entry equal to what its key reads as when unlisted (log
entry 7). They are the registers, the values in force, the seats and what is held beside them, the tenants, the classes, the gates and
the event counters. -/
def State.tidy (s : State) : Prop :=
  twf (regDefault s.grade) s.regs = true ∧ twf (regDefault s.grade) s.force = true ∧
    twf (fun _ => Seat.empty) s.led.seats = true ∧ twf (fun _ => Side.empty) s.led.sides = true ∧
    twf (fun _ => Tenant.empty) s.tenants = true ∧ twf (fun _ => ClassSt.start) s.classes = true ∧
    twf (fun _ => GateSt.empty) s.gates = true ∧ twf (fun _ => 0) s.obs.cnt = true ∧ twf (fun _ => 0) s.keep.cnt = true

/-- What only starts, power events, deal boundaries and the clock move. -/
structure Core where
  pending  : List Instr
  grade    : Grade
  force    : List (Nat × Word)
  counter  : BitVec 64
  boots    : Nat
  era      : Nat
  forced   : Bool
  recTime  : Nat
  sags     : Nat
  started  : Bool
  state    : Nat
  mode     : Nat
  mainGood : Bool
  applied  : Bool
  deriving DecidableEq, Repr

/-- The core of a state. -/
def State.core (s : State) : Core :=
  ⟨s.pending, s.grade, s.force, s.counter, s.keep.boots, s.keep.era, s.keep.forced, s.keep.recTime, s.keep.sags, s.pwr.started,
    s.pwr.state, s.pwr.mode, s.pwr.mainGood, s.pwr.applied⟩

/-- The commands that can change more of the core than the clock: starts, the configuration, power, sags, fallow and wake, the opening
of port G, the delivery or the arrival of held messages, BOOTS and ERA writes, and the end of a deal boundary. -/
def movesCore : Instr → Bool
  | .powerOnStart _ | .imageReadDone _ _ | .mainPowerGood _ | .startWindowExpiry _ | .sagWarning _ | .sagRecordDone _
  | .fallowEntry _ | .fallowPowerOff _ | .wake _ | .wakeholdExpiry _ | .portOpen _ _ | .openReq _ _ | .prompt _ _ _ _
  | .cancel _ _ | .bootBedrocknext | .bootClear | .tstatus _ _ _ | .registerWrite _ _ _ | .dealComplete _ => true
  | _ => false

/-- The commands that may stop with a misuse of R308: register writes and the data registers, the configuration, REGISTER, every bit of
MOD_CMD while a scan runs, and ARM. -/
def mayStop : Instr → Bool
  | .imageReadDone _ _ | .mainPowerGood _ | .modRegister _ _
  | .modWithdraw | .modHotload _ | .modReobj _ | .trcArm | .tenantDataWrite _ _ | .slotDataWrite _ | .splitDataWrite _
  | .digDataWrite _ | .registerWrite _ _ _ => true
  | _ => false

/-- The commands that may write BOOTS of keep-MRAM (R270, R271, R278, R282). -/
def movesBoots : Instr → Bool
  | .powerOnStart _ | .startWindowExpiry _ | .sagRecordDone _ | .bootBedrocknext | .bootClear => true
  | .registerWrite _ off _ => off == 0x410
  | _ => false

/-- A register of the window whose write only stores: it has no command bit, it is no data register behind a selector, and none of
ADM_CTRL, HER_NEXTEPOCH, SIEVE_LANEMAP, PKV_HKEY0, PKV_HKEY1, MOD_SEL, MOD_CMD, the gates' live registers, PORTp_CTRL and the words of
ports F and M that ignore writes. -/
def plainReg (off : Nat) (r : RegDef) : Bool :=
  regAt off == some r && r.off == off && off % 8 == 0 && r.maskOf [.WO] == 0 && !(decide (0x988 ≤ off) && decide (off ≤ 0x9a0)) &&
    !([0x800, 0x1038, 0x1880, 0x6070, 0x1810, 0x2008, 0x2810, 0x2818, 0x3048, 0x3050].contains off) && !(creditFM.contains off) &&
    !(decide (0x3800 ≤ off) && decide (off < 0x3e00)) && !(decide (0x4000 ≤ off) && decide (off ≤ 0x4600) && off % 0x100 == 0)

/-- The commands at which deferred register values come into force: a deal boundary, and the configuration of a start (R7, R27, R268). -/
def movesForce : Instr → Bool
  | .powerOnStart _ | .imageReadDone _ _ | .mainPowerGood _ | .dealComplete _ => true
  | _ => false

/-- Herald and Dealer state without what the end of a command may move. -/
def Deals.calm (d : Deals) : Deals :=
  { d with
    running := d.running.map fun r => { r with holdNs := 0 }
    hold := none, splits := [], peerWaits := [], followWaits := [], offers := [], leases := [] }

/-- Sequencer state without what the end of a command may move. -/
def Seq.calm (q : Seq) : Seq :=
  { q with
    models := [], queue := [], out := [], down := [], nextTag := 0, chipSet := none, chipLoad := none, chipNext := none, hotWait := []
    retire := [], retireWait := [] }

/-- Port state without what the end of a command may move. -/
def Ports.calm (q : Ports) : Ports := { q with sess := [], queue := [], pool := 0, poolC := 0, gated := [] }

/-- Observation state without what the end of a command may move. -/
def Obs.calm (o : Obs) : Obs :=
  { o with cnt := [], trcState := 0, trcCount := 0, post := 0, staging := [], gap := 0, lost := 0, dropped := 0, trigAt := 0 }

/-- KV steward state without what the end of a command may move. -/
def Kv.calm (k : Kv) : Kv := { Kv.start with serial := k.serial }

/-- What stays as a command's own effect left it when the work that waited goes on (`finish`): all but the seats' and requests'
progress, the messages under way, the registers that report it, and its counts. -/
def State.calm (s : State) : State :=
  { s with
    keep := { s.keep with sag := none, cnt := [] }
    pwr := { s.pwr with replayed := false }
    regs := [], led := { s.led with seats := [], sides := [] }, tenants := [], classes := []
    deals := s.deals.calm, sieve := { s.sieve with back := [] }, kv := s.kv.calm, seq := s.seq.calm, ports := s.ports.calm
    obs := s.obs.calm, egress := [], free := 0 }

/-- A port takes a message of a credit class from a peer: a session, no greeting phase, and credit for it: of its class and
for its `beats` of payload, or greeting credit, which carries no payload (R240, R242, R245). -/
def State.accepts (s : State) (p : Port) (peer cls beats : Nat) : Bool :=
  s.live p peer && s.portOpen p &&
    ((decide (0 < (s.sess p peer).inn.getD cls 0) && s.payOk p peer beats) || (decide (0 < (s.sess p peer).greet) && beats == 0))

/-- The state in which a message that its port takes, and whose buffer frees at once, acts: counted, its credit consumed and returned
(R242, R285). -/
def received (p : Port) (peer cls op : Nat) (word1 : Word) (beats : Nat) (s : State) : State :=
  returnCredit p peer cls 1 beats (arrive p peer cls op word1 beats s).2

/-- A port G message that its port takes: a session, power, nothing held, and credit (R240 to R245, R274). -/
def State.gTakes (s : State) (cls : Nat) : Bool := s.powered .G && !s.holding && s.accepts .G 0 cls 0

/-- The state in which an inbound payload that its port takes, and that its gate lets through, acts (R220, R242). -/
def receivedGated (x : Gated) (op : Nat) (word1 : Word) (s : State) : State :=
  freeGated x (arrive x.port x.peer x.cls op word1 x.beats s).2

/-- An inbound payload that its port takes moves at once: its gate lets it through (R220). -/
def State.gatedTakes (s : State) (x : Gated) (op : Nat) (word1 : Word) : Bool :=
  s.accepts x.port x.peer x.cls x.beats && (arrive x.port x.peer x.cls op word1 x.beats s).2.gateTakes x

/-- What a gate's command leaves as it was: all but its registers, the gates, the counts and the trace, the free values, and the credit of
port C that a lapsed lease kept for a transfer and that returns as its grant ends (R113, R220 to R235). -/
def gateFrame (s u : State) : Prop :=
  u = { s with
    regs := u.regs, gates := u.gates, obs := u.obs, free := u.free, keep := { s.keep with cnt := u.keep.cnt }
    led := { s.led with sides := u.led.sides }, ports := { s.ports with sess := u.ports.sess } }

/-- No path of a gate is granted. -/
def State.noGrant (s : State) : Prop := ∀ g, ((s.gate g).path 0).owner = none ∧ ((s.gate g).path 1).owner = none

/-- A message without payload of a main-domain port that its port takes. -/
def State.takes (s : State) (p : Port) (peer cls : Nat) : Bool := s.mainOn && s.accepts p peer cls 0

end Machine

end Sys2Proof
end

