-- ==== Sys2Proof/WellFormed.lean ====
section
/-! DEFINITION. Which commands a message or an event of the block can spell: the lengths of the lists a command carries. A command that is
not well-formed still has its meaning where R238 gives one: a message with a wrong LENGTH is discarded and counted. -/
namespace Sys2Proof

/-- OPEN: NSTOP stop sequences of 1 to 16 tokens, and LASTMEMBER + 1 members for KIND 2 and none otherwise (R248). -/
def OpenMsg.wf (m : OpenMsg) : Bool :=
  decide (m.kind.toNat ≤ 2) && m.stops.length == m.nstop.toNat && m.stops.all (fun l => decide (1 ≤ l.length ∧ l.length ≤ 16)) &&
    m.members.length == (if m.kind = 2 then m.lastMember.toNat + 1 else 0)

/-- PROMPT: 1 to 4,096 tokens (R249). -/
def PromptMsg.wf (m : PromptMsg) : Bool := decide (1 ≤ m.toks.length ∧ m.toks.length ≤ 4096)

/-- A block carrier: the 64 tokens of its block (R175). -/
def BlockTag.wf (c : BlockTag) : Bool := c.toks.length == 64

/-- A seat image: 32 words (R255). -/
def Image.wf (m : Image) : Bool := m.words.length == 32

/-- SPLIT_OPEN: LASTMEMBER + 1 member nodes (R256). -/
def SplitOpenMsg.wf (m : SplitOpenMsg) : Bool := m.nodes.length == m.lastMember.toNat + 1

/-- CAND_LIST: at most 256 entries (R126). -/
def CandMsg.wf (m : CandMsg) : Bool := decide (m.entries.length ≤ 256)

/-- DRAFTS: at most 8 drafts (R148). -/
def DraftsMsg.wf (m : DraftsMsg) : Bool := decide (m.drafts.length ≤ 8)

/-- The commands that a message, a register write or an event can spell. -/
def Instr.wf (c : Instr) : Bool :=
  match c with
  | .openReq _ m => m.wf
  | .prompt _ _ _ m => m.wf
  | .prefillKv _ _ _ _ _ carrier => carrier.wf
  | .kvData _ _ _ carrier => carrier.wf
  | .imageData _ _ _ image => image.wf
  | .splitOpen _ _ m => m.wf
  | .candList _ m => m.wf
  | .drafts _ m => m.wf
  | .modRegister fields descs => decide (descs.length ≤ fields.objCount.toNat)
  | .credit _ _ _ _ _ entries => decide (entries.length ≤ 8)
  | .gateRequest _ g r path _ _ => Gate.has g r path
  | .gateRequestDrop _ g r path _ _ => Gate.has g r path
  | _ => true
where
  /-- The requesters and paths of a gate (R220, R221). -/
  Gate.has (g : Gate) (r : BitVec 4) (path : BitVec 1) : Bool :=
    match g with
    | .clink => decide (r.toNat < 6) && path == 0
    | .tstream => decide (r.toNat < 3)
    | .nlink => decide (r.toNat < 4) && path == 0

end Sys2Proof
end

