-- ==== Sys2Proof/Certificates/Slice0/Obligations.lean ====
section
/-! DEFINITION. The statements for the provers. A statement that rests on a choice of the model names its log entry. `tick t s` is the
state `s` with the local counter moved on to the instant `t` that the command carries (log entry 6). -/
open Sys2Proof Sys2Proof.Machine

/-! The whole machine. -/

/-- A step takes the command in front of the queue and runs it with the queue's rest (log entry 8). -/
def Obligations.StepRunsFrontCommand : Prop :=
  ∀ (c : Instr) (rest : List Instr) (s : State), s.pending = c :: rest → step s = exec c { s with pending := rest }

/-- With no command waiting the block idles: once it has started the local counter runs on by 16 ns, and nothing else changes (R264; the
model's choice, log entry 8). -/
def Obligations.IdleStepCounts : Prop :=
  ∀ s : State, s.pending = [] →
    (s.pwr.started = true → step s = .next { s with counter := s.counter + 16 }) ∧ (s.pwr.started = false → step s = .next s)

/-- What the spec gives the block at reset: every seat Free with generation 0 (R20, R24), the local counter 0 (R264), STATE 0 (R283), no
session and no open port (R245), every counter 0 (R284), the first epoch 1 (R96), and every register at its value at start (R318); the
grade is the model's choice (log entry 2). -/
def Obligations.ResetValues : Prop :=
  (∀ i, (State.reset.seat i).state = .free ∧ (State.reset.seat i).gen = 0) ∧ State.reset.counter = 0 ∧ State.reset.pwr.state = 0 ∧
    State.reset.pwr.started = false ∧ State.reset.pwr.mainGood = false ∧ State.reset.pwr.applied = false ∧
    (∀ p peer, State.reset.live p peer = false) ∧ (∀ p, p ≠ .M → State.reset.portOpen p = false) ∧ (∀ n, State.reset.cnt n = 0) ∧
    State.reset.deals.nextEpoch = 1 ∧ State.reset.deals.running = none ∧ State.reset.pending = [] ∧
    ∀ off, State.reset.reg off = regDefault .ab132 off ∧ State.reset.rd ⟨off, 63, 0⟩ = (regDefault .ab132 off).toNat

/-- The state after reset is sound, and its indexed stores are in canonical form. -/
def Obligations.ResetSoundAndTidy : Prop := State.reset.sound ∧ State.reset.tidy

/-- Every step keeps the state sound: the local counter a multiple of 16 ns, STATE and MODE values that have a meaning, the main domain
powered only after a start and neither in fallow nor after a sag warning, BOOTS, ERA, RECTIME and SAGS within their fields (R263 to R265,
R270, R276, R282, R283). -/
def Obligations.SoundKept : Prop := ∀ s u : State, s.sound → step s = .next u → u.sound

/-- Every step keeps every indexed store in its canonical form (log entry 7). -/
def Obligations.TidyKept : Prop := ∀ s u : State, s.tidy → step s = .next u → u.tidy

/-- The values in force of deferred fields change at no step but a deal boundary, or the configuration of a start (R7, R27, R268, R318). -/
def Obligations.ForceMovesOnlyAtBoundaryOrStart : Prop :=
  ∀ s u : State, (∀ c rest, s.pending = c :: rest → movesForce c = false) → step s = .next u → u.force = s.force

/-- Every command but those that `movesCore` names leaves the queue, the part, the values in force, BOOTS, ERA, RECTIME, SAGS, the power
and operating modes and APPLIED as they were, and moves the local counter to its own instant and no further. -/
def Obligations.CoreFrameOfOtherCommands : Prop :=
  ∀ (c : Instr) (s u : State), movesCore c = false → exec c s = .next u → u.core = (clocked c s).core

/-- No command changes the part, or the commands that wait behind it (R1). The local counter runs back at no command but a start
(R264). -/
def Obligations.PartQueueAndClock : Prop :=
  (∀ (c : Instr) (s u : State), exec c s = .next u → u.grade = s.grade ∧ u.pending = s.pending) ∧
  (∀ (c : Instr) (s u : State), (∀ b, c ≠ .powerOnStart b) → exec c s = .next u → s.counter.toNat ≤ u.counter.toNat)

/-- BOOTS and the forced Bedrock mode change only at a start, at the end of a start window, at a sag record, and by the two bits of
START_BOOT; ERA only at a start (R270, R271, R278, R282). -/
def Obligations.KeepMramWriters : Prop :=
  (∀ (c : Instr) (s u : State), movesBoots c = false → exec c s = .next u →
    u.keep.boots = s.keep.boots ∧ u.keep.forced = s.keep.forced) ∧
  ∀ (c : Instr) (s u : State), (∀ b, c ≠ .powerOnStart b) → exec c s = .next u → u.keep.era = s.keep.era

/-- No command is refused, and every command but those that `mayStop` names always completes (R308). -/
def Obligations.EveryCommandHasAMeaning : Prop :=
  (∀ (c : Instr) (s : State) (r : Refusal), exec c s ≠ .refused r) ∧
    ∀ (c : Instr) (s : State), mayStop c = false → goesOn (exec c s)

/-! Starts, the configuration, sag, fallow and wake. -/

/-- A start with a readable keep-MRAM (R264, R270, R271, R279, R318): BOOTS rises by one up to 15 and ERA by one; Bedrock mode
when BEDROCKNEXT was written (18) or BOOTS was 3 or more (16); the local counter reads 0; everything else but keep-MRAM takes its
value at start. A start whose keep-MRAM cannot be read enters Bedrock mode with reason 17 (R271); ERA 0xFFFF and the free value of
BOOTS are the model's choice (log entries 1 and 14). -/
def Obligations.Starts : Prop :=
  (∀ s : State, ∃ u, exec (.powerOnStart true) s = .next u ∧
     u.keep.boots = min 15 (s.keep.boots + 1) ∧ u.keep.era = (s.keep.era + 1) % 65536 ∧ u.keep.forced = false ∧
     u.keep.sag = s.keep.sag ∧ u.keep.recTime = s.keep.recTime ∧ u.keep.sags = s.keep.sags ∧
     u.counter = 0 ∧ u.pwr.started = true ∧ u.pwr.state = 0 ∧ u.pwr.mainGood = false ∧ u.pwr.applied = false ∧
     u.pwr.mode = (if s.keep.forced = true ∨ 3 ≤ s.keep.boots then 2 else 0) ∧
     u.pwr.reason = (if s.keep.forced = true then 18 else if 3 ≤ s.keep.boots then 16 else 0) ∧
     (u.pwr.sagFound = true ↔ ∃ r, s.keep.sag = some r ∧ r.state = 1) ∧
     (∀ off, off ≠ 0x410 → u.reg off = regDefault s.grade off) ∧ u.force = [] ∧ u.led = Ledger.start ∧ u.tenants = [] ∧ u.classes = [] ∧
     u.est = Est.start ∧ u.deals = Deals.start ∧ u.sieve = SieveSt.start ∧ u.kv = Kv.start ∧ u.seq = Seq.start ∧ u.gates = [] ∧
     u.ports = Ports.start ∧ u.obs = Obs.start ∧ u.pending = s.pending ∧ u.grade = s.grade ∧ u.egress = s.egress ∧ u.free = s.free) ∧
  (∀ s : State, ∃ u, exec (.powerOnStart false) s = .next u ∧
     u.pwr.mode = 2 ∧ u.pwr.reason = 17 ∧ u.pwr.started = true ∧ u.pwr.state = 0 ∧ u.pwr.mainGood = false ∧ u.pwr.sagFound = false ∧
     u.counter = 0 ∧ u.keep.era = 0xFFFF ∧ u.keep.boots = min 15 (Config.freeNat s.free % 16 + 1) ∧ u.free = s.free + 1 ∧
     u.keep.sag = s.keep.sag ∧ u.led = Ledger.start ∧ u.ports = Ports.start ∧ u.pending = s.pending ∧ u.egress = s.egress)

/-- Outside Bedrock mode, and before main power is good, the image is checked once and waits: MODE is 0 when every check passes and 1
with the REASON of the first that fails, IMGDONE is the time, and nothing else changes (R268, R271, R282). -/
def Obligations.ImageWaitsForMainPower : Prop :=
  ∀ (t : BitVec 64) (bytes : List Byte) (s : State), s.pwr.started = true → s.pwr.imgDone = 0xFFFF → s.pwr.state ≠ 5 →
    s.pwr.mode ≠ 2 → s.pwr.mainGood = false →
    exec (.imageReadDone t bytes) s = .next { tick t s with pwr := { s.pwr with
      imgDone := (tick t s).nowMs, pending := some (readImage bytes), mode := if imageReason bytes = 0 then 0 else 1
      reason := imageReason bytes } }

/-- An image that fails a check, read while main power is good, brings the factory defaults: APPLIED and DEFAULTS are set, every deferred
field is in force, and every tenant has the factory record with its pot full (R268, R269, R273). -/
def Obligations.BadImageBringsDefaults : Prop :=
  ∀ (t : BitVec 64) (bytes : List Byte) (s : State), s.pwr.started = true → s.pwr.imgDone = 0xFFFF → s.pwr.state ≠ 5 →
    s.pwr.mode ≠ 2 → s.pwr.mainGood = true → imageReason bytes ≠ 0 → s.pwr.sagFound = false →
    ∃ u, exec (.imageReadDone t bytes) s = .next u ∧ u.pwr.applied = true ∧ u.pwr.defaults = true ∧ u.pwr.mode = 1 ∧
      u.pwr.reason = imageReason bytes ∧ u.pwr.pending = none ∧ u.force = u.regs ∧ u.deals.nextEpoch = 1 ∧ u.est.cold = true ∧
      u.led = s.led ∧ u.ports = s.ports ∧ u.egress = s.egress ∧
      ∀ i, i < 4096 → (u.tenant i).cap = 1000000000 ∧ (u.tenant i).level = 1000000000 ∧ (u.tenant i).refill = 100000000 ∧
        (u.tenant i).wPrompt = 1 ∧ (u.tenant i).wCached = 1 ∧ (u.tenant i).wGen = 1 ∧ (u.tenant i).classMask = 1 ∧
        (u.tenant i).maxSeats = 0 ∧ (u.tenant i).overdraft = 0 ∧ (u.tenant i).tseed = BitVec.ofNat 32 i

/-- Main power becomes good: the main domain runs. What waits to be applied is applied then (R263, R268): with nothing waiting only the
power, and the greetings on links that are up, change; with factory defaults waiting APPLIED and DEFAULTS are set. -/
def Obligations.MainPowerGood : Prop :=
  ∀ (t : BitVec 64) (s : State), s.pwr.started = true → s.pwr.mainGood = false → s.pwr.state ≠ 3 → s.pwr.state ≠ 5 →
    (s.pwr.pending = none → ∃ u, exec (.mainPowerGood t) s = .next u ∧ u.pwr.mainGood = true ∧
      u.core = { (tick t s).core with mainGood := true } ∧ u.calm = (modPwr (fun p => { p with mainGood := true }) (tick t s)).calm) ∧
    (∀ p, s.pwr.pending = some p → p.reason ≠ 0 → ∃ u, exec (.mainPowerGood t) s = .next u ∧ u.pwr.mainGood = true ∧
      u.pwr.applied = true ∧ u.pwr.defaults = true ∧ u.pwr.pending = none)

/-- Three signals of a start: the clearing is over (R272), the fabric interface is ready (R272), and STARTWIN seconds have passed,
at which BOOTS is written as 0 once (R270); nothing else changes but the clock. BEDROCKNEXT writes BOOTS as 3 and forces Bedrock
mode at the next start; CLEAR writes BOOTS as 0 and takes that back (R271, R282). Nothing else changes. -/
def Obligations.StartSignals : Prop :=
  ((∀ (t : BitVec 64) (s : State), s.mainOn = true → s.pwr.applied = true →
     exec (.startClearingDone t) s = .next { tick t s with pwr := { s.pwr with cleared := true } }) ∧
   (∀ (t : BitVec 64) (s : State), s.pwr.started = true → s.pwr.state ≠ 3 → s.pwr.state ≠ 5 →
     exec (.fabricReady t) s = .next { tick t s with ports := { s.ports with fabricReady := true } }) ∧
   ∀ (t : BitVec 64) (s : State), s.pwr.started = true → s.pwr.startGood = false →
     s.fld F.START_BOOT_STARTWIN * 1000000000 ≤ (tick t s).now →
     exec (.startWindowExpiry t) s =
       .next { tick t s with keep := { s.keep with boots := 0 }, pwr := { s.pwr with startGood := true } }) ∧
  (∀ s : State, exec .bootBedrocknext s = .next { s with keep := { s.keep with boots := 3, forced := true } } ∧
     exec .bootClear s = .next { s with keep := { s.keep with boots := 0, forced := false } })

/-- A sag warning takes STATE to 5, isolates the main domain, ends the write lock, is counted, and begins the record of the seats
and pots as they stand, unless no configuration was applied (R276 to R278, R280). The sag record is complete: its STATE is written
as 1 last, RECTIME and SAGS are counted, and BOOTS is taken back by one (R270, R278); the bus is at 48 V again (R276). Nothing
else changes but the clock. -/
def Obligations.SagWarning : Prop :=
  (∀ (t : BitVec 64) (s : State), s.pwr.started = true → s.pwr.state ≠ 5 →
     ∃ u, exec (.sagWarning t) s = .next u ∧ u.core = { (tick t s).core with state := 5, mainGood := false } ∧
       u.pwr.sagWarn = true ∧ u.pwr.busUp = false ∧ u.pwr.recDone = false ∧ u.pwr.warnAt = (tick t s).now ∧
       (s.pwr.mainGood = true → u.pwr.locked = none) ∧
       u.keep.sag = (if s.pwr.applied = true then some (sagRecord (tick t s)) else s.keep.sag) ∧
       tget 0 u.keep.cnt 0xF3 = satAdd48 (tget 0 s.keep.cnt 0xF3) 1) ∧
  ((∀ (t : BitVec 64) (s : State), s.pwr.state = 5 → s.pwr.applied = true → s.pwr.recDone = false →
     exec (.sagRecordDone t) s = .next { tick t s with
       keep := { s.keep with
         sag := s.keep.sag.map (fun r => { r with state := 1 })
         recTime := sat 2097151 (((tick t s).now - s.pwr.warnAt) / 1000), sags := sat 255 (s.keep.sags + 1), boots := s.keep.boots - 1 }
       pwr := { s.pwr with recDone := true } }) ∧
   ∀ (t : BitVec 64) (s : State), s.pwr.state = 5 →
     exec (.busRecovered t) s = .next { tick t s with pwr := { s.pwr with busUp := true, sagWarn := false } })

/-- Fallow (R274): it is entered from STATE 1 when FALLOW is set and every seat is Free, and STATE reads 2; once the node is stopped, the
staging buffer is empty and nothing is held, the main domain switches off, STATE reads 3, its counters read 0 (R284), the ports
of the main domain close, and the ledger, the tenants and keep-MRAM but the counter of fallows stay (R265, R321). -/
def Obligations.Fallow : Prop :=
  (∀ (t : BitVec 64) (s : State), s.pwr.state = 1 → s.on F.PWR_CTRL_FALLOW = true → s.allFree = true →
    ∃ u, exec (.fallowEntry t) s = .next u ∧ u.core = { (tick t s).core with state := 2 }) ∧
  ∀ (t : BitVec 64) (s : State), s.pwr.state = 2 → s.deals.stopped = true → s.obs.staging = [] → s.pwr.hold = [] →
    ∃ u, exec (.fallowPowerOff t) s = .next u ∧ u.core = { (tick t s).core with state := 3, mainGood := false } ∧
      u.pwr.cleared = false ∧ u.pwr.fallowAt = (tick t s).now ∧ u.obs.cnt = [] ∧ u.led = s.led ∧ u.tenants = s.tenants ∧
      u.classes = s.classes ∧ u.est = s.est ∧ u.deals = s.deals ∧ u.egress = s.egress ∧ u.kv.index = [] ∧ u.kv.heldPrompts = [] ∧
      (∀ n, n ∈ u.ports.open_ → n ∈ s.ports.open_ ∧ (n = 0 ∨ n = 6)) ∧
      tget 0 u.keep.cnt 0xF4 = satAdd48 (tget 0 s.keep.cnt 0xF4) 1

/-- A wake begins from fallow and from no other state (R275): STATE reads 4, the wake is counted, and no budget window edge fell due in
fallow. When WAKEHOLD has passed the hold buffer is delivered: STATE reads 1, LASTWAKE the wake's length, and a node that fallow's entry
stopped gets GO (R321). -/
def Obligations.WakeAndHold : Prop :=
  (∀ (t : BitVec 64) (s : State), s.pwr.state = 3 → ∃ u, exec (.wake t) s = .next u ∧ u.core = { (tick t s).core with state := 4 } ∧
    u.pwr.wakeAt = (tick t s).now ∧ u.led = s.led ∧ u.tenants = s.tenants ∧ u.est.winNum = s.est.winNum ∧ u.regs = s.regs ∧
    u.ports = s.ports ∧ u.egress = s.egress ∧ tget 0 u.keep.cnt 0xF5 = satAdd48 (tget 0 s.keep.cnt 0xF5) 1) ∧
  (∀ (t : BitVec 64) (s : State), s.pwr.state ≠ 3 → exec (.wake t) s = .next (tick t s)) ∧
  (∀ (t : BitVec 64) (s : State), s.pwr.state = 4 → s.pwr.wakeAt + 1000000 * s.fld F.PWR_FALLOW_WAKEHOLD ≤ (tick t s).now →
    exec (.wakeholdExpiry t) s = .next (deliverHold (tick t s))) ∧
  ∀ s x : State, s.pwr.hold = [] → x = { s with pwr := { s.pwr with
      state := 1, hold := [], lastWake := sat 4294967295 ((s.now - s.pwr.wakeAt) / 1000) } } →
    (s.deals.stopped = false → deliverHold s = x) ∧ (s.deals.stopped = true → deliverHold s = finish (goNode x))

/-- A message of port G that arrives while the node enters fallow, is in it, or wakes joins the hold buffer in order; an OPEN in fallow
starts a wake, and any message before the power goes off abandons the entry (R274, R275). -/
def Obligations.HeldArrivals : Prop :=
  ∀ (t : BitVec 64) (s : State), s.powered .G = true → s.holding = true →
    (∀ m, s.accepts .G 0 0 0 = true → ∃ u, exec (.openReq t m) s = .next u ∧ u.pwr.hold = s.pwr.hold ++ [.openReq t m] ∧
      u.pwr.state = 4) ∧
    (∀ peer m, s.accepts .G 0 1 0 = true → ∃ u, exec (.prompt t .G peer m) s = .next u ∧
      u.pwr.hold = s.pwr.hold ++ [.prompt t .G peer m] ∧ u.pwr.state = (if s.pwr.state = 2 then 4 else s.pwr.state)) ∧
    ∀ r, s.accepts .G 0 2 0 = true → ∃ u, exec (.cancel t r) s = .next u ∧ u.pwr.hold = s.pwr.hold ++ [.cancel t r] ∧
      u.pwr.state = (if s.pwr.state = 2 then 4 else s.pwr.state)

/-! Registers. -/

/-- A write of the window that is not aligned to 8 B, that writes ones to reserved fields, those of the counter registers among them
(R299), that writes a "stopped only" field while deals run, or that reuses an epoch is a misuse (R6, R8, R97, R201, R218, R325). -/
def Obligations.BadRegisterWrites : Prop :=
  (∀ (t : BitVec 64) (off : BitVec 16) (v : Word) (s : State), off.toNat % 8 ≠ 0 →
    isMisuse (exec (.registerWrite t off v) s) 6) ∧
  (∀ (t : BitVec 64) (off : BitVec 16) (v : Word) (s : State) (r : RegDef), plainReg off.toNat r = true → v &&& r.reserved ≠ 0 →
    isMisuse (exec (.registerWrite t off v) s) 8) ∧
  (∀ (t : BitVec 64) (off : BitVec 16) (v : Word) (s : State), off.toNat % 8 = 0 → 0x5000 ≤ off.toNat → off.toNat < 0x5800 →
    bitsOf v 63 48 ≠ 0 → isMisuse (exec (.registerWrite t off v) s) 8) ∧
  (∀ (t : BitVec 64) (off : BitVec 16) (v : Word) (s : State) (r : RegDef), plainReg off.toNat r = true → v &&& r.reserved = 0 →
    off.toNat ∈ stoppedOnly → s.mayStopped = false → isMisuse (exec (.registerWrite t off v) s) 201) ∧
  ∀ (t : BitVec 64) (v : Word) (s : State), v.toNat % 65536 = 0 → (s.deals.stopped = false ∨ v.toNat / 65536 ≤ s.deals.runEpoch) →
    isMisuse (exec (.registerWrite t 0x1810 v) s) 97

/-- A write of a register that only stores: the word that its access codes make of it is stored, and the work that waited goes on
(R7, R317, R322). A write of ADM_CTRL that first sets OPEN also keeps the moment in START_TIMES (R282). Offsets of the window that hold no
register read as zero, and writes to them are ignored (R313). -/
def Obligations.RegisterWriteStores : Prop :=
  (∀ (t : BitVec 64) (off : BitVec 16) (v : Word) (s : State) (r : RegDef), plainReg off.toNat r = true → v &&& r.reserved = 0 →
     (off.toNat ∈ stoppedOnly → s.mayStopped = true) → rangeRule off.toNat (s.newWord r false v) = none →
     exec (.registerWrite t off v) s = .next (finish (setReg off.toNat (s.newWord r false v) (tick t s)))) ∧
  (∀ (t : BitVec 64) (v : Word) (s : State) (r : RegDef), regAt 0x800 = some r → v &&& r.reserved = 0 →
     exec (.registerWrite t 0x800 v) s = .next (finish (admitNoted 0x800 (setReg 0x800 (s.newWord r false v) (tick t s)))) ∧
     ∀ x : State, x.on F.ADM_CTRL_OPEN = true → x.pwr.admitOpen = 0xFFFF →
       (admitNoted 0x800 x).pwr.admitOpen = min 0xFFFE (x.now / 1000000)) ∧
  ((∀ off, 0x8000 ≤ off → regAt off = none) ∧ (∀ (s : State) (off : Nat), 0x8000 ≤ off → s.read off = 0) ∧
     ∀ (t : BitVec 64) (off : BitVec 16) (v : Word) (s : State), off.toNat % 8 = 0 → 0x8000 ≤ off.toNat →
       exec (.registerWrite t off v) s = .next (finish (tick t s)))

/-- What a write makes of each bit of a register (R7): a stored bit takes the value written, a W1C bit written as 1 clears, and
every other bit keeps its value. A register read after its write gives the stored word, and every other stored word is as it was;
the values in force stay until a boundary (R7, R316). -/
def Obligations.RegisterFields : Prop :=
  (∀ (s : State) (r : RegDef) (v : Word) (n : Nat), n < 64 →
     (s.newWord r false v).getLsbD n =
       if (r.maskOf [.W1C]).getLsbD n && v.getLsbD n then false
       else if (writable r false).getLsbD n then v.getLsbD n else (s.reg r.off).getLsbD n) ∧
  (∀ (s : State) (off : Nat) (w : Word), (setReg off w s).reg off = w ∧ (∀ k, k ≠ off → (setReg off w s).reg k = s.reg k) ∧ (setReg off w s).force = s.force)

/-- The data registers behind a selector: ADM_TDATA reaches the selected tenant and no other (R40, R66), DEAL_SLOTDATA the shadow bank and
never the active one (R77, R81), HER_SPLITDATA the selected word of the selected entry (R106), DIG_DATA the selected entry (R294). -/
def Obligations.DataRegisterWrites : Prop :=
  (∀ (i : BitVec 2) (v : Word) (s : State), (i ≠ 0 ∨ bitsOf v 47 40 = 0) →
    ∃ u, exec (.tenantDataWrite i v) s = .next u ∧ u = { s with tenants := u.tenants } ∧
      u.tenant (s.fld F.ADM_TSEL_TENANT) = tenantWord i.toNat v (s.tenant (s.fld F.ADM_TSEL_TENANT)) ∧
      ∀ k, k ≠ s.fld F.ADM_TSEL_TENANT → u.tenant k = s.tenant k) ∧
  (∀ (v : Word) (s : State), bitsOf v 13 0 = 0 → (slotOf v).chunkCap ≤ 1024 → (slotOf v).seatCap ≤ 16384 →
    exec (.slotDataWrite v) s = .next { s with deals :=
      if s.deals.active then { s.deals with
        bankA := tput (slotDefault (s.fld F.DEAL_SLOTSEL_SLOT)) s.deals.bankA (s.fld F.DEAL_SLOTSEL_SLOT) (slotOf v) }
      else { s.deals with
        bankB := tput (slotDefault (s.fld F.DEAL_SLOTSEL_SLOT)) s.deals.bankB (s.fld F.DEAL_SLOTSEL_SLOT) (slotOf v) } }) ∧
  (∀ (v : Word) (s : State), s.fld F.HER_SPLITSEL_WORD ≤ 35 → splitReserved (s.fld F.HER_SPLITSEL_WORD) v = 0 →
    exec (.splitDataWrite v) s = .next { s with deals := { s.deals with
      splits := tput SplitEnt.empty s.deals.splits (s.fld F.HER_SPLITSEL_ENTRY)
        (splitWord (s.fld F.HER_SPLITSEL_WORD) v (tget SplitEnt.empty s.deals.splits (s.fld F.HER_SPLITSEL_ENTRY))) } }) ∧
  ∀ (v : Word) (s : State), v.toNat % 2 ^ 31 = 0 →
    exec (.digDataWrite v) s = .next { s with obs := { s.obs with dig := tput 0 s.obs.dig (s.fld F.DIG_SEL_ENTRY) v } }

/-! Ports. -/

/-- A link comes up: HELLO leaves on it once the port's interface has power (R240, R265). -/
def Obligations.LinkUp : Prop :=
  ∀ (t : BitVec 64) (p : Port) (peer : BitVec 6) (s : State), hasSessions p = true → s.pwr.started = true → s.pwr.state ≠ 5 →
    (p = .G ∨ s.pwr.state ≠ 3) → (s.sess p peer.toNat).linkUp = false →
    ∃ u, exec (.linkUp t p peer) s = .next u ∧ (u.sess p peer.toNat).linkUp = true ∧
      (s.powered p = true → (u.sess p peer.toNat).heloOut = true ∧ u.egress.length = s.egress.length + 1) ∧
      (s.powered p = false → u = { tick t s with ports := u.ports }) ∧
      u.core = (tick t s).core ∧ u.led = s.led ∧ u.tenants = s.tenants ∧ u.regs = s.regs ∧
      u.deals = { s.deals with leases := u.deals.leases }

/-- A link goes down, or a port is dropped by software: each live session on it ends with the effects of R241; where there is none, only
the link's report changes, or nothing (R240, R241, R262). -/
def Obligations.LinkDownAndDrop : Prop :=
  (∀ (t : BitVec 64) (p : Port) (peer : BitVec 6) (s : State), hasSessions p = true → s.pwr.started = true → s.pwr.state ≠ 5 →
    (p = .G ∨ s.pwr.state ≠ 3) →
    exec (.linkDown t p peer) s = .next (finish (modSess p peer.toNat (fun e => { Sess.empty with node := e.node, era := e.era })
      (if s.live p peer.toNat then endSession p peer.toNat (tick t s) else tick t s)))) ∧
  ∀ (t : BitVec 64) (p : Port) (s : State), s.powered p = true → (p = .G ∨ s.cmdOn = true) →
    exec (.portDrop t p) s = .next (finish (each (dropSession p) (s.peersOf p) (tick t s)))

/-- HELLO on a link that is up and has no session begins one: SESSIONS counts it, and a session of port C waits for the directory's replay
(R196, R240); on a link that is down it is discarded as STRAY. -/
def Obligations.HelloBeginsSession : Prop :=
  (∀ (t : BitVec 64) (p : Port) (peer : BitVec 6) (node era : BitVec 16) (opened : Bool) (s : State), hasSessions p = true →
    s.powered p = true → (s.sess p peer.toNat).linkUp = true → s.live p peer.toNat = false →
    ∃ u, exec (.hello t p peer node era opened) s = .next u ∧
      u.ports.sessions = tput 0 s.ports.sessions (portNo p) ((tget 0 s.ports.sessions (portNo p) + 1) % 65536) ∧
      (p = .C → u.pwr.replay = true) ∧ u.core = (tick t s).core) ∧
  ∀ (t : BitVec 64) (p : Port) (peer : BitVec 6) (node era : BitVec 16) (opened : Bool) (s : State), hasSessions p = true →
    s.powered p = true → (s.sess p peer.toNat).linkUp = false →
    exec (.hello t p peer node era opened) s =
      .next (finish (setFlag (F.PORT_FLAGS_STRAY (portNo p)) (bump 0xFB (portCnt p 0 1 (tick t s)))))

/-- CREDIT of a live session adds its message and payload credit, under which the rest of a payload that has begun moves, and OPEN ends the
greeting credit; outside a session it is STRAY (R240, R242, R245, R247). Egress credit of an engine group is added, and the messages that wait on port F leave as far as it goes
(R258). -/
def Obligations.CreditAdds : Prop :=
  (∀ (t : BitVec 64) (p : Port) (peer : BitVec 6) (opened : Bool) (beats : BitVec 40) (es : List (BitVec 4 × BitVec 20)) (s : State),
     hasSessions p = true → s.powered p = true → es.length ≤ 8 →
     (s.live p peer.toNat = true → exec (.credit t p peer opened beats es) s = .next (finish (modSess p peer.toNat (fun e =>
       let e := Sess.moveOwed (each addCredit es { e with outPay := e.outPay + beats.toNat })
       if opened then { e with popen := true, ogreet := 0 } else e) (portCnt p 0 1 (tick t s))))) ∧
     (s.live p peer.toNat = false → exec (.credit t p peer opened beats es) s =
       .next (finish (setFlag (F.PORT_FLAGS_STRAY (portNo p)) (bump 0xFB (portCnt p 0 1 (tick t s))))))) ∧
  (∀ (t : BitVec 64) (g : BitVec 6) (n : BitVec 32) (s : State), s.mainOn = true →
     exec (.fabricEgressCredit t g n) s = .next (finish (drainF (modPorts (fun q => { q with
       fCredit := tput 0 q.fCredit g.toNat (tget 0 q.fCredit g.toNat + n.toNat) }) (tick t s)))))

/-- A message with an opcode that its open port does not carry, or with a LENGTH that its format does not allow, is discarded and counted:
no session, seat, tenant or deal changes (R238, R285). -/
def Obligations.UnknownMessagesCounted : Prop :=
  ∀ (t : BitVec 64) (p : Port) (peer : BitVec 6) (bad : Bool) (op : BitVec 8) (w : Word) (s : State), p ≠ .M → s.powered p = true →
    (p = .F ∨ (s.live p peer.toNat = true ∧ s.portOpen p = true ∧ (op ≠ 3 ∨ bad = true))) →
    ∃ u, exec (.unknownMessage t p peer bad op w) s = .next u ∧ u = { tick t s with regs := u.regs, obs := u.obs } ∧
      u.cnt 0xFA = satAdd48 (s.cnt 0xFA) 1

/-- A port leaves its greeting phase when its conditions hold, and stays in it when they do not (R245, R262, R272); when port G opens first
STATE reads 1 (R283). -/
def Obligations.PortOpens : Prop :=
  (∀ (t : BitVec 64) (p : Port) (s : State), (tick t s).mayOpen p = true →
    ∃ u, exec (.portOpen t p) s = .next u ∧ u.portOpen p = true ∧
      u.core = (if p = .G ∧ s.pwr.state = 0 then { (tick t s).core with state := 1 } else (tick t s).core)) ∧
  ∀ (t : BitVec 64) (p : Port) (s : State), (tick t s).mayOpen p = false → exec (.portOpen t p) s = .next (finish (tick t s))

/-! Requests. -/

/-- An OPEN of a single seat whose PROMPTLEN + MAXTOK exceeds 8,388,608, or of a split seat whose MAXTOK exceeds 1,048,576 less the lead's
stretch tokens, breaks R310: from then on the behaviour within the seat is undefined (R309). Its seat is marked, and after its admission a
free value says whether it goes on as its OPEN reads or closes with 0x7F (the model's choice, log entry 52). -/
def Obligations.OpenPastLimits : Prop :=
  (∀ (i : Nat) (m : OpenMsg) (s : State),
    ((m.kind = 0 ∧ 8388608 < m.promptLen.toNat + m.maxTok.toNat) ∨
      (m.kind = 2 ∧ ∃ x, m.members.getLast? = some x ∧ 1048576 - x.len.toNat < m.maxTok.toNat)) →
    ((takeOpen i m s).side i).misuse = true) ∧
  ∀ (i : Nat) (s x : State), (s.side i).misuse = true → (s.seat i).cancel = false → (s.side i).closeAfter = 0 →
    x = { s with free := s.free + 1 } →
    ((s.side i).kind = 0 → afterAdmit i s = if Config.freeNat s.free % 2 = 1 then closeSeat i 0x7F x else beginLookup i x) ∧
    ((s.side i).kind = 2 → afterAdmit i s = if Config.freeNat s.free % 2 = 1 then closeSeat i 0x7F x else openSplit i x)

/-- Every OPEN that port G takes is decided within its command (R21, R51): counted, then refused for want of a Free seat or as a
duplicate, or given a seat; an OPEN of a wrong LENGTH is counted and its credit returns (R238). -/
def Obligations.OpenIsDecided : Prop :=
  ∀ (t : BitVec 64) (m : OpenMsg) (s : State), s.gTakes 0 = true →
    (openBadLen m = true → exec (.openReq t m) s = .next (badLen .G 0 0 (arrive .G 0 0 0x10 m.reqid 0 (tick t s)).2)) ∧
    (openBadLen m = false → exec (.openReq t m) s = .next (drain (openTaken m (arrive .G 0 0 0x10 m.reqid 0 (tick t s)).2))) ∧
    (∀ x : State, (bump 0x00 x).freeSeatIdx = none → openTaken m x = refuseBare m 0x01 (bump 0x00 x)) ∧
    ∀ (x : State) (i : Nat), (bump 0x00 x).freeSeatIdx = some i → ((bump 0x00 x).findReq m.reqid).isSome = true →
      openTaken m x = refuseBare m 0x08 (bump 0x06 (freeSeat i (takeSeat i (bump 0x00 x))))

/-- PROMPT and CANCEL that their ports take reach the ledger (R29, R249); a CANCEL of a request id that no seat holds is counted,
and no seat changes. A prompt that has not come whole within PROMPTWAIT µs closes its seat with 0x7F (R249). -/
def Obligations.PromptAndCancel : Prop :=
  ((∀ (t : BitVec 64) (p : Port) (peer : BitVec 6) (m : PromptMsg) (s : State), m.wf = true →
     ((p = .G ∧ s.holding = false ∧ s.kv.heldPrompts = []) ∨ p = .N) → s.powered p = true →
     s.accepts p peer.toNat (if p = .N then 0 else 1) 0 = true →
     exec (.prompt t p peer m) s = .next (finish (promptTaken p peer.toNat m
       (arrive p peer.toNat (if p = .N then 0 else 1) 0x11 m.reqid 0 (tick t s)).2))) ∧
   (∀ (t : BitVec 64) (r : Word) (s : State), s.gTakes 2 = true →
     exec (.cancel t r) s = .next (sievePump (cancelTaken r (received .G 0 2 0x16 r 0 (tick t s))))) ∧
   ∀ (r : Word) (x : State), (bump 0x04 x).findReq r = none → cancelTaken r x = bump 0x05 (bump 0x04 x)) ∧
  (∀ (t : BitVec 64) (i : BitVec 16) (s : State), s.mainOn = true → takesPrompt (s.seat i.toNat).state = true →
     (s.seat i.toNat).role ≠ 2 → (s.side i.toNat).kind ≠ 1 → (s.side i.toNat).toks.length < (s.seat i.toNat).promptLen.toNat →
     1000 * s.fld F.PORTG_STREAM_PROMPTWAIT ≤ (tick t s).sinceArrival i.toNat →
     exec (.promptwaitExpiry t i) s = .next (finish (closeSeat i.toNat 0x7F (tick t s))))

/-- A budget window edge, at the end of the window that runs (R42, R48, R60, R64): the next edge is set, and LEVEL of every tenant becomes
min(CAP, LEVEL + REFILL), while no other field of a tenant changes. -/
def Obligations.WindowEdge : Prop :=
  (∀ (t : BitVec 64) (s : State), s.mainOn = true → (tick t s).nextEdge ≤ (tick t s).now →
    exec (.windowEdge t) s = .next (finish (windowEdge (tick t s)))) ∧
  ∀ (s : State) (k : Nat), s.tidy → (refillPots s).tenant k = { s.tenant k with
    level := satLevel (min ((s.tenant k).cap.toNat : Int) ((s.tenant k).lvl + (s.tenant k).refill.toNat)) }

/-! Prefix and KV. -/

/-- The prompt pool: a shipment leaves for a seat that is Routed-to-prompt and ready (R59, R193), and one that fails or that waits
longer than SHIPWAIT µs closes its seat with 0x31 or refills a stretch (R194). A block that the prompt pool returns in its turn, whose
payload the C-link gate lets through, with a tag that matches, becomes complete and is owned by its seat; after the last one the shipment is over (R175, R178, R194). -/
def Obligations.PromptPool : Prop :=
  ((∀ (t : BitVec 64) (i : BitVec 16) (s : State) (tag : Nat), s.mainOn = true → (s.seat i.toNat).state = .routed →
     (tick t s).shipReady i.toNat = true → s.live .P 0 = true → (tick t s).shipTag = some tag →
     exec (.prefillShip t i) s = .next (finish (sendShip i.toNat tag (tick t s)))) ∧
   (∀ (t : BitVec 64) (i g : BitVec 16) (code : BitVec 8) (s x : State), s.takes .P 0 1 = true →
     x = received .P 0 1 0x22 (seatWord i.toNat g.toNat 0) 0 (tick t s) →
     (x.current i.toNat g.toNat = true ∧ (x.seat i.toNat).state = .routed →
       exec (.prefillFail t i g code) s = .next (finish (shipFail i.toNat x))) ∧
     (x.current i.toNat g.toNat = false → exec (.prefillFail t i g code) s = .next (bump 0x07 x))) ∧
   ∀ (t : BitVec 64) (i : BitVec 16) (s : State) (h : Shipment), s.mainOn = true → (s.side i.toNat).ship = some h → h.sent = true →
     (s.seat i.toNat).state = .routed → h.lastAt + 1000 * s.fld F.PKV_WAIT_SHIPWAIT ≤ (tick t s).now →
     exec (.shipwaitExpiry t i) s = .next (finish (shipFail i.toNat (tick t s)))) ∧
  (∀ (t : BitVec 64) (i g : BitVec 16) (block : BitVec 18) (tag : BitVec 24) (c : BlockTag) (s x : State) (h : Shipment) (b : Nat)
     (q : Gated), s.mainOn = true →
     q = ⟨.prefillKv t i g block tag c, 0, 4, tag.toNat, .P, 0, 0, beatsOf (tick t s).carrierBytes⟩ →
     (tick t s).gatedTakes q 0x21 (payWord (tick t s).carrierBytes tag.toNat) = true →
     x = receivedGated q 0x21 (payWord (tick t s).carrierBytes tag.toNat) (tick t s) →
     (x.side i.toNat).ship = some h → x.current i.toNat g.toNat = true → (x.seat i.toNat).state = .routed → h.sent = true →
     h.tag = tag.toNat → block.toNat = h.nextBlock → h.nextBlock = 1 → x.blkBase i.toNat = 0 →
     (x.chain i.toNat)[0]? = some b → tagMatches x i.toNat 1 0 (tagBlk c (x.blk b)) = true →
     ∃ y, y = modSide i.toNat (fun d => { d with
         ship := some { h with nextBlock := 2, lastAt := x.now }, toIndex := d.toIndex ++ [1] })
       (modBlk b (fun _ => { tagBlk c (x.blk b) with
         state := .complete, owner := i.toNat, ownerGen := g.toNat, owned := true, stamp := x.stampNow }) x) ∧
       exec (.prefillKv t i g block tag c) s = .next (finish (if 1 = y.shipEnd i.toNat then shipComplete i.toNat y else y)))

/-- The cache pool's answers that port C takes act on what their tag names (R181, R182, R191 to R195): a block or a miss of a fetch, the
answer to an offer, a seat image, a payload as its gate lets it through (R220); a fetch that no answer meets within FETCHWAIT µs is missed, and an offer declined. -/
def Obligations.CachePoolAnswers : Prop :=
  (∀ (t : BitVec 64) (tag : BitVec 24) (h : BitVec 32) (c : BlockTag) (s : State) (q : Gated), s.mainOn = true →
    q = ⟨.kvData t tag h c, 0, (tick t s).fetchUnit tag.toNat, tag.toNat, .C, 0, 0, beatsOf (tick t s).carrierBytes⟩ →
    (tick t s).gatedTakes q 0x31 (payWord (tick t s).carrierBytes tag.toNat) = true →
    exec (.kvData t tag h c) s = .next (finish (fetchData tag.toNat c
      (receivedGated q 0x31 (payWord (tick t s).carrierBytes tag.toNat) (tick t s))))) ∧
  (∀ (t : BitVec 64) (tag : BitVec 24) (h : BitVec 32) (s : State), s.takes .C 0 2 = true →
    exec (.kvMiss t tag h) s = .next (finish (fetchMissed tag.toNat (received .C 0 2 0x32 (handleTag h.toNat tag.toNat) 0 (tick t s)))) ∧
    exec (.putAck t tag h) s =
      .next (finish (putAnswered tag.toNat (some h.toNat) (received .C 0 2 0x34 (handleTag h.toNat tag.toNat) 0 (tick t s)))) ∧
    exec (.putDecline t tag) s =
      .next (finish (putAnswered tag.toNat none (bump 0x89 (received .C 0 2 0x35 (handleTag 0 tag.toNat) 0 (tick t s)))))) ∧
  (∀ (t : BitVec 64) (tag : BitVec 24) (h : BitVec 32) (m : Image) (s : State) (q : Gated) (n : Nat), s.mainOn = true →
    n = 256 + 32 * m.blocks.length + 8 * m.pct.length + 512 → q = ⟨.imageData t tag h m, 0, 1, tag.toNat, .C, 0, 0, beatsOf n⟩ →
    (tick t s).gatedTakes q 0x38 (payWord n tag.toNat) = true →
    exec (.imageData t tag h m) s =
      .next (finish (imageData tag.toNat m (receivedGated q 0x38 (payWord n tag.toNat) (tick t s))))) ∧
  ∀ (t : BitVec 64) (tag : BitVec 24) (s : State), s.mainOn = true →
    tget 0 s.kv.tagAt tag.toNat + 1000 * s.fld F.PKV_WAIT_FETCHWAIT ≤ (tick t s).now →
    (∀ i g j b k, s.tagUse tag.toNat = some (.fetch i g j b k) →
      exec (.fetchwaitExpiry t tag) s = .next (finish (fetchMissed tag.toNat (tick t s)))) ∧
    ∀ b, s.tagUse tag.toNat = some (.putPublish b) →
      exec (.fetchwaitExpiry t tag) s = .next (finish (putAnswered tag.toNat none (tick t s)))

/-- Directory messages that port C takes act in arrival order: each key of a DIR_ADD is inserted unless R184 forbids hits, each of a
DIR_DROP loses POOL, both are counted by entry (R174, R196, R285), one of 0 or of more than 1,364 entries is discarded and counted (R238,
R255), and the replay's end is noted. The lookup of a seat goes on as its hash engine ends
a block, its probe returns and a resident block is verified (R169 to R173, R178, R179); a seat without a lookup is left as it is. -/
def Obligations.DirectoryAndLookup : Prop :=
  (∀ (t : BitVec 64) (s : State), s.takes .C 0 1 = true →
     (∀ (es : List DirEntry) (x : State), 1 ≤ es.length → es.length ≤ 1364 → x = received .C 0 1 0x3A 0 0 (tick t s) →
       (x.noHits = false → exec (.dirAdd t es) s = .next (bumpN 0x90 es.length
         (each (fun e x => insertKey e.key (.dir e.handle.toNat e.depth.toNat) x) es x))) ∧
       (x.noHits = true → exec (.dirAdd t es) s = .next (bumpN 0x90 es.length x))) ∧
     (∀ es : List DirEntry, 1 ≤ es.length → es.length ≤ 1364 → exec (.dirDrop t es) s =
       .next (bumpN 0x91 es.length (each dropDir es (received .C 0 1 0x3B 0 0 (tick t s))))) ∧
     (∀ es : List DirEntry, es.length = 0 ∨ 1364 < es.length →
       exec (.dirAdd t es) s = .next (setFlag (F.PORT_FLAGS_BADLEN 2) (bump 0xFA (received .C 0 1 0x3A 0 0 (tick t s)))) ∧
       exec (.dirDrop t es) s = .next (setFlag (F.PORT_FLAGS_BADLEN 2) (bump 0xFA (received .C 0 1 0x3B 0 0 (tick t s))))) ∧
     ∀ n : Word, ∃ u, exec (.replayEnd t n) s = .next u ∧ u.pwr.replay = false ∧ u.core = (tick t s).core ∧ u.led = s.led ∧
       u.kv = s.kv ∧ u.deals = s.deals ∧ u.tenants = s.tenants) ∧
  ((∀ (t : BitVec 64) (i : BitVec 16) (s : State), s.mainOn = true →
     exec (.blockHashDone t i) s = .next (finish (hashNext i.toNat (tick t s))) ∧
     exec (.indexProbeDone t i) s = .next (finish (probeDone i.toNat (tick t s))) ∧
     exec (.residentBlockVerified t i) s = .next (finish (residentVerified i.toNat (tick t s)))) ∧
   ∀ (i : Nat) (s : State), (s.side i).lookup = none → hashNext i s = s ∧ probeDone i s = s ∧ residentVerified i s = s)

/-- The object table (R187, R189): a version that is registered already is refused with RESULT 3, one without a free slot with 2; WITHDRAW
without a current slot gives 4, and otherwise 1 with the slot no longer current; POP frees the slot at the head of the retire queue. Seats,
tenants, deals, models and ports stay as they are. -/
def Obligations.ObjectCommands : Prop :=
  ∀ s : State, s.cmdOn = true →
    (∃ u, exec .pkvRegister s = .next u ∧ u = { s with regs := u.regs, kv := u.kv, obs := u.obs, keep := u.keep } ∧
      ((s.objVer s.objSel.1 s.objSel.2 (s.fld F.PKV_OBJDATA0_VERSION)).isSome = true → u = setFld F.PKV_OBJSTAT_RESULT 3 s) ∧
      ((s.objVer s.objSel.1 s.objSel.2 (s.fld F.PKV_OBJDATA0_VERSION)) = none →
        (∀ v, v < 4 → (s.obj s.objSel.1 s.objSel.2 v).live = true ∨ (s.obj s.objSel.1 s.objSel.2 v).waitPop = true) →
        u = setFld F.PKV_OBJSTAT_RESULT 2 s)) ∧
    (∃ u, exec .pkvWithdraw s = .next u ∧ u = { s with regs := u.regs, kv := u.kv, obs := u.obs } ∧
      (s.objCur s.objSel.1 s.objSel.2 = none → u = setFld F.PKV_OBJSTAT_RESULT 4 s) ∧
      ∀ y, s.objCur s.objSel.1 s.objSel.2 = some y →
        u = setFld F.PKV_OBJSTAT_RESULT 1 (uncurrentObj s.objSel.1 s.objSel.2 y s)) ∧
    (∃ u, exec .pkvRetirePop s = .next u ∧ u = { s with kv := u.kv } ∧ (s.kv.retire = [] → u = s) ∧
      ∀ k i v r, s.kv.retire = (k, i, v) :: r →
        u.kv.retire = r ++ s.kv.retireWait.take 1 ∧ u.kv.retireWait = s.kv.retireWait.drop 1)

/-! Models and the weight sequencer. -/

/-- Weight traffic (R209 to R215, R257): the streamer's next fetch leaves while the sequencer is enabled and port T holds credit;
TDONE, TERR and OBJ_DATA act on the fetch, the homes or the repair that they name; a second-source fetch that no answer meets
within SECWAIT µs fails, an object comes as its gate lets its payload through (R220); OBJ_FETCH is answered. TSTATUS on an open port T: the
tiers are as it names them and READY follows (R207, R217), and after a wake, tiers up let the hold buffer go (R275). -/
def Obligations.WeightTraffic : Prop :=
  ((∀ (t : BitVec 64) (s : State), s.mainOn = true → s.on F.MOD_CTRL_ENABLE = true → s.live .T 0 = true → s.portOpen .T = true →
     0 < s.outCredit .T 0 0 → exec (.tfetch t) s = .next (holdStep (issueNext (tick t s)))) ∧
   (∀ (t : BitVec 64) (tag : BitVec 24) (st : BitVec 4) (a : Word) (s : State), s.takes .T 0 0 = true →
     exec (.tdone t tag st a) s = .next (holdStep (drain (idleActions
       (tdoneTaken tag.toNat st.toNat (received .T 0 0 0x62 a 0 (tick t s)))))) ∧
     exec (.terr t a) s = .next (holdStep (drain (idleActions (each terrOne ((received .T 0 0 0x63 a 0 (tick t s)).homesAt a.toNat)
       (received .T 0 0 0x63 a 0 (tick t s))))))) ∧
   (∀ (t : BitVec 64) (p : Port) (peer : Nat) (tag : BitVec 24) (st : BitVec 4) (s : State) (m v o d e w : Nat), s.mainOn = true →
     s.tagUse tag.toNat = some (.repair m v o d e w) → s.secPort m v = some (p, peer) →
     (st ≠ 0 → s.accepts p peer 0 0 = true → exec (.objData t p tag st) s = .next (holdStep (drain (idleActions
       (objDataTaken tag.toNat false (received p peer 0 0x3E (payWord 0 tag.toNat) 0 (tick t s))))))) ∧
     (st = 0 → ∀ (q : Gated) (n : Nat), n = 4096 * (s.desc m v o).bytes.toNat →
       q = ⟨.objData t p tag st, if p = .N then 2 else 0, if p = .N then 2 else 5, tag.toNat, p, peer, 0, beatsOf n⟩ →
       (tick t s).gatedTakes q 0x3E (payWord n tag.toNat) = true →
       exec (.objData t p tag st) s = .next (holdStep (drain (idleActions
         (objDataTaken tag.toNat true (receivedGated q 0x3E (payWord n tag.toNat) (tick t s)))))))) ∧
   (∀ (t : BitVec 64) (tag : BitVec 24) (s : State), s.mainOn = true →
     tget 0 s.kv.tagAt tag.toNat + 1000 * s.fld F.MOD_CTRL_SECWAIT ≤ (tick t s).now →
     exec (.secwaitExpiry t tag) s = .next (holdStep (drain (idleActions (objDataTaken tag.toNat false (tick t s)))))) ∧
   ∀ (t : BitVec 64) (peer : BitVec 6) (tag : BitVec 24) (h : Word) (n : BitVec 32) (s : State), s.takes .N peer.toNat 2 = true →
     exec (.objFetch t peer tag h n) s = .next (objFetchTaken peer.toNat tag.toNat h
       (received .N peer.toNat 2 0x3D (pack [(40, 0), (24, tag.toNat)]) 0 (tick t s)))) ∧
  (∀ (t : BitVec 64) (f h : Bool) (s y : State), s.takes .T 0 0 = true →
     y = finish (tiersChange f h (received .T 0 0 0x64 0 0 (tick t s))) →
     exec (.tstatus t f h) s = .next (if y.wakeReady then deliverHold y else y) ∧ y.seq.flashUp = f ∧ y.seq.hbmUp = h ∧
       y.core = (tick t s).core ∧ (s.pwr.state ≠ 4 → exec (.tstatus t f h) s = .next y))

/-- The model table's commands while no scan runs (R207, R208, R213, R215): REGISTER starts the scan and RESULT reads 0xF, and a write of
other fields into a slot in use, or of another descriptor of a LIVE slot, is a misuse (R205, R206, R309);
WITHDRAW of a model without a current slot gives RESULT 6; REOBJ of an object that the version does not have gives 5, of one that
is not poisoned 1; HOTLOAD starts the load or waits for room; POP frees the slot at the head of the retire queue; the scan's end
frees MOD_CMD. MOD_CMD written while RESULT reads 0xF is a misuse (R218). -/
def Obligations.ModelCommands : Prop :=
  ((∀ (f : ModelFields) (ds : List Desc) (s : State) (m v : Nat), s.cmdOn = true → s.modBusy = false → (m, v) = s.modSel →
     (((s.model m v).live = false ∧ (s.model m v).waitPop = false) ∨ f = (s.model m v).f → changesLive s f.objFirst.toNat ds = false →
       ∃ u, exec (.modRegister f ds) s = .next u ∧ u.modBusy = true ∧ u = { s with regs := u.regs, seq := u.seq }) ∧
     ((s.model m v).live = true ∨ (s.model m v).waitPop = true → f ≠ (s.model m v).f → isMisuse (exec (.modRegister f ds) s) 205)) ∧
   (∀ s : State, s.cmdOn = true → s.modBusy = false → ∃ u, exec .modWithdraw s = .next (hotRetry u) ∧ u.led = s.led ∧
     u.tenants = s.tenants ∧ u.deals = s.deals ∧ (s.modelCur s.modSel.1 = none → u = modResult 6 s) ∧
     ∀ y, s.modelCur s.modSel.1 = some y → u = modResult 1 (uncurrentModel s.modSel.1 y s)) ∧
   (∀ (fix : Option Desc) (s : State), s.cmdOn = true → s.modBusy = false →
     exec (.modReobj fix) s = .next (hotRetry (modReobj fix s)) ∧
     ((s.model s.modSel.1 s.modSel.2).live = false → modReobj fix s = modResult 5 s) ∧
     ((s.model s.modSel.1 s.modSel.2).live = true →
       s.fld F.MOD_SEL_OBJIDX < (s.model s.modSel.1 s.modSel.2).f.objCount.toNat →
       (s.desc s.modSel.1 s.modSel.2 (s.fld F.MOD_SEL_OBJIDX)).poisoned = false → modReobj fix s = modResult 1 s)) ∧
   (∀ (t : BitVec 64) (s : State), s.cmdOn = true → s.modBusy = false →
     exec (.modHotload t) s = .next (hotStart s.modSel.1 s.modSel.2 (tick t s))) ∧
   (∀ s : State, s.cmdOn = true → exec .modRetirePop s = .next (modPop s)) ∧
   ∀ (t : BitVec 64) (s : State), s.mainOn = true → ∃ u, exec (.modRegisterDone t) s = .next u ∧ u.modBusy = false) ∧
  (∀ (s : State), s.cmdOn = true → s.modBusy = true →
     (∀ f ds, isMisuse (exec (.modRegister f ds) s) 218) ∧ isMisuse (exec .modWithdraw s) 218 ∧
     (∀ fix, isMisuse (exec (.modReobj fix) s) 218) ∧ ∀ t, isMisuse (exec (.modHotload t) s) 218)

/-! The Sieve. -/

/-- Candidate lists and drafts that port F brings (R126 to R131, R148): a list that R129 calls stray, and DRAFTS that no trick seat of the
running deal waits for, are discarded and counted as stray, but the first DRAFTS of a trick that has ended already; a list that its lane has
no room for stays with port F (R142); a list in its turn is merged into its row, and when its round is complete the row is evaluated; DRAFTS
in their turn let the seat's run go on, with free values where there are more of them than D (the model's choice, log entry 62); lists that were kept back and REFILLs that waited for room go on
as room comes free (R137, R142). -/
def Obligations.CandidatesAndDrafts : Prop :=
  ((∀ (t : BitVec 64) (m : CandMsg) (s : State), s.mainOn = true → s.portOpen .F = true →
      exec (.candList t m) s = .next (candIn m (candBack (bump 0xFE (tick t s))))) ∧
   ∀ (m : CandMsg) (x : State),
    (x.laneFull m = true → candIn m x = { x with sieve := { x.sieve with back := x.sieve.back ++ [m] } }) ∧
    (strayList x m = true → candIn m x = setFlag F.SIEVE_FLAGS_STRAY (bump 0x63 x)) ∧
    ∀ r, x.laneFull m = false → strayList x m = false → x.row m.seat.toNat m.row.toNat = some r →
      candIn m x = if (mergeList r m x).1.want.isEmpty then roundDone (mergeList r m x).1 (mergeList r m x).2 else (mergeList r m x).2) ∧
  (∀ (t : BitVec 64) (lane : BitVec 5) (s x : State), s.mainOn = true → x = candBack (tick t s) →
    exec (.refillRoomFreed t lane) s = .next (serveWaiting (x.waitingRows lane.toNat) x)) ∧
  (∀ (t : BitVec 64) (m : DraftsMsg) (s : State), s.mainOn = true → s.portOpen .F = true → s.run m.seat.toNat = none →
    ((s.sieve.results.any fun r => r.seat == m.seat.toNat && r.gen == m.gen.toNat && r.kind == 2 && !r.drafted) = false →
      exec (.drafts t m) s = .next (setFlag F.SIEVE_FLAGS_STRAY (bump 0x79 (bump 0xFE (tick t s))))) ∧
    ∀ r, s.deals.running = some r → r.deal.epoch = m.epoch.toNat → r.abandoned = false → (s.seat m.seat.toNat).gen = m.gen →
      (s.sieve.results.any fun r => r.seat == m.seat.toNat && r.gen == m.gen.toNat && r.kind == 2 && !r.drafted) = true →
      ∃ u, exec (.drafts t m) s = .next u ∧ u = { bump 0xFE (tick t s) with sieve := u.sieve } ∧
        u.sieve = { s.sieve with results := u.sieve.results }) ∧
  ∀ (t : BitVec 64) (m : DraftsMsg) (s : State) (r : Running) (q : SeatRun), s.mainOn = true → s.portOpen .F = true →
    s.deals.running = some r → r.deal.epoch = m.epoch.toNat → r.abandoned = false → s.run m.seat.toNat = some q →
    q.gen = m.gen.toNat → (s.seat m.seat.toNat).gen = m.gen → q.kind = 2 → q.drafts = none →
    (m.drafts.length ≤ q.dlen → exec (.drafts t m) s = .next (pumpRun q.seat pumpFuel
      (modRun q.seat (fun q => { q with drafts := some (m.drafts.map (·.toNat)) }) (bump 0xFE (tick t s))))) ∧
    (q.dlen < m.drafts.length → ∃ (l : List Nat) (x : State), l.length = q.dlen ∧
      x = { bump 0xFE (tick t s) with free := s.free + q.dlen } ∧
      exec (.drafts t m) s = .next (pumpRun q.seat pumpFuel (modRun q.seat (fun q => { q with drafts := some l }) x)))

/-- Canonical order (R124) on logits that are neither NaN nor -∞: no entry precedes itself, order passes on, and of two entries with
different token ids exactly one precedes the other; -0 equals +0, and +∞ precedes every finite value. -/
def Obligations.CanonicalOrder : Prop :=
  (∀ l k : Nat, precedes l k l k = false) ∧
  (∀ a i b j c k : Nat, isNan a = false → isNan b = false → isNan c = false → precedes a i b j = true → precedes b j c k = true →
    precedes a i c k = true) ∧
  (∀ a i b j : Nat, isNan a = false → isNan b = false → i ≠ j → (precedes a i b j = true ↔ precedes b j a i = false)) ∧
  (∀ i j : Nat, precedes 0x80000000 i 0 j = decide (i < j) ∧ precedes 0 i 0x80000000 j = decide (i < j)) ∧
  ∀ b i j : Nat, isNan b = false → isPinf b = false → precedes 0x7F800000 i b j = true

/-- The order in which a row's entries arrive does not change what the row holds (R128, R130): on a held list in canonical order without a
repeated token id, two valid entries that differ in token, shard or round give the same row either way round. -/
def Obligations.ArrivalOrderDoesNotMatter : Prop :=
  ∀ (thresh : Nat) (r : Row) (a b : Held), r.held.Pairwise (fun x y => precedes x.logit x.tok y.logit y.tok = true ∧ x.tok ≠ y.tok) →
    (∀ x ∈ r.held, isNan x.logit = false ∧ (x.tok = a.tok → (x.shard, x.round) ≠ (a.shard, a.round)) ∧
      (x.tok = b.tok → (x.shard, x.round) ≠ (b.shard, b.round))) →
    (a.tok = b.tok → (a.shard, a.round) ≠ (b.shard, b.round)) →
    (takeEntry thresh b (takeEntry thresh a r).1).1 = (takeEntry thresh a (takeEntry thresh b r).1).1

/-! The Dealer and the Herald. -/

/-- DEAL_SUIT has two words with the fields of R87. -/
def Obligations.DealSuitFormat : Prop :=
  ∀ p : SuitPart, p.id < 4096 → p.slot < 256 → p.members < 65536 → p.head < 2 ^ 32 → p.shared < 2 ^ 24 →
    ∃ w0 w1 : Word, (suitMsg p).words = [w0, w1] ∧ bitsOf w0 63 56 = 0x42 ∧ bitsOf w0 55 44 = 2 ∧ bitsOf w0 43 30 = p.id ∧
      bitsOf w0 29 22 = p.slot ∧ bitsOf w0 21 6 = p.members ∧ bitsOf w0 5 0 = 0 ∧ bitsOf w1 63 32 = p.head ∧
      bitsOf w1 31 8 = p.shared ∧ bitsOf w1 7 0 = 0

/-- DEAL_END has two words with the fields of R89. -/
def Obligations.DealEndFormat : Prop :=
  ∀ d : Deal, d.epoch < 2 ^ 48 → ∃ w0 w1 : Word, (endMsg d).words = [w0, w1] ∧ bitsOf w0 63 56 = 0x44 ∧ bitsOf w0 55 44 = 2 ∧
    bitsOf w0 43 0 = 0 ∧ bitsOf w1 63 16 = d.epoch ∧ bitsOf w1 15 0 = 0

/-- Composition and hand-off (R82, R84, R85, R328): a composition begins when R82 and R84 allow it, or on an idle node when R328's
conditions hold and a model can be chosen, and asks for hot sets where it cannot; a composed deal is handed off. -/
def Obligations.CompositionAndHandOff : Prop :=
  (∀ (t : BitVec 64) (s : State), s.mainOn = true →
    exec (.dealHandOff t) s = .next (finish (handOff (tick t s)))) ∧
  (∀ s : State, s.deals.composing = none → handOff s = s) ∧
  (∀ (t : BitVec 64) (s : State), s.mainOn = true → (tick t s).mayCompose = true → (tick t s).composeTime = true →
    exec (.composeBegin t) s = .next (finish (composeNext (tick t s)))) ∧
  ∀ (t : BitVec 64) (s : State), s.mainOn = true → (tick t s).mayCompose = true → (tick t s).idle = true →
    s.on F.DEAL_CTRL_ENABLE = true → s.tableOk = true →
    ((tick t s).chooseModel.1.isSome = true → exec (.idleComposeStart t) s = .next (finish (compose true (tick t s)))) ∧
    ((tick t s).chooseModel.1 = none → exec (.idleComposeStart t) s = .next (askHots (tick t s).chooseModel.2 (tick t s)))

/-- Launch and layers (R27 step 9, R98, R100, R103, R211): a handed-off deal launches when its feed has left and layer 0 is in, layers are
released as far ahead as R103 allows, and the tree's layer-done value frees ring space. -/
def Obligations.LaunchAndLayers : Prop :=
  (∀ (t : BitVec 64) (s : State) (d : Deal), s.mainOn = true → s.deals.handed = some d → (tick t s).launchDue = true →
    (tick t s).layerIn d.model d.slot d.epoch 0 = true → exec (.launch t) s = .next (finish (launchDeal d (tick t s)))) ∧
  ∀ (t : BitVec 64) (s : State) (r : Running), s.mainOn = true → s.deals.running = some r →
    exec (.layerRelease t) s = .next (finish (releaseLayers r (tick t s))) ∧
    ∀ n : BitVec 12, exec (.layerDone t n) s = .next (finish (layerDone r n.toNat (tick t s)))

/-- Epoch-done and the boundary (R27, R100, R101, R320): epoch-done of the running deal is held while the write lock is set, and taken
otherwise; once it is taken and the Sieve has no row of the deal open, the boundary's steps run and the deferred fields take the values
last written (R7). -/
def Obligations.EpochDoneAndBoundary : Prop :=
  (∀ (t : BitVec 64) (e : BitVec 48) (ab : Bool) (ahead : BitVec 64) (l : List OpsRec) (s : State), s.mainOn = true →
    exec (.epochDone t e ab ahead l) s = .next (finish (epochSignal e.toNat ahead.toNat ab l (tick t s)))) ∧
  (∀ (e ahead : Nat) (l : List OpsRec) (s : State) (r : Running), s.deals.running = some r → r.deal.epoch = e → r.abandoned = false →
    r.epochDone = none → s.pwr.locked.isSome = true → s.pwr.heldDone = none →
    epochSignal e ahead false l s = modPwr (fun p => { p with
      heldDone := some (e, s.now, false, ahead, l), holds := (p.holds + 1) % 4294967296 }) s) ∧
  (∀ (t : BitVec 64) (s : State) (r : Running) (done : Nat), s.mainOn = true → s.deals.running = some r → r.epochDone = some done →
    r.abandoned = false → s.sieve.runs = [] →
    ∃ u, exec (.dealComplete t) s = .next u ∧ u = finish (dealComplete r done (tick t s)) ∧
      u.core = { (tick t s).core with force := u.force }) ∧
  ∀ s : State, (applyDeferred s).force = s.regs

/-- Stops (R115 to R118, R325): STOPEPOCH is written and a boundary stop requested; an immediate stop and GO act while the main domain
takes commands; a stop of a node that is stopped or stopping, and GO before STOPPED reads 1, only count. -/
def Obligations.Stops : Prop :=
  (∀ (t : BitVec 64) (e : BitVec 48) (s : State), s.cmdOn = true →
    exec (.stopBoundary t e) s = .next (finish (boundaryStop e.toNat (setFld F.HER_STOPCTL_STOPEPOCH e.toNat (tick t s)))) ∧
    exec (.stopImmediate t) s = .next (finish (immediateStop (tick t s))) ∧
    exec (.stopGo t) s = .next (finish (goNode (tick t s)))) ∧
  (∀ (e : Nat) (s : State), s.deals.stopped = true ∨ s.deals.stopping = true →
    boundaryStop e s = bump 0x5C s ∧ immediateStop s = bump 0x5C s) ∧
  (∀ s : State, s.deals.stopped = false → goNode s = bump 0x5C s) ∧
  ∀ (e : Nat) (s : State) (r : Running), s.deals.stopped = false → s.deals.stopping = false → s.deals.running = some r →
    (boundaryStop e s).deals.pendStop = some (max e r.deal.epoch)

/-! Split seats. -/

/-- The opening and the running of split seats (R114, R116, R198, R256): messages of port N under ordinary credit. One that names a seat
in a state that is gone is discarded and counted as stale. -/
def Obligations.SplitSeats : Prop :=
  (∀ (t : BitVec 64) (peer : BitVec 6) (m : SplitOpenMsg) (s : State) (n : Nat), s.mainOn = true → n = beatsOf (8 * m.handles.length) →
    s.accepts .N peer.toNat 0 n = true → m.wf = true →
    exec (.splitOpen t peer m) s = .next (finish (splitOpenTaken peer.toNat m (received .N peer.toNat 0 0x70
      (payWord (8 * m.handles.length) m.tag.toNat) n (heard peer.toNat (tick t s)))))) ∧
  (∀ (t : BitVec 64) (peer : BitVec 6) (q : Word) (i g : BitVec 16) (k : BitVec 5) (no : Bool) (h : BitVec 18) (s : State),
    s.takes .N peer.toNat 1 = true → exec (.splitOpened t peer q i g k no h) s = .next (finish (splitOpenedTaken peer.toNat q i.toNat
      g.toNat k.toNat no h.toNat (received .N peer.toNat 1 0x71 q 0 (heard peer.toNat (tick t s)))))) ∧
  ∀ (t : BitVec 64) (peer : BitVec 6) (i g : BitVec 16) (s x : State) (op : Nat), s.takes .N peer.toNat 1 = true →
    x = received .N peer.toNat 1 op 0 0 (heard peer.toNat (tick t s)) →
    (x.splitRef i.toNat g.toNat 2 = true →
      (op = 0x72 → ∀ why, exec (.splitClose t peer i g why) s = .next (finish (closeSeat i.toNat why.toNat x))) ∧
      (op = 0x73 → exec (.splitPause t peer i g) s =
        .next (finish (modSeat i.toNat (fun a => { a with pauseReq := true }) (unbind i.toNat x)))) ∧
      (op = 0x74 → exec (.splitResume t peer i g) s = .next (finish (resumeSeat i.toNat x)))) ∧
    (x.splitRef i.toNat g.toNat 2 = false →
      (op = 0x72 → ∀ why, exec (.splitClose t peer i g why) s = .next (finish (bump 0x07 x))) ∧
      (op = 0x73 → exec (.splitPause t peer i g) s = .next (finish (bump 0x07 x))) ∧
      (op = 0x74 → exec (.splitResume t peer i g) s = .next (finish (bump 0x07 x))))

/-- Joint deals (R106 to R109, R112, R244): JOINT_OFFER and JOINT_GO under a live peer lease that covers their lead epoch, and under ordinary
credit where none does (the model's choice, log entry 56); JOINT_BIND, QUERY and PARTIAL under a live peer lease, the payload of the last two
as the N-link gate lets it through; a leased message outside every lease is discarded and counted. -/
def Obligations.JointDeals : Prop :=
  (∀ (t : BitVec 64) (peer : BitVec 6) (el : BitVec 48) (i g : BitVec 16) (n : BitVec 4) (s : State) (y : Nat → State), s.mainOn = true →
    (s.lentTo peer.toNat el.toNat 0 = true ∧ s.live .N peer.toNat = true ∧ s.portOpen .N = true ∧
        (∀ op, y op = drawLent peer.toNat el.toNat 0 (portCnt .N 0 1 (heard peer.toNat (tick t s)))) ∨
      s.lentTo peer.toNat el.toNat 0 = false ∧ s.accepts .N peer.toNat 1 0 = true ∧
        ∀ op, y op = received .N peer.toNat 1 op (pack [(48, el.toNat), (16, 0)]) 0 (heard peer.toNat (tick t s))) →
    exec (.jointOffer t peer el i g n) s =
      .next (finish (offerTaken peer.toNat el.toNat i.toNat g.toNat n.toNat (y 0x75))) ∧
    ∀ (p : BitVec 24) (l : List (BitVec 20)), exec (.jointGo t peer el i g n p l) s =
      .next (finish (goTaken peer.toNat el.toNat i.toNat g.toNat n.toNat l (y 0x77)))) ∧
  ∀ (t : BitVec 64) (peer : BitVec 6) (el : BitVec 48) (i g : BitVec 16) (s x : State) (ok : Bool) (n : Nat), s.mainOn = true →
    s.live .N peer.toNat = true → s.portOpen .N = true →
    underLease peer.toNat el.toNat n (portCnt .N 0 1 (heard peer.toNat (tick t s))) = (ok, x) →
    (n = 0 → ∀ no ef, exec (.jointBind t peer el i g no ef) s =
      .next (finish (if ok then bindTaken el.toNat i.toNat g.toNat no x else x))) ∧
    (∀ (layer : BitVec 12) (k : BitVec 4) (p : Payload), n = beatsOf p.bytes.toNat →
      (ok = true → x.gateTakes ⟨.query t peer el layer (k, p) i g, 2, 1, p.tag.toNat, .N, peer.toNat, 3, n⟩ = true) →
      exec (.query t peer el layer (k, p) i g) s = .next (finish (if ok
        then queryTaken el.toNat layer.toNat k.toNat i.toNat g.toNat p x else x))) ∧
    ∀ (layer : BitVec 12) (k : BitVec 5) (p : Payload), n = beatsOf p.bytes.toNat →
      (ok = true → x.gateTakes ⟨.partialMsg t peer el layer i g (k, p), 2, 0, p.tag.toNat, .N, peer.toNat, 3, n⟩ = true) →
      exec (.partialMsg t peer el layer i g (k, p)) s = .next (finish (if ok
        then partialTaken el.toNat layer.toNat i.toNat g.toNat k.toNat p x else x))

/-- The exchange's limits (R108, R109, R112, R258, R260): an outbound message goes on to port N, LEASE lends, an idle lease returns after
PEERWAIT µs, and a lead or a follower that has waited PEERWAIT µs closes its seat with 0x40 and its link reads lost (R19). -/
def Obligations.ExchangeAndLeases : Prop :=
  (∀ (t : BitVec 64) (q : Bool) (i g : BitVec 16) (el : BitVec 48) (layer : BitVec 12) (n : BitVec 4) (b : BitVec 40)
      (pay : List Word) (s : State), s.mainOn = true → s.portOpen .F = true → exec (.clusterExchangeOut t q i g el layer n (b, pay)) s =
      .next (finish (exchangeOut q i.toNat g.toNat el.toNat layer.toNat n.toNat b.toNat pay (bump 0xFE (tick t s))))) ∧
  (∀ (t : BitVec 64) (peer : BitVec 6) (el : BitVec 48) (len : BitVec 8) (n : BitVec 16) (b : BitVec 40) (s : State),
    s.takes .N peer.toNat 2 = true → exec (.lease t peer el len n b) s = .next (finish (leaseTaken peer.toNat el.toNat len.toNat n.toNat
      b.toNat (received .N peer.toNat 2 0x7A (pack [(48, el.toNat), (8, len.toNat), (8, 0)]) 0 (heard peer.toNat (tick t s)))))) ∧
  (∀ (t : BitVec 64) (peer : BitVec 6) (s : State), s.mainOn = true →
    ∃ u, exec (.leaseIdleExpiry t peer) s = .next u ∧ u = { tick t s with deals := u.deals, obs := u.obs } ∧
      u.deals = { s.deals with leases := s.deals.leases.filter fun l =>
        !(l.lent && l.peer == peer.toNat && (tick t s).lapsed l) }) ∧
  (∀ (t : BitVec 64) (i : BitVec 16) (s : State) (w : PeerWait), s.mainOn = true →
    (s.deals.peerWaits.find? fun w => w.seat == i.toNat &&
      w.since.any fun b => decide (b + 1000 * s.fld F.HER_PEER_PEERWAIT ≤ (tick t s).now)) = some w →
    ∃ x, exec (.peerwaitLeadExpiry t i) s =
      .next (finish (failSeat i.toNat 0x40 (voidRun i.toNat (modSplit i.toNat (fun e => { e with link := 3 }) x)))) ∧
      x.led = s.led ∧ x.deals = { s.deals with peerWaits := s.deals.peerWaits.filter fun w => w.seat != i.toNat }) ∧
  ∀ (t : BitVec 64) (i : BitVec 16) (s : State) (w : Nat × Nat), s.mainOn = true →
    (s.deals.followWaits.find? fun w => w.1 == i.toNat && decide (w.2 + 1000 * s.fld F.HER_PEER_PEERWAIT ≤ (tick t s).now)) = some w →
    ∃ x, exec (.peerwaitFollowerExpiry t i) s =
      .next (finish (failSeat i.toNat 0x40 (modSplit i.toNat (fun e => { e with link := 3 }) (unbind i.toNat x)))) ∧
      x.led = s.led ∧ x.deals = s.deals

/-! The transfer gates. -/

/-- A contest on an idle path of a gate that is not frozen, whose grant is no waiter's (R224), picks its owner from the requesters that
are requesting with ENABLE set: the highest PRIO, then the fullest counter, then the lowest index (R223). On the T-stream gate the other
path's running grant has debited its counter by then, with a free number of beats (R222; the model's choice, log entry 59). -/
def Obligations.ContestPicksOwner : Prop :=
  ∀ (s : State) (g p prev : Nat) (byPrio : Bool), ((s.gate g).path p).owner = none → s.gateFrozen g = false →
    (byPrio = true ∨ (((s.gate g).path p).waiterDue = false ∧
      (((s.gate g).path p).grants + 1) % max 1 (s.fld (F.GATE_CFG_ROTN g)) ≠ 0)) →
    (∃ r, r ∈ requesters g ∧ s.wants g p r = true) →
    ∃ r x, x = otherBeats g p s ∧ (g ≠ 1 → x = s) ∧
      (((contest g p prev byPrio s).gate g).path p).owner = some r ∧ r ∈ requesters g ∧ s.wants g p r = true ∧
      ∀ k, k ∈ requesters g → s.wants g p k = true → s.prio g k < s.prio g r ∨
        (s.prio g k = s.prio g r ∧ (x.gateCredit g k < x.gateCredit g r ∨ (x.gateCredit g k = x.gateCredit g r ∧ r ≤ k)))

/-- A new request of a requester for a transfer that it may have at its head is raised (R220, R225): seats, tenants, classes, deals, KV, models
and power stay as they are, until what waits for the gate moves. A request that is raised already, or whose lease lapsed and is not drawn
anew (R232), is not raised. -/
def Obligations.GateRequest : Prop :=
  (∀ (t : BitVec 64) (g : Gate) (r : BitVec 4) (p : BitVec 1) (tag : BitVec 24) (n : BitVec 32) (s : State), s.mainOn = true →
    s.mayRequest (gateNo g) p.toNat r.toNat tag.toNat = true → ((s.gate (gateNo g)).req p.toNat r.toNat).requesting = false →
    ((s.gate (gateNo g)).req p.toNat r.toNat).lapsed = false →
    ∃ u, exec (.gateRequest t g r p tag n) s = .next (gateDone u) ∧ ((u.gate (gateNo g)).req p.toNat r.toNat).requesting = true ∧
      ((u.gate (gateNo g)).req p.toNat r.toNat).tag = tag.toNat ∧ gateFrame (tick t s) u) ∧
  ∀ (g p r tag n : Nat) (s : State), (s.mayRequest g p r tag = false ∨ ((s.gate g).req p r).requesting = true ∨
      (((s.gate g).req p r).lapsed = true ∧ ((s.gate g).req p r).tag = tag ∧ s.leasedAgain g tag = false)) →
    gateRequest g p r tag n s = s

/-- The other commands of a gate (R222, R226, R227, R235): a request is dropped, a burst ends, a window edge fills the counters, every grant
is revoked. They change the gate, its flags, the trace and the counts of events, until what waits for the gate moves; a window edge leaves
every counter at SHARE, and one that is not due, as while the gate is frozen, changes nothing (R229). The watchdog of a path whose owner has
moved no beat for 65,536 cycles revokes the grant, fails the transfer and records it (R230, R231); without an owner it and REVOKE change
nothing, and no watchdog fires before then. -/
def Obligations.GateCommands : Prop :=
  (∀ (t : BitVec 64) (g : Gate) (s : State), s.mainOn = true →
     (∀ (r : BitVec 4) (p : BitVec 1) (n : BitVec 32) (lapsed : Bool), ∃ u, exec (.gateRequestDrop t g r p n lapsed) s = .next (gateDone u) ∧
       u = gateDrop (gateNo g) p.toNat r.toNat n.toNat lapsed (tick t s) ∧
       ((u.gate (gateNo g)).req p.toNat r.toNat).requesting = false ∧ gateFrame (tick t s) u) ∧
     (∀ (p : BitVec 1), ∃ u, exec (.gateBurstLimit t g p) s = .next (gateDone u) ∧ u = gateBurst (gateNo g) p.toNat (tick t s) ∧
       gateFrame (tick t s) u) ∧
     (∀ m n : BitVec 32, ∃ u, exec (.gateWindowEdge t g m n) s = .next u ∧ gateFrame (tick t s) u ∧
       (s.gateFrozen (gateNo g) = true → u = tick t s) ∧ ((tick t s).edgeDue (gateNo g) = false → u = tick t s) ∧
       ((tick t s).edgeDue (gateNo g) = true → ∀ r, r ∈ requesters (gateNo g) → 0 < s.share (gateNo g) r →
         u.gateCredit (gateNo g) r = s.share (gateNo g) r)) ∧
     (∀ m n : BitVec 32, s.cmdOn = true →
       exec (.gateRevoke t g m n) s = .next (gateDone (gateRevoke (gateNo g) m.toNat n.toNat (tick t s))))) ∧
  (∀ (g m n : Nat) (s : State), ((s.gate g).path 0).owner = none → ((s.gate g).path 1).owner = none → gateRevoke g m n s = s) ∧
  ((∀ (t : BitVec 64) (g : Gate) (p : BitVec 1) (n : BitVec 32) (s : State), s.mainOn = true →
     exec (.gateWatchdog t g p n) s = .next (gateDone (watchdog (gateNo g) p.toNat n.toNat (tick t s)))) ∧
   (∀ (g p n : Nat) (s : State), ((s.gate g).path p).owner = none → watchdog g p n s = s) ∧
   ∀ (g p n : Nat) (s x : State), x = moveBeats g p n s → ((x.gate g).path p).silent x.now = false → watchdog g p n s = x)

/-! Observation, the write lock and the scrubber. -/

/-- Snapshots (R286): SNAPNOW copies all 256 counters into the snapshot bank and raises SNAPSEQ by one, and every snapshot register then
reads its counter with the new SNAPSEQ; SNAP does the same at step 8 of the next boundary. The beats of grants that run are counted by then,
a free number where no command has said them (the model's choice, log entry 59). -/
def Obligations.Snapshots : Prop :=
  (∀ s : State, s.cmdOn = true → (∀ n, s.cnt n < 2 ^ 48) → ∃ u, exec .obsSnapnow s = .next u ∧ gateFrame s u ∧
    u.obs.snapSeq = (s.obs.snapSeq + 1) % 65536 ∧ (s.noGrant → u = { s with obs := u.obs } ∧ ∀ n, u.cnt n = s.cnt n) ∧
    ∀ n, n < 256 → bitsOf (u.read (0x5800 + 8 * n)) 47 0 = u.cnt n ∧ bitsOf (u.read (0x5800 + 8 * n)) 63 48 = u.obs.snapSeq) ∧
  (∀ s : State, s.cmdOn = true → exec .obsSnap s = .next { s with obs := { s.obs with snapPend := true } }) ∧
  ∀ (e : Nat) (s : State), s.obs.snapPend = true →
    (boundaryWrites e s).obs.snapPend = false ∧ (boundaryWrites e s).obs.snapSeq = (s.obs.snapSeq + 1) % 65536 ∧
    ∀ n, n < 256 → tget 0 (boundaryWrites e s).obs.snap n = (boundaryWrites e s).cnt n

/-- The commands of the counters and of the trace (R284, R292, R293, R300): CLEAR and CLEARKEEP reset their counters, ARM restarts the trace
at slot 0 with the PRE and POST of TRC_CFG and breaks a "must" when they do not fit, FIRE triggers an armed trace, and the staging
buffer's oldest record drains to its slot. -/
def Obligations.CountersAndTrace : Prop :=
  (∀ s : State, s.cmdOn = true → ∃ u, exec .obsClear s = .next u ∧ u.obs.cnt = [] ∧ gateFrame s u ∧
    (s.noGrant → u = { s with obs := { s.obs with cnt := [] } })) ∧
  (∀ s : State, exec .obsClearkeep s = .next { s with keep := { s.keep with cnt := [] } }) ∧
  (∀ s : State, s.cmdOn = true → s.trcCfgOk = true → ∃ u, exec .trcArm s = .next u ∧ u = { s with obs := u.obs } ∧
    u.obs.trcState = 1 ∧ u.obs.trcCount = 0 ∧ u.obs.pre = s.fld F.TRC_CFG_PRE ∧ u.obs.postMax = s.fld F.TRC_CFG_POST ∧
    u.obs.dropped = 0 ∧ u.obs.cnt = s.obs.cnt ∧ u.obs.region = s.obs.region) ∧
  (∀ s : State, s.cmdOn = true → s.trcCfgOk = false → isMisuse (exec .trcArm s) 293) ∧
  (∀ (t : BitVec 64) (s : State), s.cmdOn = true → ∃ u, exec (.trcFire t) s = .next u ∧ u = { tick t s with obs := u.obs } ∧
    (s.obs.trcState ≠ 1 → u = tick t s) ∧ (s.obs.trcState = 1 → u.obs.trcState ≠ 1)) ∧
  (∀ (s : State) (n : Nat) (r : TraceRec) (l : List (Nat × TraceRec)), s.mainOn = true → s.obs.staging = (n, r) :: l →
    exec .traceStagingDrain s = .next { s with obs := { s.obs with staging := l, region := tins s.obs.region n r } }) ∧
  ∀ (t : BitVec 64) (s : State) (e since : Nat) (l : List OpsRec) (r : Running), s.mainOn = true → s.obs.opsHeld = some (e, since, l) →
    s.deals.running = some r → ∃ u, exec (.opsQueueRoom t) s = .next u ∧ u.obs.opsHeld = none ∧ u.obs.opsQueue = [] ∧
      u.core = (tick t s).core ∧ u.led = s.led

/-- The write lock (R320): ACQUIRE sets LOCKED once, RELEASE clears it and takes an epoch-done that it held, and after 65,536
cycles of 2/3 ns it clears by itself with EXPIRED set. The scrubber (R37): it goes on to the next seat word each time; a clean
word changes nothing else, and an uncorrectable one of a seat retires the seat's index for good. Errors that a read of the directory, of the
context table or of the hot cache finds are counted and flagged, and an uncorrectable hot-cache line is dropped (R169, R173). -/
def Obligations.WriteLockAndScrubber : Prop :=
  ((∀ (t : BitVec 64) (s : State), s.cmdOn = true →
     (s.pwr.locked = none → exec (.lockAcquire t) s = .next { tick t s with pwr := { s.pwr with locked := some (tick t s).now } }) ∧
     (s.pwr.locked.isSome = true → exec (.lockAcquire t) s = .next (tick t s))) ∧
   (∀ (t : BitVec 64) (s : State), exec (.lockRelease t) s = .next (finish (releaseLock (tick t s)))) ∧
   (∀ (t : BitVec 64) (s : State) (a : Nat), s.mainOn = true → s.pwr.locked = some a → a + 43691 ≤ (tick t s).now →
     exec (.lockExpiry t) s = .next (finish (setFlag F.STAT_WINDOW_EXPIRED (releaseLock (tick t s))))) ∧
   ∀ s : State, (s.pwr.heldDone = none → releaseLock s = modPwr (fun p => { p with locked := none, heldDone := none }) s) ∧
     ∀ e n ab ahead l, s.pwr.heldDone = some (e, n, ab, ahead, l) →
       releaseLock s = epochDone e ahead ab l (modPwr (fun p => { p with locked := none, heldDone := none }) s)) ∧
  ((∀ (t : BitVec 64) (f : Ecc) (s : State), exec (.scrubTick t f) s = .next (finish (scrubWord f (tick t s)))) ∧
   (∀ s : State, scrubWord .clean s = { s with led := { s.led with scrub := (s.led.scrub + 1) % 2097152 } }) ∧
   (∀ s : State, (s.led.scrub / 32) ∈ (scrubWord .uncorrectable s).led.retired ∧
     (scrubWord .uncorrectable s).led.scrub = (s.led.scrub + 1) % 2097152 ∧
     ∀ k, k ∈ s.led.retired → k ∈ (scrubWord .uncorrectable s).led.retired) ∧
   ∀ (s : State) (i : BitVec 16) (n : BitVec 24),
     scrubWord (.context i true) s = setFlag F.PKV_FLAGS_HOTCE (bump 0x8F s) ∧
     scrubWord (.hotLine n true) s = setFlag F.PKV_FLAGS_HOTCE (bump 0x8F s) ∧
     scrubWord (.directoryCorrected i) s = correctedWord s ∧
     ((s.seat i.toNat).state = .free → scrubWord (.context i false) s = setFlag F.PKV_FLAGS_HOTUE (bump 0x9F s)) ∧
     (∀ e, e ∈ (scrubWord (.hotLine n false) s).kv.hot → n.toNat ∉ e.2) ∧
     (scrubWord (.directory i) s).led.scrub = s.led.scrub)
end

