-- ==== Sys2Proof/Laws/State.lean ====
section
/-! SUPPORT. One lemma per field per update of the state, so that no proof unfolds a record update. -/
namespace Sys2Proof.Machine

variable (s : State)

/-! `setReg` -/

@[simp] theorem setReg_pending (n : Nat) (w : Word) : (setReg n w s).pending = s.pending := rfl
@[simp] theorem setReg_grade (n : Nat) (w : Word) : (setReg n w s).grade = s.grade := rfl
@[simp] theorem setReg_counter (n : Nat) (w : Word) : (setReg n w s).counter = s.counter := rfl
@[simp] theorem setReg_keep (n : Nat) (w : Word) : (setReg n w s).keep = s.keep := rfl
@[simp] theorem setReg_pwr (n : Nat) (w : Word) : (setReg n w s).pwr = s.pwr := rfl
@[simp] theorem setReg_regs (n : Nat) (w : Word) : (setReg n w s).regs = tput (regDefault s.grade n) s.regs n w := rfl
@[simp] theorem setReg_force (n : Nat) (w : Word) : (setReg n w s).force = s.force := rfl
@[simp] theorem setReg_led (n : Nat) (w : Word) : (setReg n w s).led = s.led := rfl
@[simp] theorem setReg_tenants (n : Nat) (w : Word) : (setReg n w s).tenants = s.tenants := rfl
@[simp] theorem setReg_classes (n : Nat) (w : Word) : (setReg n w s).classes = s.classes := rfl
@[simp] theorem setReg_est (n : Nat) (w : Word) : (setReg n w s).est = s.est := rfl
@[simp] theorem setReg_deals (n : Nat) (w : Word) : (setReg n w s).deals = s.deals := rfl
@[simp] theorem setReg_sieve (n : Nat) (w : Word) : (setReg n w s).sieve = s.sieve := rfl
@[simp] theorem setReg_kv (n : Nat) (w : Word) : (setReg n w s).kv = s.kv := rfl
@[simp] theorem setReg_seq (n : Nat) (w : Word) : (setReg n w s).seq = s.seq := rfl
@[simp] theorem setReg_gates (n : Nat) (w : Word) : (setReg n w s).gates = s.gates := rfl
@[simp] theorem setReg_ports (n : Nat) (w : Word) : (setReg n w s).ports = s.ports := rfl
@[simp] theorem setReg_obs (n : Nat) (w : Word) : (setReg n w s).obs = s.obs := rfl
@[simp] theorem setReg_egress (n : Nat) (w : Word) : (setReg n w s).egress = s.egress := rfl
@[simp] theorem setReg_free (n : Nat) (w : Word) : (setReg n w s).free = s.free := rfl

/-! `setFld` -/

@[simp] theorem setFld_pending (f : Fld) (v : Nat) : (setFld f v s).pending = s.pending := rfl
@[simp] theorem setFld_grade (f : Fld) (v : Nat) : (setFld f v s).grade = s.grade := rfl
@[simp] theorem setFld_counter (f : Fld) (v : Nat) : (setFld f v s).counter = s.counter := rfl
@[simp] theorem setFld_keep (f : Fld) (v : Nat) : (setFld f v s).keep = s.keep := rfl
@[simp] theorem setFld_pwr (f : Fld) (v : Nat) : (setFld f v s).pwr = s.pwr := rfl
@[simp] theorem setFld_force (f : Fld) (v : Nat) : (setFld f v s).force = s.force := rfl
@[simp] theorem setFld_led (f : Fld) (v : Nat) : (setFld f v s).led = s.led := rfl
@[simp] theorem setFld_tenants (f : Fld) (v : Nat) : (setFld f v s).tenants = s.tenants := rfl
@[simp] theorem setFld_classes (f : Fld) (v : Nat) : (setFld f v s).classes = s.classes := rfl
@[simp] theorem setFld_est (f : Fld) (v : Nat) : (setFld f v s).est = s.est := rfl
@[simp] theorem setFld_deals (f : Fld) (v : Nat) : (setFld f v s).deals = s.deals := rfl
@[simp] theorem setFld_sieve (f : Fld) (v : Nat) : (setFld f v s).sieve = s.sieve := rfl
@[simp] theorem setFld_kv (f : Fld) (v : Nat) : (setFld f v s).kv = s.kv := rfl
@[simp] theorem setFld_seq (f : Fld) (v : Nat) : (setFld f v s).seq = s.seq := rfl
@[simp] theorem setFld_gates (f : Fld) (v : Nat) : (setFld f v s).gates = s.gates := rfl
@[simp] theorem setFld_ports (f : Fld) (v : Nat) : (setFld f v s).ports = s.ports := rfl
@[simp] theorem setFld_obs (f : Fld) (v : Nat) : (setFld f v s).obs = s.obs := rfl
@[simp] theorem setFld_egress (f : Fld) (v : Nat) : (setFld f v s).egress = s.egress := rfl
@[simp] theorem setFld_free (f : Fld) (v : Nat) : (setFld f v s).free = s.free := rfl

/-! `setFlag` -/

@[simp] theorem setFlag_pending (f : Fld) : (setFlag f s).pending = s.pending := rfl
@[simp] theorem setFlag_grade (f : Fld) : (setFlag f s).grade = s.grade := rfl
@[simp] theorem setFlag_counter (f : Fld) : (setFlag f s).counter = s.counter := rfl
@[simp] theorem setFlag_keep (f : Fld) : (setFlag f s).keep = s.keep := rfl
@[simp] theorem setFlag_pwr (f : Fld) : (setFlag f s).pwr = s.pwr := rfl
@[simp] theorem setFlag_force (f : Fld) : (setFlag f s).force = s.force := rfl
@[simp] theorem setFlag_led (f : Fld) : (setFlag f s).led = s.led := rfl
@[simp] theorem setFlag_tenants (f : Fld) : (setFlag f s).tenants = s.tenants := rfl
@[simp] theorem setFlag_classes (f : Fld) : (setFlag f s).classes = s.classes := rfl
@[simp] theorem setFlag_est (f : Fld) : (setFlag f s).est = s.est := rfl
@[simp] theorem setFlag_deals (f : Fld) : (setFlag f s).deals = s.deals := rfl
@[simp] theorem setFlag_sieve (f : Fld) : (setFlag f s).sieve = s.sieve := rfl
@[simp] theorem setFlag_kv (f : Fld) : (setFlag f s).kv = s.kv := rfl
@[simp] theorem setFlag_seq (f : Fld) : (setFlag f s).seq = s.seq := rfl
@[simp] theorem setFlag_gates (f : Fld) : (setFlag f s).gates = s.gates := rfl
@[simp] theorem setFlag_ports (f : Fld) : (setFlag f s).ports = s.ports := rfl
@[simp] theorem setFlag_obs (f : Fld) : (setFlag f s).obs = s.obs := rfl
@[simp] theorem setFlag_egress (f : Fld) : (setFlag f s).egress = s.egress := rfl
@[simp] theorem setFlag_free (f : Fld) : (setFlag f s).free = s.free := rfl

/-! `setSeat` -/

@[simp] theorem setSeat_pending (i : Nat) (a : Seat) : (setSeat i a s).pending = s.pending := rfl
@[simp] theorem setSeat_grade (i : Nat) (a : Seat) : (setSeat i a s).grade = s.grade := rfl
@[simp] theorem setSeat_counter (i : Nat) (a : Seat) : (setSeat i a s).counter = s.counter := rfl
@[simp] theorem setSeat_keep (i : Nat) (a : Seat) : (setSeat i a s).keep = s.keep := rfl
@[simp] theorem setSeat_pwr (i : Nat) (a : Seat) : (setSeat i a s).pwr = s.pwr := rfl
@[simp] theorem setSeat_regs (i : Nat) (a : Seat) : (setSeat i a s).regs = s.regs := rfl
@[simp] theorem setSeat_force (i : Nat) (a : Seat) : (setSeat i a s).force = s.force := rfl
@[simp] theorem setSeat_led (i : Nat) (a : Seat) : (setSeat i a s).led = { s.led with seats := tput Seat.empty s.led.seats i a } := rfl
@[simp] theorem setSeat_tenants (i : Nat) (a : Seat) : (setSeat i a s).tenants = s.tenants := rfl
@[simp] theorem setSeat_classes (i : Nat) (a : Seat) : (setSeat i a s).classes = s.classes := rfl
@[simp] theorem setSeat_est (i : Nat) (a : Seat) : (setSeat i a s).est = s.est := rfl
@[simp] theorem setSeat_deals (i : Nat) (a : Seat) : (setSeat i a s).deals = s.deals := rfl
@[simp] theorem setSeat_sieve (i : Nat) (a : Seat) : (setSeat i a s).sieve = s.sieve := rfl
@[simp] theorem setSeat_kv (i : Nat) (a : Seat) : (setSeat i a s).kv = s.kv := rfl
@[simp] theorem setSeat_seq (i : Nat) (a : Seat) : (setSeat i a s).seq = s.seq := rfl
@[simp] theorem setSeat_gates (i : Nat) (a : Seat) : (setSeat i a s).gates = s.gates := rfl
@[simp] theorem setSeat_ports (i : Nat) (a : Seat) : (setSeat i a s).ports = s.ports := rfl
@[simp] theorem setSeat_obs (i : Nat) (a : Seat) : (setSeat i a s).obs = s.obs := rfl
@[simp] theorem setSeat_egress (i : Nat) (a : Seat) : (setSeat i a s).egress = s.egress := rfl
@[simp] theorem setSeat_free (i : Nat) (a : Seat) : (setSeat i a s).free = s.free := rfl

/-! `modSeat` -/

@[simp] theorem modSeat_pending (i : Nat) (f : Seat → Seat) : (modSeat i f s).pending = s.pending := rfl
@[simp] theorem modSeat_grade (i : Nat) (f : Seat → Seat) : (modSeat i f s).grade = s.grade := rfl
@[simp] theorem modSeat_counter (i : Nat) (f : Seat → Seat) : (modSeat i f s).counter = s.counter := rfl
@[simp] theorem modSeat_keep (i : Nat) (f : Seat → Seat) : (modSeat i f s).keep = s.keep := rfl
@[simp] theorem modSeat_pwr (i : Nat) (f : Seat → Seat) : (modSeat i f s).pwr = s.pwr := rfl
@[simp] theorem modSeat_regs (i : Nat) (f : Seat → Seat) : (modSeat i f s).regs = s.regs := rfl
@[simp] theorem modSeat_force (i : Nat) (f : Seat → Seat) : (modSeat i f s).force = s.force := rfl
@[simp] theorem modSeat_tenants (i : Nat) (f : Seat → Seat) : (modSeat i f s).tenants = s.tenants := rfl
@[simp] theorem modSeat_classes (i : Nat) (f : Seat → Seat) : (modSeat i f s).classes = s.classes := rfl
@[simp] theorem modSeat_est (i : Nat) (f : Seat → Seat) : (modSeat i f s).est = s.est := rfl
@[simp] theorem modSeat_deals (i : Nat) (f : Seat → Seat) : (modSeat i f s).deals = s.deals := rfl
@[simp] theorem modSeat_sieve (i : Nat) (f : Seat → Seat) : (modSeat i f s).sieve = s.sieve := rfl
@[simp] theorem modSeat_kv (i : Nat) (f : Seat → Seat) : (modSeat i f s).kv = s.kv := rfl
@[simp] theorem modSeat_seq (i : Nat) (f : Seat → Seat) : (modSeat i f s).seq = s.seq := rfl
@[simp] theorem modSeat_gates (i : Nat) (f : Seat → Seat) : (modSeat i f s).gates = s.gates := rfl
@[simp] theorem modSeat_ports (i : Nat) (f : Seat → Seat) : (modSeat i f s).ports = s.ports := rfl
@[simp] theorem modSeat_obs (i : Nat) (f : Seat → Seat) : (modSeat i f s).obs = s.obs := rfl
@[simp] theorem modSeat_egress (i : Nat) (f : Seat → Seat) : (modSeat i f s).egress = s.egress := rfl
@[simp] theorem modSeat_free (i : Nat) (f : Seat → Seat) : (modSeat i f s).free = s.free := rfl

/-! `setSide` -/

@[simp] theorem setSide_pending (i : Nat) (a : Side) : (setSide i a s).pending = s.pending := rfl
@[simp] theorem setSide_grade (i : Nat) (a : Side) : (setSide i a s).grade = s.grade := rfl
@[simp] theorem setSide_counter (i : Nat) (a : Side) : (setSide i a s).counter = s.counter := rfl
@[simp] theorem setSide_keep (i : Nat) (a : Side) : (setSide i a s).keep = s.keep := rfl
@[simp] theorem setSide_pwr (i : Nat) (a : Side) : (setSide i a s).pwr = s.pwr := rfl
@[simp] theorem setSide_regs (i : Nat) (a : Side) : (setSide i a s).regs = s.regs := rfl
@[simp] theorem setSide_force (i : Nat) (a : Side) : (setSide i a s).force = s.force := rfl
@[simp] theorem setSide_led (i : Nat) (a : Side) : (setSide i a s).led = { s.led with sides := tput Side.empty s.led.sides i a } := rfl
@[simp] theorem setSide_tenants (i : Nat) (a : Side) : (setSide i a s).tenants = s.tenants := rfl
@[simp] theorem setSide_classes (i : Nat) (a : Side) : (setSide i a s).classes = s.classes := rfl
@[simp] theorem setSide_est (i : Nat) (a : Side) : (setSide i a s).est = s.est := rfl
@[simp] theorem setSide_deals (i : Nat) (a : Side) : (setSide i a s).deals = s.deals := rfl
@[simp] theorem setSide_sieve (i : Nat) (a : Side) : (setSide i a s).sieve = s.sieve := rfl
@[simp] theorem setSide_kv (i : Nat) (a : Side) : (setSide i a s).kv = s.kv := rfl
@[simp] theorem setSide_seq (i : Nat) (a : Side) : (setSide i a s).seq = s.seq := rfl
@[simp] theorem setSide_gates (i : Nat) (a : Side) : (setSide i a s).gates = s.gates := rfl
@[simp] theorem setSide_ports (i : Nat) (a : Side) : (setSide i a s).ports = s.ports := rfl
@[simp] theorem setSide_obs (i : Nat) (a : Side) : (setSide i a s).obs = s.obs := rfl
@[simp] theorem setSide_egress (i : Nat) (a : Side) : (setSide i a s).egress = s.egress := rfl
@[simp] theorem setSide_free (i : Nat) (a : Side) : (setSide i a s).free = s.free := rfl

/-! `modSide` -/

@[simp] theorem modSide_pending (i : Nat) (f : Side → Side) : (modSide i f s).pending = s.pending := rfl
@[simp] theorem modSide_grade (i : Nat) (f : Side → Side) : (modSide i f s).grade = s.grade := rfl
@[simp] theorem modSide_counter (i : Nat) (f : Side → Side) : (modSide i f s).counter = s.counter := rfl
@[simp] theorem modSide_keep (i : Nat) (f : Side → Side) : (modSide i f s).keep = s.keep := rfl
@[simp] theorem modSide_pwr (i : Nat) (f : Side → Side) : (modSide i f s).pwr = s.pwr := rfl
@[simp] theorem modSide_regs (i : Nat) (f : Side → Side) : (modSide i f s).regs = s.regs := rfl
@[simp] theorem modSide_force (i : Nat) (f : Side → Side) : (modSide i f s).force = s.force := rfl
@[simp] theorem modSide_tenants (i : Nat) (f : Side → Side) : (modSide i f s).tenants = s.tenants := rfl
@[simp] theorem modSide_classes (i : Nat) (f : Side → Side) : (modSide i f s).classes = s.classes := rfl
@[simp] theorem modSide_est (i : Nat) (f : Side → Side) : (modSide i f s).est = s.est := rfl
@[simp] theorem modSide_deals (i : Nat) (f : Side → Side) : (modSide i f s).deals = s.deals := rfl
@[simp] theorem modSide_sieve (i : Nat) (f : Side → Side) : (modSide i f s).sieve = s.sieve := rfl
@[simp] theorem modSide_kv (i : Nat) (f : Side → Side) : (modSide i f s).kv = s.kv := rfl
@[simp] theorem modSide_seq (i : Nat) (f : Side → Side) : (modSide i f s).seq = s.seq := rfl
@[simp] theorem modSide_gates (i : Nat) (f : Side → Side) : (modSide i f s).gates = s.gates := rfl
@[simp] theorem modSide_ports (i : Nat) (f : Side → Side) : (modSide i f s).ports = s.ports := rfl
@[simp] theorem modSide_obs (i : Nat) (f : Side → Side) : (modSide i f s).obs = s.obs := rfl
@[simp] theorem modSide_egress (i : Nat) (f : Side → Side) : (modSide i f s).egress = s.egress := rfl
@[simp] theorem modSide_free (i : Nat) (f : Side → Side) : (modSide i f s).free = s.free := rfl

/-! `modTenant` -/

@[simp] theorem modTenant_pending (n : Nat) (f : Tenant → Tenant) : (modTenant n f s).pending = s.pending := rfl
@[simp] theorem modTenant_grade (n : Nat) (f : Tenant → Tenant) : (modTenant n f s).grade = s.grade := rfl
@[simp] theorem modTenant_counter (n : Nat) (f : Tenant → Tenant) : (modTenant n f s).counter = s.counter := rfl
@[simp] theorem modTenant_keep (n : Nat) (f : Tenant → Tenant) : (modTenant n f s).keep = s.keep := rfl
@[simp] theorem modTenant_pwr (n : Nat) (f : Tenant → Tenant) : (modTenant n f s).pwr = s.pwr := rfl
@[simp] theorem modTenant_regs (n : Nat) (f : Tenant → Tenant) : (modTenant n f s).regs = s.regs := rfl
@[simp] theorem modTenant_force (n : Nat) (f : Tenant → Tenant) : (modTenant n f s).force = s.force := rfl
@[simp] theorem modTenant_led (n : Nat) (f : Tenant → Tenant) : (modTenant n f s).led = s.led := rfl
@[simp] theorem modTenant_classes (n : Nat) (f : Tenant → Tenant) : (modTenant n f s).classes = s.classes := rfl
@[simp] theorem modTenant_est (n : Nat) (f : Tenant → Tenant) : (modTenant n f s).est = s.est := rfl
@[simp] theorem modTenant_deals (n : Nat) (f : Tenant → Tenant) : (modTenant n f s).deals = s.deals := rfl
@[simp] theorem modTenant_sieve (n : Nat) (f : Tenant → Tenant) : (modTenant n f s).sieve = s.sieve := rfl
@[simp] theorem modTenant_kv (n : Nat) (f : Tenant → Tenant) : (modTenant n f s).kv = s.kv := rfl
@[simp] theorem modTenant_seq (n : Nat) (f : Tenant → Tenant) : (modTenant n f s).seq = s.seq := rfl
@[simp] theorem modTenant_gates (n : Nat) (f : Tenant → Tenant) : (modTenant n f s).gates = s.gates := rfl
@[simp] theorem modTenant_ports (n : Nat) (f : Tenant → Tenant) : (modTenant n f s).ports = s.ports := rfl
@[simp] theorem modTenant_obs (n : Nat) (f : Tenant → Tenant) : (modTenant n f s).obs = s.obs := rfl
@[simp] theorem modTenant_egress (n : Nat) (f : Tenant → Tenant) : (modTenant n f s).egress = s.egress := rfl
@[simp] theorem modTenant_free (n : Nat) (f : Tenant → Tenant) : (modTenant n f s).free = s.free := rfl

/-! `modCls` -/

@[simp] theorem modCls_pending (n : Nat) (f : ClassSt → ClassSt) : (modCls n f s).pending = s.pending := rfl
@[simp] theorem modCls_grade (n : Nat) (f : ClassSt → ClassSt) : (modCls n f s).grade = s.grade := rfl
@[simp] theorem modCls_counter (n : Nat) (f : ClassSt → ClassSt) : (modCls n f s).counter = s.counter := rfl
@[simp] theorem modCls_keep (n : Nat) (f : ClassSt → ClassSt) : (modCls n f s).keep = s.keep := rfl
@[simp] theorem modCls_pwr (n : Nat) (f : ClassSt → ClassSt) : (modCls n f s).pwr = s.pwr := rfl
@[simp] theorem modCls_regs (n : Nat) (f : ClassSt → ClassSt) : (modCls n f s).regs = s.regs := rfl
@[simp] theorem modCls_force (n : Nat) (f : ClassSt → ClassSt) : (modCls n f s).force = s.force := rfl
@[simp] theorem modCls_led (n : Nat) (f : ClassSt → ClassSt) : (modCls n f s).led = s.led := rfl
@[simp] theorem modCls_tenants (n : Nat) (f : ClassSt → ClassSt) : (modCls n f s).tenants = s.tenants := rfl
@[simp] theorem modCls_est (n : Nat) (f : ClassSt → ClassSt) : (modCls n f s).est = s.est := rfl
@[simp] theorem modCls_deals (n : Nat) (f : ClassSt → ClassSt) : (modCls n f s).deals = s.deals := rfl
@[simp] theorem modCls_sieve (n : Nat) (f : ClassSt → ClassSt) : (modCls n f s).sieve = s.sieve := rfl
@[simp] theorem modCls_kv (n : Nat) (f : ClassSt → ClassSt) : (modCls n f s).kv = s.kv := rfl
@[simp] theorem modCls_seq (n : Nat) (f : ClassSt → ClassSt) : (modCls n f s).seq = s.seq := rfl
@[simp] theorem modCls_gates (n : Nat) (f : ClassSt → ClassSt) : (modCls n f s).gates = s.gates := rfl
@[simp] theorem modCls_ports (n : Nat) (f : ClassSt → ClassSt) : (modCls n f s).ports = s.ports := rfl
@[simp] theorem modCls_obs (n : Nat) (f : ClassSt → ClassSt) : (modCls n f s).obs = s.obs := rfl
@[simp] theorem modCls_egress (n : Nat) (f : ClassSt → ClassSt) : (modCls n f s).egress = s.egress := rfl
@[simp] theorem modCls_free (n : Nat) (f : ClassSt → ClassSt) : (modCls n f s).free = s.free := rfl

/-! `modLed` -/

@[simp] theorem modLed_pending (f : Ledger → Ledger) : (modLed f s).pending = s.pending := rfl
@[simp] theorem modLed_grade (f : Ledger → Ledger) : (modLed f s).grade = s.grade := rfl
@[simp] theorem modLed_counter (f : Ledger → Ledger) : (modLed f s).counter = s.counter := rfl
@[simp] theorem modLed_keep (f : Ledger → Ledger) : (modLed f s).keep = s.keep := rfl
@[simp] theorem modLed_pwr (f : Ledger → Ledger) : (modLed f s).pwr = s.pwr := rfl
@[simp] theorem modLed_regs (f : Ledger → Ledger) : (modLed f s).regs = s.regs := rfl
@[simp] theorem modLed_force (f : Ledger → Ledger) : (modLed f s).force = s.force := rfl
@[simp] theorem modLed_led (f : Ledger → Ledger) : (modLed f s).led = f s.led := rfl
@[simp] theorem modLed_tenants (f : Ledger → Ledger) : (modLed f s).tenants = s.tenants := rfl
@[simp] theorem modLed_classes (f : Ledger → Ledger) : (modLed f s).classes = s.classes := rfl
@[simp] theorem modLed_est (f : Ledger → Ledger) : (modLed f s).est = s.est := rfl
@[simp] theorem modLed_deals (f : Ledger → Ledger) : (modLed f s).deals = s.deals := rfl
@[simp] theorem modLed_sieve (f : Ledger → Ledger) : (modLed f s).sieve = s.sieve := rfl
@[simp] theorem modLed_kv (f : Ledger → Ledger) : (modLed f s).kv = s.kv := rfl
@[simp] theorem modLed_seq (f : Ledger → Ledger) : (modLed f s).seq = s.seq := rfl
@[simp] theorem modLed_gates (f : Ledger → Ledger) : (modLed f s).gates = s.gates := rfl
@[simp] theorem modLed_ports (f : Ledger → Ledger) : (modLed f s).ports = s.ports := rfl
@[simp] theorem modLed_obs (f : Ledger → Ledger) : (modLed f s).obs = s.obs := rfl
@[simp] theorem modLed_egress (f : Ledger → Ledger) : (modLed f s).egress = s.egress := rfl
@[simp] theorem modLed_free (f : Ledger → Ledger) : (modLed f s).free = s.free := rfl

/-! `modDeals` -/

@[simp] theorem modDeals_pending (f : Deals → Deals) : (modDeals f s).pending = s.pending := rfl
@[simp] theorem modDeals_grade (f : Deals → Deals) : (modDeals f s).grade = s.grade := rfl
@[simp] theorem modDeals_counter (f : Deals → Deals) : (modDeals f s).counter = s.counter := rfl
@[simp] theorem modDeals_keep (f : Deals → Deals) : (modDeals f s).keep = s.keep := rfl
@[simp] theorem modDeals_pwr (f : Deals → Deals) : (modDeals f s).pwr = s.pwr := rfl
@[simp] theorem modDeals_regs (f : Deals → Deals) : (modDeals f s).regs = s.regs := rfl
@[simp] theorem modDeals_force (f : Deals → Deals) : (modDeals f s).force = s.force := rfl
@[simp] theorem modDeals_led (f : Deals → Deals) : (modDeals f s).led = s.led := rfl
@[simp] theorem modDeals_tenants (f : Deals → Deals) : (modDeals f s).tenants = s.tenants := rfl
@[simp] theorem modDeals_classes (f : Deals → Deals) : (modDeals f s).classes = s.classes := rfl
@[simp] theorem modDeals_est (f : Deals → Deals) : (modDeals f s).est = s.est := rfl
@[simp] theorem modDeals_deals (f : Deals → Deals) : (modDeals f s).deals = f s.deals := rfl
@[simp] theorem modDeals_sieve (f : Deals → Deals) : (modDeals f s).sieve = s.sieve := rfl
@[simp] theorem modDeals_kv (f : Deals → Deals) : (modDeals f s).kv = s.kv := rfl
@[simp] theorem modDeals_seq (f : Deals → Deals) : (modDeals f s).seq = s.seq := rfl
@[simp] theorem modDeals_gates (f : Deals → Deals) : (modDeals f s).gates = s.gates := rfl
@[simp] theorem modDeals_ports (f : Deals → Deals) : (modDeals f s).ports = s.ports := rfl
@[simp] theorem modDeals_obs (f : Deals → Deals) : (modDeals f s).obs = s.obs := rfl
@[simp] theorem modDeals_egress (f : Deals → Deals) : (modDeals f s).egress = s.egress := rfl
@[simp] theorem modDeals_free (f : Deals → Deals) : (modDeals f s).free = s.free := rfl

/-! `modSieve` -/

@[simp] theorem modSieve_pending (f : SieveSt → SieveSt) : (modSieve f s).pending = s.pending := rfl
@[simp] theorem modSieve_grade (f : SieveSt → SieveSt) : (modSieve f s).grade = s.grade := rfl
@[simp] theorem modSieve_counter (f : SieveSt → SieveSt) : (modSieve f s).counter = s.counter := rfl
@[simp] theorem modSieve_keep (f : SieveSt → SieveSt) : (modSieve f s).keep = s.keep := rfl
@[simp] theorem modSieve_pwr (f : SieveSt → SieveSt) : (modSieve f s).pwr = s.pwr := rfl
@[simp] theorem modSieve_regs (f : SieveSt → SieveSt) : (modSieve f s).regs = s.regs := rfl
@[simp] theorem modSieve_force (f : SieveSt → SieveSt) : (modSieve f s).force = s.force := rfl
@[simp] theorem modSieve_led (f : SieveSt → SieveSt) : (modSieve f s).led = s.led := rfl
@[simp] theorem modSieve_tenants (f : SieveSt → SieveSt) : (modSieve f s).tenants = s.tenants := rfl
@[simp] theorem modSieve_classes (f : SieveSt → SieveSt) : (modSieve f s).classes = s.classes := rfl
@[simp] theorem modSieve_est (f : SieveSt → SieveSt) : (modSieve f s).est = s.est := rfl
@[simp] theorem modSieve_deals (f : SieveSt → SieveSt) : (modSieve f s).deals = s.deals := rfl
@[simp] theorem modSieve_sieve (f : SieveSt → SieveSt) : (modSieve f s).sieve = f s.sieve := rfl
@[simp] theorem modSieve_kv (f : SieveSt → SieveSt) : (modSieve f s).kv = s.kv := rfl
@[simp] theorem modSieve_seq (f : SieveSt → SieveSt) : (modSieve f s).seq = s.seq := rfl
@[simp] theorem modSieve_gates (f : SieveSt → SieveSt) : (modSieve f s).gates = s.gates := rfl
@[simp] theorem modSieve_ports (f : SieveSt → SieveSt) : (modSieve f s).ports = s.ports := rfl
@[simp] theorem modSieve_obs (f : SieveSt → SieveSt) : (modSieve f s).obs = s.obs := rfl
@[simp] theorem modSieve_egress (f : SieveSt → SieveSt) : (modSieve f s).egress = s.egress := rfl
@[simp] theorem modSieve_free (f : SieveSt → SieveSt) : (modSieve f s).free = s.free := rfl

/-! `modKv` -/

@[simp] theorem modKv_pending (f : Kv → Kv) : (modKv f s).pending = s.pending := rfl
@[simp] theorem modKv_grade (f : Kv → Kv) : (modKv f s).grade = s.grade := rfl
@[simp] theorem modKv_counter (f : Kv → Kv) : (modKv f s).counter = s.counter := rfl
@[simp] theorem modKv_keep (f : Kv → Kv) : (modKv f s).keep = s.keep := rfl
@[simp] theorem modKv_pwr (f : Kv → Kv) : (modKv f s).pwr = s.pwr := rfl
@[simp] theorem modKv_regs (f : Kv → Kv) : (modKv f s).regs = s.regs := rfl
@[simp] theorem modKv_force (f : Kv → Kv) : (modKv f s).force = s.force := rfl
@[simp] theorem modKv_led (f : Kv → Kv) : (modKv f s).led = s.led := rfl
@[simp] theorem modKv_tenants (f : Kv → Kv) : (modKv f s).tenants = s.tenants := rfl
@[simp] theorem modKv_classes (f : Kv → Kv) : (modKv f s).classes = s.classes := rfl
@[simp] theorem modKv_est (f : Kv → Kv) : (modKv f s).est = s.est := rfl
@[simp] theorem modKv_deals (f : Kv → Kv) : (modKv f s).deals = s.deals := rfl
@[simp] theorem modKv_sieve (f : Kv → Kv) : (modKv f s).sieve = s.sieve := rfl
@[simp] theorem modKv_kv (f : Kv → Kv) : (modKv f s).kv = f s.kv := rfl
@[simp] theorem modKv_seq (f : Kv → Kv) : (modKv f s).seq = s.seq := rfl
@[simp] theorem modKv_gates (f : Kv → Kv) : (modKv f s).gates = s.gates := rfl
@[simp] theorem modKv_ports (f : Kv → Kv) : (modKv f s).ports = s.ports := rfl
@[simp] theorem modKv_obs (f : Kv → Kv) : (modKv f s).obs = s.obs := rfl
@[simp] theorem modKv_egress (f : Kv → Kv) : (modKv f s).egress = s.egress := rfl
@[simp] theorem modKv_free (f : Kv → Kv) : (modKv f s).free = s.free := rfl

/-! `modSeq` -/

@[simp] theorem modSeq_pending (f : Seq → Seq) : (modSeq f s).pending = s.pending := rfl
@[simp] theorem modSeq_grade (f : Seq → Seq) : (modSeq f s).grade = s.grade := rfl
@[simp] theorem modSeq_counter (f : Seq → Seq) : (modSeq f s).counter = s.counter := rfl
@[simp] theorem modSeq_keep (f : Seq → Seq) : (modSeq f s).keep = s.keep := rfl
@[simp] theorem modSeq_pwr (f : Seq → Seq) : (modSeq f s).pwr = s.pwr := rfl
@[simp] theorem modSeq_regs (f : Seq → Seq) : (modSeq f s).regs = s.regs := rfl
@[simp] theorem modSeq_force (f : Seq → Seq) : (modSeq f s).force = s.force := rfl
@[simp] theorem modSeq_led (f : Seq → Seq) : (modSeq f s).led = s.led := rfl
@[simp] theorem modSeq_tenants (f : Seq → Seq) : (modSeq f s).tenants = s.tenants := rfl
@[simp] theorem modSeq_classes (f : Seq → Seq) : (modSeq f s).classes = s.classes := rfl
@[simp] theorem modSeq_est (f : Seq → Seq) : (modSeq f s).est = s.est := rfl
@[simp] theorem modSeq_deals (f : Seq → Seq) : (modSeq f s).deals = s.deals := rfl
@[simp] theorem modSeq_sieve (f : Seq → Seq) : (modSeq f s).sieve = s.sieve := rfl
@[simp] theorem modSeq_kv (f : Seq → Seq) : (modSeq f s).kv = s.kv := rfl
@[simp] theorem modSeq_seq (f : Seq → Seq) : (modSeq f s).seq = f s.seq := rfl
@[simp] theorem modSeq_gates (f : Seq → Seq) : (modSeq f s).gates = s.gates := rfl
@[simp] theorem modSeq_ports (f : Seq → Seq) : (modSeq f s).ports = s.ports := rfl
@[simp] theorem modSeq_obs (f : Seq → Seq) : (modSeq f s).obs = s.obs := rfl
@[simp] theorem modSeq_egress (f : Seq → Seq) : (modSeq f s).egress = s.egress := rfl
@[simp] theorem modSeq_free (f : Seq → Seq) : (modSeq f s).free = s.free := rfl

/-! `modPorts` -/

@[simp] theorem modPorts_pending (f : Ports → Ports) : (modPorts f s).pending = s.pending := rfl
@[simp] theorem modPorts_grade (f : Ports → Ports) : (modPorts f s).grade = s.grade := rfl
@[simp] theorem modPorts_counter (f : Ports → Ports) : (modPorts f s).counter = s.counter := rfl
@[simp] theorem modPorts_keep (f : Ports → Ports) : (modPorts f s).keep = s.keep := rfl
@[simp] theorem modPorts_pwr (f : Ports → Ports) : (modPorts f s).pwr = s.pwr := rfl
@[simp] theorem modPorts_regs (f : Ports → Ports) : (modPorts f s).regs = s.regs := rfl
@[simp] theorem modPorts_force (f : Ports → Ports) : (modPorts f s).force = s.force := rfl
@[simp] theorem modPorts_led (f : Ports → Ports) : (modPorts f s).led = s.led := rfl
@[simp] theorem modPorts_tenants (f : Ports → Ports) : (modPorts f s).tenants = s.tenants := rfl
@[simp] theorem modPorts_classes (f : Ports → Ports) : (modPorts f s).classes = s.classes := rfl
@[simp] theorem modPorts_est (f : Ports → Ports) : (modPorts f s).est = s.est := rfl
@[simp] theorem modPorts_deals (f : Ports → Ports) : (modPorts f s).deals = s.deals := rfl
@[simp] theorem modPorts_sieve (f : Ports → Ports) : (modPorts f s).sieve = s.sieve := rfl
@[simp] theorem modPorts_kv (f : Ports → Ports) : (modPorts f s).kv = s.kv := rfl
@[simp] theorem modPorts_seq (f : Ports → Ports) : (modPorts f s).seq = s.seq := rfl
@[simp] theorem modPorts_gates (f : Ports → Ports) : (modPorts f s).gates = s.gates := rfl
@[simp] theorem modPorts_ports (f : Ports → Ports) : (modPorts f s).ports = f s.ports := rfl
@[simp] theorem modPorts_obs (f : Ports → Ports) : (modPorts f s).obs = s.obs := rfl
@[simp] theorem modPorts_egress (f : Ports → Ports) : (modPorts f s).egress = s.egress := rfl
@[simp] theorem modPorts_free (f : Ports → Ports) : (modPorts f s).free = s.free := rfl

/-! `modObs` -/

@[simp] theorem modObs_pending (f : Obs → Obs) : (modObs f s).pending = s.pending := rfl
@[simp] theorem modObs_grade (f : Obs → Obs) : (modObs f s).grade = s.grade := rfl
@[simp] theorem modObs_counter (f : Obs → Obs) : (modObs f s).counter = s.counter := rfl
@[simp] theorem modObs_keep (f : Obs → Obs) : (modObs f s).keep = s.keep := rfl
@[simp] theorem modObs_pwr (f : Obs → Obs) : (modObs f s).pwr = s.pwr := rfl
@[simp] theorem modObs_regs (f : Obs → Obs) : (modObs f s).regs = s.regs := rfl
@[simp] theorem modObs_force (f : Obs → Obs) : (modObs f s).force = s.force := rfl
@[simp] theorem modObs_led (f : Obs → Obs) : (modObs f s).led = s.led := rfl
@[simp] theorem modObs_tenants (f : Obs → Obs) : (modObs f s).tenants = s.tenants := rfl
@[simp] theorem modObs_classes (f : Obs → Obs) : (modObs f s).classes = s.classes := rfl
@[simp] theorem modObs_est (f : Obs → Obs) : (modObs f s).est = s.est := rfl
@[simp] theorem modObs_deals (f : Obs → Obs) : (modObs f s).deals = s.deals := rfl
@[simp] theorem modObs_sieve (f : Obs → Obs) : (modObs f s).sieve = s.sieve := rfl
@[simp] theorem modObs_kv (f : Obs → Obs) : (modObs f s).kv = s.kv := rfl
@[simp] theorem modObs_seq (f : Obs → Obs) : (modObs f s).seq = s.seq := rfl
@[simp] theorem modObs_gates (f : Obs → Obs) : (modObs f s).gates = s.gates := rfl
@[simp] theorem modObs_ports (f : Obs → Obs) : (modObs f s).ports = s.ports := rfl
@[simp] theorem modObs_obs (f : Obs → Obs) : (modObs f s).obs = f s.obs := rfl
@[simp] theorem modObs_egress (f : Obs → Obs) : (modObs f s).egress = s.egress := rfl
@[simp] theorem modObs_free (f : Obs → Obs) : (modObs f s).free = s.free := rfl

/-! `modPwr` -/

@[simp] theorem modPwr_pending (f : Power → Power) : (modPwr f s).pending = s.pending := rfl
@[simp] theorem modPwr_grade (f : Power → Power) : (modPwr f s).grade = s.grade := rfl
@[simp] theorem modPwr_counter (f : Power → Power) : (modPwr f s).counter = s.counter := rfl
@[simp] theorem modPwr_keep (f : Power → Power) : (modPwr f s).keep = s.keep := rfl
@[simp] theorem modPwr_pwr (f : Power → Power) : (modPwr f s).pwr = f s.pwr := rfl
@[simp] theorem modPwr_regs (f : Power → Power) : (modPwr f s).regs = s.regs := rfl
@[simp] theorem modPwr_force (f : Power → Power) : (modPwr f s).force = s.force := rfl
@[simp] theorem modPwr_led (f : Power → Power) : (modPwr f s).led = s.led := rfl
@[simp] theorem modPwr_tenants (f : Power → Power) : (modPwr f s).tenants = s.tenants := rfl
@[simp] theorem modPwr_classes (f : Power → Power) : (modPwr f s).classes = s.classes := rfl
@[simp] theorem modPwr_est (f : Power → Power) : (modPwr f s).est = s.est := rfl
@[simp] theorem modPwr_deals (f : Power → Power) : (modPwr f s).deals = s.deals := rfl
@[simp] theorem modPwr_sieve (f : Power → Power) : (modPwr f s).sieve = s.sieve := rfl
@[simp] theorem modPwr_kv (f : Power → Power) : (modPwr f s).kv = s.kv := rfl
@[simp] theorem modPwr_seq (f : Power → Power) : (modPwr f s).seq = s.seq := rfl
@[simp] theorem modPwr_gates (f : Power → Power) : (modPwr f s).gates = s.gates := rfl
@[simp] theorem modPwr_ports (f : Power → Power) : (modPwr f s).ports = s.ports := rfl
@[simp] theorem modPwr_obs (f : Power → Power) : (modPwr f s).obs = s.obs := rfl
@[simp] theorem modPwr_egress (f : Power → Power) : (modPwr f s).egress = s.egress := rfl
@[simp] theorem modPwr_free (f : Power → Power) : (modPwr f s).free = s.free := rfl

/-! `modGate` -/

@[simp] theorem modGate_pending (g : Nat) (f : GateSt → GateSt) : (modGate g f s).pending = s.pending := rfl
@[simp] theorem modGate_grade (g : Nat) (f : GateSt → GateSt) : (modGate g f s).grade = s.grade := rfl
@[simp] theorem modGate_counter (g : Nat) (f : GateSt → GateSt) : (modGate g f s).counter = s.counter := rfl
@[simp] theorem modGate_keep (g : Nat) (f : GateSt → GateSt) : (modGate g f s).keep = s.keep := rfl
@[simp] theorem modGate_pwr (g : Nat) (f : GateSt → GateSt) : (modGate g f s).pwr = s.pwr := rfl
@[simp] theorem modGate_regs (g : Nat) (f : GateSt → GateSt) : (modGate g f s).regs = s.regs := rfl
@[simp] theorem modGate_force (g : Nat) (f : GateSt → GateSt) : (modGate g f s).force = s.force := rfl
@[simp] theorem modGate_led (g : Nat) (f : GateSt → GateSt) : (modGate g f s).led = s.led := rfl
@[simp] theorem modGate_tenants (g : Nat) (f : GateSt → GateSt) : (modGate g f s).tenants = s.tenants := rfl
@[simp] theorem modGate_classes (g : Nat) (f : GateSt → GateSt) : (modGate g f s).classes = s.classes := rfl
@[simp] theorem modGate_est (g : Nat) (f : GateSt → GateSt) : (modGate g f s).est = s.est := rfl
@[simp] theorem modGate_deals (g : Nat) (f : GateSt → GateSt) : (modGate g f s).deals = s.deals := rfl
@[simp] theorem modGate_sieve (g : Nat) (f : GateSt → GateSt) : (modGate g f s).sieve = s.sieve := rfl
@[simp] theorem modGate_kv (g : Nat) (f : GateSt → GateSt) : (modGate g f s).kv = s.kv := rfl
@[simp] theorem modGate_seq (g : Nat) (f : GateSt → GateSt) : (modGate g f s).seq = s.seq := rfl
@[simp] theorem modGate_ports (g : Nat) (f : GateSt → GateSt) : (modGate g f s).ports = s.ports := rfl
@[simp] theorem modGate_obs (g : Nat) (f : GateSt → GateSt) : (modGate g f s).obs = s.obs := rfl
@[simp] theorem modGate_egress (g : Nat) (f : GateSt → GateSt) : (modGate g f s).egress = s.egress := rfl
@[simp] theorem modGate_free (g : Nat) (f : GateSt → GateSt) : (modGate g f s).free = s.free := rfl

/-! `modPath` -/

@[simp] theorem modPath_pending (g p : Nat) (f : PathSt → PathSt) : (modPath g p f s).pending = s.pending := rfl
@[simp] theorem modPath_grade (g p : Nat) (f : PathSt → PathSt) : (modPath g p f s).grade = s.grade := rfl
@[simp] theorem modPath_counter (g p : Nat) (f : PathSt → PathSt) : (modPath g p f s).counter = s.counter := rfl
@[simp] theorem modPath_keep (g p : Nat) (f : PathSt → PathSt) : (modPath g p f s).keep = s.keep := rfl
@[simp] theorem modPath_pwr (g p : Nat) (f : PathSt → PathSt) : (modPath g p f s).pwr = s.pwr := rfl
@[simp] theorem modPath_regs (g p : Nat) (f : PathSt → PathSt) : (modPath g p f s).regs = s.regs := rfl
@[simp] theorem modPath_force (g p : Nat) (f : PathSt → PathSt) : (modPath g p f s).force = s.force := rfl
@[simp] theorem modPath_led (g p : Nat) (f : PathSt → PathSt) : (modPath g p f s).led = s.led := rfl
@[simp] theorem modPath_tenants (g p : Nat) (f : PathSt → PathSt) : (modPath g p f s).tenants = s.tenants := rfl
@[simp] theorem modPath_classes (g p : Nat) (f : PathSt → PathSt) : (modPath g p f s).classes = s.classes := rfl
@[simp] theorem modPath_est (g p : Nat) (f : PathSt → PathSt) : (modPath g p f s).est = s.est := rfl
@[simp] theorem modPath_deals (g p : Nat) (f : PathSt → PathSt) : (modPath g p f s).deals = s.deals := rfl
@[simp] theorem modPath_sieve (g p : Nat) (f : PathSt → PathSt) : (modPath g p f s).sieve = s.sieve := rfl
@[simp] theorem modPath_kv (g p : Nat) (f : PathSt → PathSt) : (modPath g p f s).kv = s.kv := rfl
@[simp] theorem modPath_seq (g p : Nat) (f : PathSt → PathSt) : (modPath g p f s).seq = s.seq := rfl
@[simp] theorem modPath_ports (g p : Nat) (f : PathSt → PathSt) : (modPath g p f s).ports = s.ports := rfl
@[simp] theorem modPath_obs (g p : Nat) (f : PathSt → PathSt) : (modPath g p f s).obs = s.obs := rfl
@[simp] theorem modPath_egress (g p : Nat) (f : PathSt → PathSt) : (modPath g p f s).egress = s.egress := rfl
@[simp] theorem modPath_free (g p : Nat) (f : PathSt → PathSt) : (modPath g p f s).free = s.free := rfl

/-! `modReq` -/

@[simp] theorem modReq_pending (g p r : Nat) (f : Req → Req) : (modReq g p r f s).pending = s.pending := rfl
@[simp] theorem modReq_grade (g p r : Nat) (f : Req → Req) : (modReq g p r f s).grade = s.grade := rfl
@[simp] theorem modReq_counter (g p r : Nat) (f : Req → Req) : (modReq g p r f s).counter = s.counter := rfl
@[simp] theorem modReq_keep (g p r : Nat) (f : Req → Req) : (modReq g p r f s).keep = s.keep := rfl
@[simp] theorem modReq_pwr (g p r : Nat) (f : Req → Req) : (modReq g p r f s).pwr = s.pwr := rfl
@[simp] theorem modReq_regs (g p r : Nat) (f : Req → Req) : (modReq g p r f s).regs = s.regs := rfl
@[simp] theorem modReq_force (g p r : Nat) (f : Req → Req) : (modReq g p r f s).force = s.force := rfl
@[simp] theorem modReq_led (g p r : Nat) (f : Req → Req) : (modReq g p r f s).led = s.led := rfl
@[simp] theorem modReq_tenants (g p r : Nat) (f : Req → Req) : (modReq g p r f s).tenants = s.tenants := rfl
@[simp] theorem modReq_classes (g p r : Nat) (f : Req → Req) : (modReq g p r f s).classes = s.classes := rfl
@[simp] theorem modReq_est (g p r : Nat) (f : Req → Req) : (modReq g p r f s).est = s.est := rfl
@[simp] theorem modReq_deals (g p r : Nat) (f : Req → Req) : (modReq g p r f s).deals = s.deals := rfl
@[simp] theorem modReq_sieve (g p r : Nat) (f : Req → Req) : (modReq g p r f s).sieve = s.sieve := rfl
@[simp] theorem modReq_kv (g p r : Nat) (f : Req → Req) : (modReq g p r f s).kv = s.kv := rfl
@[simp] theorem modReq_seq (g p r : Nat) (f : Req → Req) : (modReq g p r f s).seq = s.seq := rfl
@[simp] theorem modReq_ports (g p r : Nat) (f : Req → Req) : (modReq g p r f s).ports = s.ports := rfl
@[simp] theorem modReq_obs (g p r : Nat) (f : Req → Req) : (modReq g p r f s).obs = s.obs := rfl
@[simp] theorem modReq_egress (g p r : Nat) (f : Req → Req) : (modReq g p r f s).egress = s.egress := rfl
@[simp] theorem modReq_free (g p r : Nat) (f : Req → Req) : (modReq g p r f s).free = s.free := rfl

/-! `modSess` -/

@[simp] theorem modSess_pending (p : Port) (k : Nat) (f : Sess → Sess) : (modSess p k f s).pending = s.pending := rfl
@[simp] theorem modSess_grade (p : Port) (k : Nat) (f : Sess → Sess) : (modSess p k f s).grade = s.grade := rfl
@[simp] theorem modSess_counter (p : Port) (k : Nat) (f : Sess → Sess) : (modSess p k f s).counter = s.counter := rfl
@[simp] theorem modSess_keep (p : Port) (k : Nat) (f : Sess → Sess) : (modSess p k f s).keep = s.keep := rfl
@[simp] theorem modSess_pwr (p : Port) (k : Nat) (f : Sess → Sess) : (modSess p k f s).pwr = s.pwr := rfl
@[simp] theorem modSess_regs (p : Port) (k : Nat) (f : Sess → Sess) : (modSess p k f s).regs = s.regs := rfl
@[simp] theorem modSess_force (p : Port) (k : Nat) (f : Sess → Sess) : (modSess p k f s).force = s.force := rfl
@[simp] theorem modSess_led (p : Port) (k : Nat) (f : Sess → Sess) : (modSess p k f s).led = s.led := rfl
@[simp] theorem modSess_tenants (p : Port) (k : Nat) (f : Sess → Sess) : (modSess p k f s).tenants = s.tenants := rfl
@[simp] theorem modSess_classes (p : Port) (k : Nat) (f : Sess → Sess) : (modSess p k f s).classes = s.classes := rfl
@[simp] theorem modSess_est (p : Port) (k : Nat) (f : Sess → Sess) : (modSess p k f s).est = s.est := rfl
@[simp] theorem modSess_deals (p : Port) (k : Nat) (f : Sess → Sess) : (modSess p k f s).deals = s.deals := rfl
@[simp] theorem modSess_sieve (p : Port) (k : Nat) (f : Sess → Sess) : (modSess p k f s).sieve = s.sieve := rfl
@[simp] theorem modSess_kv (p : Port) (k : Nat) (f : Sess → Sess) : (modSess p k f s).kv = s.kv := rfl
@[simp] theorem modSess_seq (p : Port) (k : Nat) (f : Sess → Sess) : (modSess p k f s).seq = s.seq := rfl
@[simp] theorem modSess_gates (p : Port) (k : Nat) (f : Sess → Sess) : (modSess p k f s).gates = s.gates := rfl
@[simp] theorem modSess_obs (p : Port) (k : Nat) (f : Sess → Sess) : (modSess p k f s).obs = s.obs := rfl
@[simp] theorem modSess_egress (p : Port) (k : Nat) (f : Sess → Sess) : (modSess p k f s).egress = s.egress := rfl
@[simp] theorem modSess_free (p : Port) (k : Nat) (f : Sess → Sess) : (modSess p k f s).free = s.free := rfl

/-! `modBlk` -/

@[simp] theorem modBlk_pending (b : Nat) (f : Blk → Blk) : (modBlk b f s).pending = s.pending := rfl
@[simp] theorem modBlk_grade (b : Nat) (f : Blk → Blk) : (modBlk b f s).grade = s.grade := rfl
@[simp] theorem modBlk_counter (b : Nat) (f : Blk → Blk) : (modBlk b f s).counter = s.counter := rfl
@[simp] theorem modBlk_keep (b : Nat) (f : Blk → Blk) : (modBlk b f s).keep = s.keep := rfl
@[simp] theorem modBlk_pwr (b : Nat) (f : Blk → Blk) : (modBlk b f s).pwr = s.pwr := rfl
@[simp] theorem modBlk_regs (b : Nat) (f : Blk → Blk) : (modBlk b f s).regs = s.regs := rfl
@[simp] theorem modBlk_force (b : Nat) (f : Blk → Blk) : (modBlk b f s).force = s.force := rfl
@[simp] theorem modBlk_led (b : Nat) (f : Blk → Blk) : (modBlk b f s).led = s.led := rfl
@[simp] theorem modBlk_tenants (b : Nat) (f : Blk → Blk) : (modBlk b f s).tenants = s.tenants := rfl
@[simp] theorem modBlk_classes (b : Nat) (f : Blk → Blk) : (modBlk b f s).classes = s.classes := rfl
@[simp] theorem modBlk_est (b : Nat) (f : Blk → Blk) : (modBlk b f s).est = s.est := rfl
@[simp] theorem modBlk_deals (b : Nat) (f : Blk → Blk) : (modBlk b f s).deals = s.deals := rfl
@[simp] theorem modBlk_sieve (b : Nat) (f : Blk → Blk) : (modBlk b f s).sieve = s.sieve := rfl
@[simp] theorem modBlk_seq (b : Nat) (f : Blk → Blk) : (modBlk b f s).seq = s.seq := rfl
@[simp] theorem modBlk_gates (b : Nat) (f : Blk → Blk) : (modBlk b f s).gates = s.gates := rfl
@[simp] theorem modBlk_ports (b : Nat) (f : Blk → Blk) : (modBlk b f s).ports = s.ports := rfl
@[simp] theorem modBlk_obs (b : Nat) (f : Blk → Blk) : (modBlk b f s).obs = s.obs := rfl
@[simp] theorem modBlk_egress (b : Nat) (f : Blk → Blk) : (modBlk b f s).egress = s.egress := rfl
@[simp] theorem modBlk_free (b : Nat) (f : Blk → Blk) : (modBlk b f s).free = s.free := rfl

/-! `modModel` -/

@[simp] theorem modModel_pending (m v : Nat) (f : ModelSlot → ModelSlot) : (modModel m v f s).pending = s.pending := rfl
@[simp] theorem modModel_grade (m v : Nat) (f : ModelSlot → ModelSlot) : (modModel m v f s).grade = s.grade := rfl
@[simp] theorem modModel_counter (m v : Nat) (f : ModelSlot → ModelSlot) : (modModel m v f s).counter = s.counter := rfl
@[simp] theorem modModel_keep (m v : Nat) (f : ModelSlot → ModelSlot) : (modModel m v f s).keep = s.keep := rfl
@[simp] theorem modModel_pwr (m v : Nat) (f : ModelSlot → ModelSlot) : (modModel m v f s).pwr = s.pwr := rfl
@[simp] theorem modModel_regs (m v : Nat) (f : ModelSlot → ModelSlot) : (modModel m v f s).regs = s.regs := rfl
@[simp] theorem modModel_force (m v : Nat) (f : ModelSlot → ModelSlot) : (modModel m v f s).force = s.force := rfl
@[simp] theorem modModel_led (m v : Nat) (f : ModelSlot → ModelSlot) : (modModel m v f s).led = s.led := rfl
@[simp] theorem modModel_tenants (m v : Nat) (f : ModelSlot → ModelSlot) : (modModel m v f s).tenants = s.tenants := rfl
@[simp] theorem modModel_classes (m v : Nat) (f : ModelSlot → ModelSlot) : (modModel m v f s).classes = s.classes := rfl
@[simp] theorem modModel_est (m v : Nat) (f : ModelSlot → ModelSlot) : (modModel m v f s).est = s.est := rfl
@[simp] theorem modModel_deals (m v : Nat) (f : ModelSlot → ModelSlot) : (modModel m v f s).deals = s.deals := rfl
@[simp] theorem modModel_sieve (m v : Nat) (f : ModelSlot → ModelSlot) : (modModel m v f s).sieve = s.sieve := rfl
@[simp] theorem modModel_kv (m v : Nat) (f : ModelSlot → ModelSlot) : (modModel m v f s).kv = s.kv := rfl
@[simp] theorem modModel_gates (m v : Nat) (f : ModelSlot → ModelSlot) : (modModel m v f s).gates = s.gates := rfl
@[simp] theorem modModel_ports (m v : Nat) (f : ModelSlot → ModelSlot) : (modModel m v f s).ports = s.ports := rfl
@[simp] theorem modModel_obs (m v : Nat) (f : ModelSlot → ModelSlot) : (modModel m v f s).obs = s.obs := rfl
@[simp] theorem modModel_egress (m v : Nat) (f : ModelSlot → ModelSlot) : (modModel m v f s).egress = s.egress := rfl
@[simp] theorem modModel_free (m v : Nat) (f : ModelSlot → ModelSlot) : (modModel m v f s).free = s.free := rfl

/-! `modDesc` -/

@[simp] theorem modDesc_pending (m v o : Nat) (f : Desc → Desc) : (modDesc m v o f s).pending = s.pending := rfl
@[simp] theorem modDesc_grade (m v o : Nat) (f : Desc → Desc) : (modDesc m v o f s).grade = s.grade := rfl
@[simp] theorem modDesc_counter (m v o : Nat) (f : Desc → Desc) : (modDesc m v o f s).counter = s.counter := rfl
@[simp] theorem modDesc_keep (m v o : Nat) (f : Desc → Desc) : (modDesc m v o f s).keep = s.keep := rfl
@[simp] theorem modDesc_pwr (m v o : Nat) (f : Desc → Desc) : (modDesc m v o f s).pwr = s.pwr := rfl
@[simp] theorem modDesc_regs (m v o : Nat) (f : Desc → Desc) : (modDesc m v o f s).regs = s.regs := rfl
@[simp] theorem modDesc_force (m v o : Nat) (f : Desc → Desc) : (modDesc m v o f s).force = s.force := rfl
@[simp] theorem modDesc_led (m v o : Nat) (f : Desc → Desc) : (modDesc m v o f s).led = s.led := rfl
@[simp] theorem modDesc_tenants (m v o : Nat) (f : Desc → Desc) : (modDesc m v o f s).tenants = s.tenants := rfl
@[simp] theorem modDesc_classes (m v o : Nat) (f : Desc → Desc) : (modDesc m v o f s).classes = s.classes := rfl
@[simp] theorem modDesc_est (m v o : Nat) (f : Desc → Desc) : (modDesc m v o f s).est = s.est := rfl
@[simp] theorem modDesc_deals (m v o : Nat) (f : Desc → Desc) : (modDesc m v o f s).deals = s.deals := rfl
@[simp] theorem modDesc_sieve (m v o : Nat) (f : Desc → Desc) : (modDesc m v o f s).sieve = s.sieve := rfl
@[simp] theorem modDesc_kv (m v o : Nat) (f : Desc → Desc) : (modDesc m v o f s).kv = s.kv := rfl
@[simp] theorem modDesc_gates (m v o : Nat) (f : Desc → Desc) : (modDesc m v o f s).gates = s.gates := rfl
@[simp] theorem modDesc_ports (m v o : Nat) (f : Desc → Desc) : (modDesc m v o f s).ports = s.ports := rfl
@[simp] theorem modDesc_obs (m v o : Nat) (f : Desc → Desc) : (modDesc m v o f s).obs = s.obs := rfl
@[simp] theorem modDesc_egress (m v o : Nat) (f : Desc → Desc) : (modDesc m v o f s).egress = s.egress := rfl
@[simp] theorem modDesc_free (m v o : Nat) (f : Desc → Desc) : (modDesc m v o f s).free = s.free := rfl

/-! `emit` -/

@[simp] theorem emit_pending (m : Msg) : (emit m s).pending = s.pending := rfl
@[simp] theorem emit_grade (m : Msg) : (emit m s).grade = s.grade := rfl
@[simp] theorem emit_counter (m : Msg) : (emit m s).counter = s.counter := rfl
@[simp] theorem emit_keep (m : Msg) : (emit m s).keep = s.keep := rfl
@[simp] theorem emit_pwr (m : Msg) : (emit m s).pwr = s.pwr := rfl
@[simp] theorem emit_regs (m : Msg) : (emit m s).regs = s.regs := rfl
@[simp] theorem emit_force (m : Msg) : (emit m s).force = s.force := rfl
@[simp] theorem emit_led (m : Msg) : (emit m s).led = s.led := rfl
@[simp] theorem emit_tenants (m : Msg) : (emit m s).tenants = s.tenants := rfl
@[simp] theorem emit_classes (m : Msg) : (emit m s).classes = s.classes := rfl
@[simp] theorem emit_est (m : Msg) : (emit m s).est = s.est := rfl
@[simp] theorem emit_deals (m : Msg) : (emit m s).deals = s.deals := rfl
@[simp] theorem emit_sieve (m : Msg) : (emit m s).sieve = s.sieve := rfl
@[simp] theorem emit_kv (m : Msg) : (emit m s).kv = s.kv := rfl
@[simp] theorem emit_seq (m : Msg) : (emit m s).seq = s.seq := rfl
@[simp] theorem emit_gates (m : Msg) : (emit m s).gates = s.gates := rfl
@[simp] theorem emit_ports (m : Msg) : (emit m s).ports = s.ports := rfl
@[simp] theorem emit_obs (m : Msg) : (emit m s).obs = s.obs := rfl
@[simp] theorem emit_egress (m : Msg) : (emit m s).egress = m :: s.egress := rfl
@[simp] theorem emit_free (m : Msg) : (emit m s).free = s.free := rfl

end Sys2Proof.Machine
end

