-- ==== Sys2Proof/Laws/Store.lean ====
section
/-! SUPPORT. The indexed stores: every operation keeps the canonical form, and what a read after a write gives. -/
namespace Sys2Proof.Machine

theorem tabove_le {α : Type} {m n : Nat} (h : m ≤ n) {l : List (Nat × α)} (k : tabove n l = true) : tabove m l = true := by
  induction l with
  | nil => rfl
  | cons e r ih =>
    simp only [tabove, Bool.and_eq_true, decide_eq_true_eq] at k ⊢
    exact ⟨by omega, ih k.2⟩

theorem tabove_tdel {α : Type} {m n : Nat} {l : List (Nat × α)} (h : tabove m l = true) : tabove m (tdel l n) = true := by
  induction l with
  | nil => rfl
  | cons e r ih =>
    simp only [tabove, tdel, Bool.and_eq_true, decide_eq_true_eq] at h ⊢
    split
    · exact ih h.2
    · simp only [tabove, Bool.and_eq_true, decide_eq_true_eq]; exact ⟨h.1, ih h.2⟩

theorem tabove_tins {α : Type} {m n : Nat} {a : α} {l : List (Nat × α)} (h : tabove m l = true) (k : m < n) :
    tabove m (tins l n a) = true := by
  induction l with
  | nil => simp [tins, tabove, k]
  | cons e r ih =>
    simp only [tabove, tins, Bool.and_eq_true, decide_eq_true_eq] at h ⊢
    repeat' split
    all_goals simp only [tabove, Bool.and_eq_true, decide_eq_true_eq]
    · exact ⟨k, h⟩
    · exact ⟨k, h.2⟩
    · exact ⟨h.1, ih h.2⟩

theorem twf_tdel {α : Type} [DecidableEq α] {d : Nat → α} {l : List (Nat × α)} {n : Nat} (h : twf d l = true) :
    twf d (tdel l n) = true := by
  induction l with
  | nil => rfl
  | cons e r ih =>
    simp only [twf, tdel, Bool.and_eq_true, decide_eq_true_eq] at h ⊢
    split
    · exact ih h.2
    · simp only [twf, Bool.and_eq_true, decide_eq_true_eq]; exact ⟨⟨h.1.1, tabove_tdel h.1.2⟩, ih h.2⟩

theorem twf_tins {α : Type} [DecidableEq α] {d : Nat → α} {l : List (Nat × α)} {n : Nat} {a : α} (h : twf d l = true)
    (ha : a ≠ d n) : twf d (tins l n a) = true := by
  induction l with
  | nil => simp [tins, twf, tabove, ha]
  | cons e r ih =>
    simp only [twf, tins, Bool.and_eq_true, decide_eq_true_eq] at h ⊢
    repeat' split
    all_goals simp only [twf, tabove, Bool.and_eq_true, decide_eq_true_eq]
    · rename_i k
      exact ⟨⟨ha, k, tabove_le (by omega) h.1.2⟩, h⟩
    · rename_i _ k
      subst k; exact ⟨⟨ha, h.1.2⟩, h.2⟩
    · rename_i k1 k2
      exact ⟨⟨h.1.1, tabove_tins h.1.2 (by omega)⟩, ih h.2⟩

theorem twf_tput {α : Type} [DecidableEq α] {d : Nat → α} {l : List (Nat × α)} (n : Nat) (a : α) (h : twf d l = true) :
    twf d (tput (d n) l n a) = true := by
  unfold tput
  split
  · exact twf_tdel h
  · rename_i k; exact twf_tins h k

theorem tabove_tmap {α : Type} [DecidableEq α] {d : α} {f : Nat → α → α} {m : Nat} {l : List (Nat × α)}
    (h : tabove m l = true) : tabove m (tmap d f l) = true := by
  induction l with
  | nil => rfl
  | cons e r ih =>
    simp only [tabove, tmap, Bool.and_eq_true, decide_eq_true_eq] at h ⊢
    split
    · exact ih h.2
    · simp only [tabove, Bool.and_eq_true, decide_eq_true_eq]; exact ⟨h.1, ih h.2⟩

theorem twf_tmap {α : Type} [DecidableEq α] {d : α} {f : Nat → α → α} {l : List (Nat × α)}
    (h : twf (fun _ => d) l = true) : twf (fun _ => d) (tmap d f l) = true := by
  induction l with
  | nil => rfl
  | cons e r ih =>
    simp only [twf, tmap, Bool.and_eq_true, decide_eq_true_eq] at h ⊢
    split
    · exact ih h.2
    · rename_i k
      simp only [twf, Bool.and_eq_true, decide_eq_true_eq]; exact ⟨⟨k, tabove_tmap h.1.2⟩, ih h.2⟩

theorem tabove_filter {α : Type} {p : Nat × α → Bool} {m : Nat} {l : List (Nat × α)} (h : tabove m l = true) :
    tabove m (l.filter p) = true := by
  induction l with
  | nil => rfl
  | cons e r ih =>
    simp only [tabove, Bool.and_eq_true, decide_eq_true_eq] at h
    rw [List.filter_cons]
    split
    · simp only [tabove, Bool.and_eq_true, decide_eq_true_eq]; exact ⟨h.1, ih h.2⟩
    · exact ih h.2

/-! A read after a write. -/

theorem tget_tins_self {α : Type} (d : α) (l : List (Nat × α)) (n : Nat) (a : α) : tget d (tins l n a) n = a := by
  induction l with
  | nil => simp [tins, tget]
  | cons e r ih =>
    unfold tins
    split
    · simp [tget]
    split
    · simp [tget]
    · simp only [tget]; rw [if_neg (by assumption)]; exact ih

theorem tget_tins_other {α : Type} (d : α) (l : List (Nat × α)) {n k : Nat} (a : α) (h : k ≠ n) :
    tget d (tins l n a) k = tget d l k := by
  induction l with
  | nil => simp [tins, tget, h]
  | cons e r ih =>
    unfold tins
    split
    · simp [tget, h]
    split
    · rename_i x; subst x; simp [tget, h]
    · simp only [tget]; split
      · rfl
      · exact ih

theorem tget_tdel_other {α : Type} (d : α) (l : List (Nat × α)) {n k : Nat} (h : k ≠ n) : tget d (tdel l n) k = tget d l k := by
  induction l with
  | nil => rfl
  | cons e r ih =>
    unfold tdel
    split
    · rename_i x; subst x; simp only [tget, if_neg h]; exact ih
    · simp only [tget]; split
      · rfl
      · exact ih

theorem tget_above {α : Type} (d : α) (l : List (Nat × α)) {m n : Nat} (h : tabove m l = true) (k : n ≤ m) : tget d l n = d := by
  induction l with
  | nil => rfl
  | cons e r ih =>
    simp only [tabove, Bool.and_eq_true, decide_eq_true_eq] at h
    simp only [tget]
    rw [if_neg (by omega)]
    exact ih h.2

theorem tget_tdel_self {α : Type} (d : α) (l : List (Nat × α)) (n : Nat) : tget d (tdel l n) n = d := by
  induction l with
  | nil => rfl
  | cons e r ih =>
    unfold tdel
    split
    · exact ih
    · simp only [tget]; rw [if_neg (by assumption)]; exact ih

/-- A read of the key just written gives the value written. -/
theorem tget_tput_self {α : Type} [DecidableEq α] (d : α) (l : List (Nat × α)) (n : Nat) (a : α) : tget d (tput d l n a) n = a := by
  unfold tput
  split
  · rename_i x; subst x; exact tget_tdel_self ..
  · exact tget_tins_self ..

/-- A read of any other key gives what it gave before. -/
theorem tget_tput_other {α : Type} [DecidableEq α] (c d : α) (l : List (Nat × α)) {n k : Nat} (a : α) (h : k ≠ n) :
    tget d (tput c l n a) k = tget d l k := by
  unfold tput
  split
  · exact tget_tdel_other d l h
  · exact tget_tins_other d l a h

end Sys2Proof.Machine
end

