-- ==== Sys2Proof/Laws/Arrive.lean ====
section
/-! SUPPORT. Which messages a port takes, and the state in which a message that it takes acts. -/
namespace Sys2Proof.Machine

theorem bumpN_cases (c n : Nat) (s : State) :
    (∃ l, bumpN c n s = { s with keep := { s.keep with cnt := l } }) ∨ ∃ l, bumpN c n s = modObs (fun o => { o with cnt := l }) s := by
  unfold bumpN
  split
  · exact .inl ⟨_, rfl⟩
  · exact .inr ⟨_, rfl⟩

@[simp] theorem bumpN_ports (c n : Nat) (s : State) : (bumpN c n s).ports = s.ports := by
  rcases bumpN_cases c n s with ⟨l, h⟩ | ⟨l, h⟩ <;> rw [h] <;> rfl

@[simp] theorem bump_ports (c : Nat) (s : State) : (bump c s).ports = s.ports := bumpN_ports c 1 s

@[simp] theorem portCnt_ports (p : Port) (k n : Nat) (s : State) : (portCnt p k n s).ports = s.ports := by
  unfold portCnt
  split
  · exact bumpN_ports ..
  · rfl

theorem live_of_ports {s u : State} (h : u.ports = s.ports) (p : Port) (peer : Nat) : u.live p peer = s.live p peer := by
  unfold State.live State.sess; rw [h]

theorem sess_of_ports {s u : State} (h : u.ports = s.ports) (p : Port) (peer : Nat) : u.sess p peer = s.sess p peer := by
  unfold State.sess; rw [h]

theorem portOpen_of_ports {s u : State} (h : u.ports = s.ports) (p : Port) : u.portOpen p = s.portOpen p := by
  unfold State.portOpen; rw [h]

theorem payOk_of_ports {s u : State} (h : u.ports = s.ports) (p : Port) (peer n : Nat) : u.payOk p peer n = s.payOk p peer n := by
  unfold State.payOk State.beatsHeld State.sess; rw [h]

@[simp] theorem greeted_ports (p : Port) (peer cls beats : Nat) (s : State) : (greeted p peer cls beats s).2.ports = s.ports := by
  unfold greeted
  dsimp only
  split
  · rfl
  split <;> rfl

/-- Whether a message comes under greeting credit: it must where only that credit pays for it, and it must not where the session has
none, or it has payload. -/
theorem greeted_fst (p : Port) (peer cls beats : Nat) (s : State) :
    ((greeted p peer cls beats s).1 = true → 0 < (s.sess p peer).greet ∧ beats = 0) ∧
    (0 < (s.sess p peer).greet → beats = 0 → (s.sess p peer).inn.getD cls 0 = 0 → (greeted p peer cls beats s).1 = true) := by
  unfold greeted
  dsimp only
  split
  · rename_i h; refine ⟨fun x => (by cases x), fun a b _ => ?_⟩; omega
  · rename_i h
    split
    · rename_i k; exact ⟨fun _ => by omega, fun _ _ _ => rfl⟩
    · rename_i k; exact ⟨fun _ => by omega, fun _ _ z => absurd z k⟩

/-- A message without payload needs no payload credit. -/
@[simp] theorem payOk_zero (s : State) (p : Port) (peer : Nat) : s.payOk p peer 0 = true := by simp [State.payOk]

/-- A port takes exactly the messages that `State.accepts` says. -/
theorem arrive_fst (p : Port) (peer cls op : Nat) (word1 : Word) (beats : Nat) (s : State) :
    (arrive p peer cls op word1 beats s).1 = s.accepts p peer cls beats := by
  have h := portCnt_ports p 0 1 s
  have k := (greeted_ports p peer cls beats (portCnt p 0 1 s)).trans h
  have g := greeted_fst p peer cls beats (portCnt p 0 1 s)
  rw [sess_of_ports h] at g
  unfold arrive State.accepts
  dsimp only
  rw [live_of_ports h, portOpen_of_ports h, sess_of_ports k, payOk_of_ports k]
  cases s.live p peer <;> cases s.portOpen p <;> simp only [Bool.not_true, Bool.not_false, Bool.and_true, Bool.and_false, Bool.false_and,
    Bool.true_and, if_true, if_false, Bool.false_eq_true]
  split
  · rename_i x
    have := g.1 x
    simp [this.1, this.2]
  · rename_i x
    split
    · rename_i y
      have : ¬ (0 < (s.sess p peer).greet ∧ beats = 0) := fun z => x (g.2 z.1 z.2 y)
      simp only [y]
      by_cases q : 0 < (s.sess p peer).greet
      · have : beats ≠ 0 := fun z => this ⟨q, z⟩
        simp [this]
      · simp [q]
    · rename_i y
      have y0 : 0 < (s.sess p peer).inn.getD cls 0 := by omega
      split
      · rename_i w
        have w0 : s.payOk p peer beats = false := by simpa using w
        have : beats ≠ 0 := by rintro rfl; simp at w0
        simp [w0, this]
      · rename_i w
        have w0 : s.payOk p peer beats = true := by simpa using w
        simp only [y0, w0, decide_true, Bool.and_self, Bool.true_or]

/-- A message that its port takes, and whose buffer frees at once, acts in the state `received` gives. -/
theorem taking_accepts {p : Port} {peer cls op : Nat} {word1 : Word} {beats : Nat} {f : State → State} {s : State}
    (h : s.accepts p peer cls beats = true) :
    taking p peer cls op word1 beats f s = f (received p peer cls op word1 beats s) := by
  have a := (arrive_fst p peer cls op word1 beats s).trans h
  unfold taking received
  split <;> rename_i e <;> rw [e] at a
  · rw [e]
  · cases a

/-- A message that its port does not take changes what the port counts, answers and flags, and nothing acts. -/
theorem taking_refused {p : Port} {peer cls op : Nat} {word1 : Word} {beats : Nat} {f : State → State} {s : State}
    (h : s.accepts p peer cls beats = false) : taking p peer cls op word1 beats f s = (arrive p peer cls op word1 beats s).2 := by
  have a := (arrive_fst p peer cls op word1 beats s).trans h
  unfold taking
  split <;> rename_i e <;> rw [e] at a
  · cases a
  · rw [e]

/-- An inbound payload that its port takes acts at once when its gate lets it through, in the state `receivedGated` gives. -/
theorem takingGated_passes {x : Gated} {op : Nat} {word1 : Word} {f : State → State} {s : State}
    (h : s.accepts x.port x.peer x.cls x.beats = true) (hg : (arrive x.port x.peer x.cls op word1 x.beats s).2.gateTakes x = true) :
    takingGated x op word1 f s = f (receivedGated x op word1 s) := by
  have a := (arrive_fst x.port x.peer x.cls op word1 x.beats s).trans h
  unfold takingGated receivedGated
  split <;> rename_i e <;> rw [e] at a
  · rw [e] at hg ⊢
    unfold gatedIn
    rw [if_pos (show (_ : State).gateTakes x = true from hg)]
  · cases a

/-- An inbound payload that its port takes waits in the port's buffer while its gate holds it. -/
theorem takingGated_waits {x : Gated} {op : Nat} {word1 : Word} {f : State → State} {s : State}
    (h : s.accepts x.port x.peer x.cls x.beats = true) (hg : (arrive x.port x.peer x.cls op word1 x.beats s).2.gateTakes x = false) :
    takingGated x op word1 f s = modPorts (fun p => { p with gated := p.gated ++ [x] }) (arrive x.port x.peer x.cls op word1 x.beats s).2 := by
  have a := (arrive_fst x.port x.peer x.cls op word1 x.beats s).trans h
  unfold takingGated
  split <;> rename_i e <;> rw [e] at a
  · rw [e] at hg ⊢
    unfold gatedIn
    rw [if_neg (Bool.eq_false_iff.mp hg)]
  · cases a

end Sys2Proof.Machine
end

