-- ==== Sys2Proof/Laws/Calm.lean ====
section
/-! SUPPORT. What the end of a command (`finish`) and the operations it calls leave as it is (`State.calm`). -/
namespace Sys2Proof.Machine

theorem ite_calm {c : Prop} [Decidable c] {a b : State} {x : State} (ha : a.calm = x) (hb : b.calm = x) :
    (if c then a else b).calm = x := by
  split <;> assumption

theorem each_calm {α : Type} {f : α → State → State} {l : List α} {s : State} {x : State} (h : ∀ a s, (f a s).calm = s.calm)
    (hs : s.calm = x) : (each f l s).calm = x := by
  induction l generalizing s with
  | nil => exact hs
  | cons a l ih => simp only [each]; exact ih ((h a s).trans hs)

theorem each2_calm {α β : Type} {f : α → β × State → β × State} {l : List α} {p : β × State} {x : State}
    (h : ∀ a p, (f a p).2.calm = p.2.calm) (hs : p.2.calm = x) : (each f l p).2.calm = x := by
  induction l generalizing p with
  | nil => exact hs
  | cons a l ih => simp only [each]; exact ih ((h a p).trans hs)

theorem setReg_calm (off : Nat) (w : Word) (s : State) : (setReg off w s).calm = s.calm := rfl

theorem setFld_calm (f : Fld) (v : Nat) (s : State) : (setFld f v s).calm = s.calm := setReg_calm ..

theorem setFlag_calm (f : Fld) (s : State) : (setFlag f s).calm = s.calm := setFld_calm ..

theorem bumpN_calm (c n : Nat) (s : State) : (bumpN c n s).calm = s.calm := by
  unfold bumpN; split <;> rfl

theorem bump_calm (c : Nat) (s : State) : (bump c s).calm = s.calm := bumpN_calm ..

theorem takeFree_calm (s : State) : (takeFree s).2.calm = s.calm := rfl

theorem emit_calm (m : Msg) (s : State) : (emit m s).calm = s.calm := rfl

theorem setSeat_calm (i : Nat) (a : Seat) (s : State) : (setSeat i a s).calm = s.calm := rfl

theorem modSeat_calm (i : Nat) (f : Seat → Seat) (s : State) : (modSeat i f s).calm = s.calm := setSeat_calm ..

theorem setSide_calm (i : Nat) (a : Side) (s : State) : (setSide i a s).calm = s.calm := rfl

theorem modSide_calm (i : Nat) (f : Side → Side) (s : State) : (modSide i f s).calm = s.calm := setSide_calm ..

theorem modTenant_calm (t : Nat) (f : Tenant → Tenant) (s : State) : (modTenant t f s).calm = s.calm := rfl

theorem modCls_calm (c : Nat) (f : ClassSt → ClassSt) (s : State) : (modCls c f s).calm = s.calm := rfl

theorem modDeals_calm {f : Deals → Deals} {s : State} (h : (f s.deals).calm = s.deals.calm) : (modDeals f s).calm = s.calm := by
  simp only [modDeals, State.calm, h]

theorem modKv_calm {f : Kv → Kv} {s : State} (h : (f s.kv).calm = s.kv.calm) : (modKv f s).calm = s.calm := by
  simp only [modKv, State.calm, h]

theorem modSeq_calm {f : Seq → Seq} {s : State} (h : (f s.seq).calm = s.seq.calm) : (modSeq f s).calm = s.calm := by
  simp only [modSeq, State.calm, h]

theorem modPorts_calm {f : Ports → Ports} {s : State} (h : (f s.ports).calm = s.ports.calm) : (modPorts f s).calm = s.calm := by
  simp only [modPorts, State.calm, h]

theorem stageRec_calm (n : Nat) (r : TraceRec) (o : Obs) : (stageRec n r o).calm = o.calm := by
  unfold stageRec; split <;> rfl
theorem freezeTrace_calm (o : Obs) : (freezeTrace o).calm = o.calm := by
  unfold freezeTrace; rw [stageRec_calm]; rfl
theorem placeRec_calm (r : TraceRec) (o : Obs) : (placeRec r o).calm = o.calm := by
  unfold placeRec
  split
  · rw [stageRec_calm]; rfl
  · split
    · dsimp only
      split
      · rw [freezeTrace_calm]
        exact (show Obs.calm { stageRec _ _ _ with post := _ } = (stageRec _ _ _).calm from rfl).trans (stageRec_calm ..)
      · exact (show Obs.calm { stageRec _ _ _ with post := _ } = (stageRec _ _ _).calm from rfl).trans (stageRec_calm ..)
    · split <;> rfl
theorem fireTrace_calm (n : Nat) (r : TraceRec) (o : Obs) : (fireTrace n r o).calm = o.calm := by
  unfold fireTrace
  dsimp only
  split
  · rw [freezeTrace_calm, stageRec_calm]; rfl
  · rw [stageRec_calm]; rfl
theorem obs_calm {s : State} {o : Obs} (h : o.calm = s.obs.calm) : ({ s with obs := o } : State).calm = s.calm := by
  simp only [State.calm, h]
theorem gapPlaced_calm (o : Obs) : (placeRec (gapRec o.gap) { o with gap := 0 }).calm = o.calm := (placeRec_calm ..).trans rfl
theorem trace_calm (r : TraceRec) (s : State) : (trace r s).calm = s.calm := by
  unfold trace
  dsimp only
  repeat' first
    | with_reducible exact rfl
    | with_reducible apply ite_calm
    | with_reducible apply obs_calm
    | with_reducible refine (placeRec_calm ..).trans ?_
    | with_reducible refine (fireTrace_calm ..).trans ?_
    | with_reducible exact gapPlaced_calm _
    | split
    | exact rfl

theorem traceWait_calm (kind epoch wf waiter layer start detail : Nat) (s : State) :
    (traceWait kind epoch wf waiter layer start detail s).calm = s.calm := by
  unfold traceWait
  exact ite_calm (trace_calm ..) rfl

theorem modObj_calm (kind id slot : Nat) (f : ObjSlot → ObjSlot) (s : State) : (modObj kind id slot f s).calm = s.calm := rfl

theorem retireObj_calm (kind id slot : Nat) (s : State) : (retireObj kind id slot s).calm = s.calm := by
  unfold retireObj
  dsimp only
  repeat' first
    | with_reducible (first
      | exact rfl | apply ite_calm | refine (bump_calm ..).trans ?_ | refine (modKv_calm ?_).trans ?_
      | refine (modObj_calm ..).trans ?_)
    | split
    | exact rfl

theorem unpinObj_calm (kind id slot : Nat) (s : State) : (unpinObj kind id slot s).calm = s.calm := retireObj_calm ..

theorem modModel_calm (m v : Nat) (f : ModelSlot → ModelSlot) (s : State) : (modModel m v f s).calm = s.calm := rfl

theorem dropFetches_calm (m v : Nat) (s : State) : (dropFetches m v s).calm = s.calm := rfl

theorem retireModel_calm (m v : Nat) (s : State) : (retireModel m v s).calm = s.calm := by
  unfold retireModel
  dsimp only
  repeat' first
    | with_reducible (first
      | exact rfl | apply ite_calm | refine (bump_calm ..).trans ?_ | refine (modSeq_calm ?_).trans ?_
      | refine (modModel_calm ..).trans ?_ | refine (dropFetches_calm ..).trans ?_)
    | split
    | exact rfl

theorem unpinModel_calm (m v : Nat) (s : State) : (unpinModel m v s).calm = s.calm := retireModel_calm ..

theorem dropPins_calm (i : Nat) (s : State) : (dropPins i s).calm = s.calm := by
  unfold dropPins
  dsimp only
  repeat' first
    | with_reducible (first
      | exact rfl | apply ite_calm | refine (unpinObj_calm ..).trans ?_ | refine (unpinModel_calm ..).trans ?_)
    | split
    | exact rfl

theorem debit_calm (i : Nat) (n : Int) (s : State) : (debit i n s).calm = s.calm := rfl

theorem settle_calm (i reason : Nat) (s : State) : (settle i reason s).calm = s.calm := by
  unfold settle; split <;> rfl

theorem freeSeat_calm (i : Nat) (s : State) : (freeSeat i s).calm = s.calm := by
  unfold freeSeat; split <;> rfl

theorem releaseIndex_calm (i : Nat) (s : State) : (releaseIndex i s).calm = s.calm := by
  unfold releaseIndex; split <;> simp only [dropPins_calm, freeSeat_calm]

theorem closeLeaves_calm (i : Nat) (s : State) : (closeLeaves i s).2.calm = s.calm := by
  unfold closeLeaves
  dsimp only
  repeat' first
    | with_reducible (first
      | exact rfl | apply ite_calm | refine (bump_calm ..).trans ?_ | refine (settle_calm ..).trans ?_
      | refine (releaseIndex_calm ..).trans ?_)
    | split
    | exact rfl

theorem modSess_calm (p : Port) (peer : Nat) (f : Sess → Sess) (s : State) : (modSess p peer f s).calm = s.calm := rfl

theorem portCnt_calm (p : Port) (k n : Nat) (s : State) : (portCnt p k n s).calm = s.calm := by
  unfold portCnt; split <;> simp only [bumpN_calm]

theorem keptAlive_calm (peer : Nat) (s : State) : (keptAlive peer s).calm = s.calm := rfl

theorem depart_calm (m : Msg) (s : State) : (depart m s).calm = s.calm := by
  unfold depart
  dsimp only
  repeat' first
    | with_reducible (first
      | exact rfl | apply ite_calm | refine (bump_calm ..).trans ?_ | refine (emit_calm ..).trans ?_
      | refine (portCnt_calm ..).trans ?_ | refine (keptAlive_calm ..).trans ?_)
    | split
    | exact rfl

theorem sendCredit_calm (p : Port) (peer : Nat) (opened : Bool) (beats : Nat) (es : List (Nat × Nat)) (s : State) :
    (sendCredit p peer opened beats es s).calm = s.calm := by
  simp only [sendCredit, bump_calm, depart_calm]

theorem sendNotReady_calm (p : Port) (peer op : Nat) (word1 : Word) (s : State) :
    (sendNotReady p peer op word1 s).calm = s.calm := by
  simp only [sendNotReady, setFlag_calm, portCnt_calm, depart_calm]

theorem useCredit_calm (i : OutItem) (s : State) : (useCredit i s).calm = s.calm := by
  unfold useCredit; split <;> rfl

theorem countTokens_calm (seat k : Nat) (s : State) : (countTokens seat k s).calm = s.calm := by
  unfold countTokens
  dsimp only
  repeat' first
    | with_reducible (first
      | exact rfl | apply ite_calm | refine (bump_calm ..).trans ?_ | refine (modCls_calm ..).trans ?_)
    | split
    | exact rfl

theorem recordConsumed_calm (s : State) : (recordConsumed s).calm = s.calm := rfl

theorem returnCredit_calm (p : Port) (peer cls n beats : Nat) (s : State) :
    (returnCredit p peer cls n beats s).calm = s.calm := by
  unfold returnCredit
  dsimp only
  repeat' first
    | with_reducible (first
      | exact rfl | apply ite_calm | refine (modSess_calm ..).trans ?_ | refine (sendCredit_calm ..).trans ?_)
    | split
    | exact rfl

theorem openCreditBut_calm (n : Nat) (s : State) : (openCreditBut n s).calm = s.calm := by
  unfold openCreditBut
  dsimp only
  repeat' first
    | with_reducible (first
      | exact rfl | apply ite_calm | refine (returnCredit_calm ..).trans ?_)
    | split
    | exact rfl

theorem queryLeft_calm (seat layer : Nat) (s : State) : (queryLeft seat layer s).calm = s.calm := rfl

theorem partialLeft_calm (seat more : Nat) (s : State) : (partialLeft seat more s).calm = s.calm := rfl

theorem leave_calm (i : OutItem) (waited : Bool) (s : State) : (leave i waited s).calm = s.calm := by
  unfold leave
  dsimp only
  repeat' first
    | with_reducible (first
      | exact rfl | apply ite_calm | refine (modSide_calm ..).trans ?_ | refine (traceWait_calm ..).trans ?_
      | refine (freeSeat_calm ..).trans ?_ | refine (closeLeaves_calm ..).trans ?_ | refine (depart_calm ..).trans ?_
      | refine (countTokens_calm ..).trans ?_ | refine (recordConsumed_calm ..).trans ?_
      | refine (openCreditBut_calm ..).trans ?_ | refine (queryLeft_calm ..).trans ?_ | refine (partialLeft_calm ..).trans ?_)
    | split
    | exact rfl

theorem send_calm (i : OutItem) (s : State) : (send i s).calm = s.calm := by
  unfold send
  dsimp only
  repeat' first
    | with_reducible (first
      | exact rfl | apply ite_calm | refine (setFlag_calm ..).trans ?_ | refine (bump_calm ..).trans ?_
      | refine (modPorts_calm ?_).trans ?_ | refine (useCredit_calm ..).trans ?_ | refine (leave_calm ..).trans ?_)
    | split
    | exact rfl

theorem sendMsg_calm (m : Msg) (cls : Nat) (s : State) : (sendMsg m cls s).calm = s.calm := send_calm ..

theorem sendFor_calm (m : Msg) (cls i kind ntok : Nat) (s : State) :
    (sendFor m cls i kind ntok s).calm = s.calm := send_calm ..

theorem drainPass_calm (k l : List OutItem) (s : State) : (drainPass k l s).1.calm = s.calm := by
  induction l generalizing k s with
  | nil => rfl
  | cons i r ih =>
    simp only [drainPass]
    split
    · rw [ih, leave_calm, useCredit_calm]
    · rw [ih]

theorem drain_calm (s : State) : (drain s).calm = s.calm := by
  unfold drain
  dsimp only
  repeat' first
    | with_reducible (first
      | exact rfl | refine (modPorts_calm ?_).trans ?_ | refine (drainPass_calm ..).trans ?_)
    | exact rfl

theorem dropQueue_calm (p : Port) (peer : Nat) (s : State) : (dropQueue p peer s).calm = s.calm := rfl

theorem overrun_calm (p : Port) (peer n : Nat) (s : State) : (overrun p peer n s).calm = s.calm := rfl

theorem greeted_calm (p : Port) (peer cls beats : Nat) (s : State) : (greeted p peer cls beats s).2.calm = s.calm := by
  unfold greeted
  dsimp only
  repeat' first
    | with_reducible (first
      | exact rfl | apply ite_calm | refine (takeFree_calm ..).trans ?_)
    | split
    | exact rfl

theorem arrive_calm (p : Port) (peer cls op : Nat) (word1 : Word) (beats : Nat) (s : State) :
    (arrive p peer cls op word1 beats s).2.calm = s.calm := by
  unfold arrive
  dsimp only
  repeat' first
    | with_reducible (first
      | exact rfl | apply ite_calm | refine (setFlag_calm ..).trans ?_ | refine (bump_calm ..).trans ?_
      | refine (modSess_calm ..).trans ?_ | refine (portCnt_calm ..).trans ?_ | refine (sendNotReady_calm ..).trans ?_
      | refine (overrun_calm ..).trans ?_ | refine (greeted_calm ..).trans ?_)
    | split
    | exact rfl

theorem taking_calm {p : Port} {peer cls op : Nat} {word1 : Word} {beats : Nat} {f : State → State} {s : State} {x : State}
    (hf : ∀ s, (f s).calm = s.calm) (hs : s.calm = x) : (taking p peer cls op word1 beats f s).calm = x := by
  have h := arrive_calm p peer cls op word1 beats s
  unfold taking
  split <;> rename_i e <;> rw [e] at h
  · rw [hf, returnCredit_calm]; exact h.trans hs
  · exact h.trans hs

theorem sendN_calm (peer op cls : Nat) (w0 : List (Nat × Nat)) (rest : List Word) (beats : Nat) (pay : List Word) (s : State) :
    (sendN peer op cls w0 rest beats pay s).calm = s.calm := sendMsg_calm ..

theorem modBlk_calm (b : Nat) (f : Blk → Blk) (s : State) : (modBlk b f s).calm = s.calm := rfl

theorem setIdx_calm (n : Nat) (e : IdxEnt) (s : State) : (setIdx n e s).calm = s.calm := rfl

theorem clearLocal_calm (b : Nat) (s : State) : (clearLocal b s).calm = s.calm := by
  unfold clearLocal
  dsimp only
  repeat' first
    | with_reducible (first
      | exact rfl | apply ite_calm | refine (modBlk_calm ..).trans ?_ | refine (setIdx_calm ..).trans ?_)
    | split
    | exact rfl

theorem setChain_calm (i : Nat) (l : List Nat) (s : State) : (setChain i l s).calm = s.calm := modSeat_calm ..

theorem dropRef_calm (i b : Nat) (s : State) : (dropRef i b s).calm = s.calm := by
  unfold dropRef
  dsimp only
  repeat' first
    | with_reducible (first
      | exact rfl | apply ite_calm | refine (modBlk_calm ..).trans ?_ | refine (clearLocal_calm ..).trans ?_)
    | split
    | exact rfl

theorem dropChain_calm (i : Nat) (s : State) : (dropChain i s).calm = s.calm := by
  unfold dropChain
  repeat' first
    | with_reducible (first
      | exact rfl | apply each_calm | intro _ _ | intro _ | refine (setChain_calm ..).trans ?_
      | refine (dropRef_calm ..).trans ?_)
    | exact rfl

theorem cutChain_calm (i n : Nat) (s : State) : (cutChain i n s).calm = s.calm := by
  unfold cutChain
  dsimp only
  repeat' first
    | with_reducible (first
      | exact rfl | apply each_calm | intro _ _ | intro _ | refine (setChain_calm ..).trans ?_
      | refine (dropRef_calm ..).trans ?_)
    | exact rfl

theorem newTag_calm (u : TagUse) (s : State) : (newTag u s).2.calm = s.calm := rfl

theorem putBlock_calm (u : TagUse) (b : Nat) (s : State) : (putBlock u b s).calm = s.calm := by
  simp only [putBlock, bump_calm, sendMsg_calm, modBlk_calm, newTag_calm]

theorem spendLeaseC_calm (i : Nat) (s : State) : (spendLeaseC i s).calm = s.calm := by
  unfold spendLeaseC; split <;> rfl

theorem fetchHandle_calm (op : Nat) (u : TagUse) (handle : Nat) (s : State) : (fetchHandle op u handle s).calm = s.calm := by
  unfold fetchHandle; split <;> simp only [sendMsg_calm, newTag_calm, spendLeaseC_calm]

theorem dropImage_calm (handle : Nat) (s : State) : (dropImage handle s).calm = s.calm := sendMsg_calm ..

theorem closeOut_calm (i : Nat) (s : State) : (closeOut i s).calm = s.calm := by
  unfold closeOut
  dsimp only
  repeat' first
    | with_reducible (first
      | exact rfl | apply ite_calm | refine (bump_calm ..).trans ?_ | refine (modSide_calm ..).trans ?_
      | refine (sendFor_calm ..).trans ?_)
    | split
    | exact rfl

theorem closeFollowers_calm (i reason : Nat) (s : State) : (closeFollowers i reason s).calm = s.calm := by
  unfold closeFollowers
  dsimp only
  repeat' first
    | with_reducible (first
      | exact rfl | apply ite_calm | apply each_calm | intro _ _ | intro _ | refine (sendN_calm ..).trans ?_)
    | split
    | exact rfl

theorem abandonShip_calm (i : Nat) (s : State) : (abandonShip i s).calm = s.calm := by
  unfold abandonShip
  dsimp only
  repeat' first
    | with_reducible (first
      | exact rfl | apply ite_calm | refine (modSide_calm ..).trans ?_ | refine (sendMsg_calm ..).trans ?_)
    | split
    | exact rfl

theorem endSplit_calm (i : Nat) (s : State) : (endSplit i s).calm = s.calm := by
  unfold endSplit
  dsimp only
  repeat' first
    | with_reducible (first
      | exact rfl | apply ite_calm | refine (modDeals_calm ?_).trans ?_)
    | split
    | exact rfl

theorem dropRun_calm (i : Nat) (s : State) : (dropRun i s).calm = s.calm := by
  unfold dropRun
  try dsimp only
  repeat' first
    | with_reducible (first
      | exact rfl | apply each_calm | apply each2_calm | intro _ _ | intro _ | refine (modSide_calm ..).trans ?_
      | refine (dropRef_calm ..).trans ?_ | (unfold State.calm; exact rfl))
    | split
    | (rename_i h; have h := congrArg (fun x => State.calm (Prod.snd x)) h; simp only [modSide_calm, dropRef_calm] at h; exact h.symm)
    | exact rfl
    | (simp only [*]; done)

theorem closedToFree_calm (i : Nat) (s : State) : (closedToFree i s).calm = s.calm := by
  unfold closedToFree
  dsimp only
  repeat' first
    | with_reducible (first
      | exact rfl | apply ite_calm | apply each_calm | intro _ _ | intro _ | refine (releaseIndex_calm ..).trans ?_
      | refine (dropChain_calm ..).trans ?_ | refine (putBlock_calm ..).trans ?_ | refine (dropImage_calm ..).trans ?_
      | refine (endSplit_calm ..).trans ?_ | refine (dropRun_calm ..).trans ?_)
    | split
    | exact rfl

theorem enterClosed_calm (i : Nat) (s : State) : (enterClosed i s).calm = s.calm := by
  unfold enterClosed
  dsimp only
  repeat' first
    | with_reducible (first
      | exact rfl | apply ite_calm | refine (modSeat_calm ..).trans ?_ | refine (modTenant_calm ..).trans ?_
      | refine (modCls_calm ..).trans ?_ | refine (settle_calm ..).trans ?_ | refine (closeFollowers_calm ..).trans ?_
      | refine (closedToFree_calm ..).trans ?_)
    | split
    | exact rfl

theorem closeDirect_calm (i reason : Nat) (s : State) : (closeDirect i reason s).calm = s.calm := by
  simp only [closeDirect, modSeat_calm, closeOut_calm, abandonShip_calm, enterClosed_calm]

theorem enterDraining_calm (i reason : Nat) (s : State) : (enterDraining i reason s).calm = s.calm := modSeat_calm ..

theorem finishDraining_calm (i : Nat) (s : State) : (finishDraining i s).calm = s.calm := by
  unfold finishDraining; split <;> simp only [closeOut_calm, enterClosed_calm]

theorem closeSeat_calm (i reason : Nat) (s : State) : (closeSeat i reason s).calm = s.calm := by
  unfold closeSeat
  dsimp only
  repeat' first
    | with_reducible (first
      | exact rfl | apply ite_calm | refine (modSide_calm ..).trans ?_ | refine (closeOut_calm ..).trans ?_
      | refine (closeDirect_calm ..).trans ?_ | refine (enterDraining_calm ..).trans ?_
      | refine (finishDraining_calm ..).trans ?_)
    | split
    | exact rfl

theorem tellFollowers_calm (op i : Nat) (s : State) : (tellFollowers op i s).calm = s.calm := by
  unfold tellFollowers
  dsimp only
  repeat' first
    | with_reducible (first
      | exact rfl | apply ite_calm | apply each_calm | intro _ _ | intro _ | refine (sendN_calm ..).trans ?_)
    | split
    | exact rfl

theorem pauseSeat_calm (i epoch : Nat) (s : State) : (pauseSeat i epoch s).calm = s.calm := by
  unfold pauseSeat
  dsimp only
  repeat' first
    | with_reducible (first
      | exact rfl | apply ite_calm | refine (bump_calm ..).trans ?_ | refine (modSeat_calm ..).trans ?_
      | refine (modSide_calm ..).trans ?_ | refine (modPorts_calm ?_).trans ?_ | refine (tellFollowers_calm ..).trans ?_)
    | split
    | exact rfl

theorem requestPause_calm (i : Nat) (why : BitVec 64) (s : State) : (requestPause i why s).calm = s.calm := modSeat_calm ..

theorem atOnceSeat_calm (i : Nat) (s : State) : (atOnceSeat i s).calm = s.calm := by
  unfold atOnceSeat
  dsimp only
  repeat' first
    | with_reducible (first
      | exact rfl | apply ite_calm | refine (closeOut_calm ..).trans ?_ | refine (enterDraining_calm ..).trans ?_
      | refine (finishDraining_calm ..).trans ?_ | refine (pauseSeat_calm ..).trans ?_)
    | split
    | exact rfl

theorem idleActions_calm (s : State) : (idleActions s).calm = s.calm := by
  unfold idleActions
  repeat' first
    | with_reducible (first
      | exact rfl | apply ite_calm | apply each_calm | intro _ _ | intro _ | refine (atOnceSeat_calm ..).trans ?_)
    | split
    | exact rfl

theorem sendSplitOpened_calm (peer : Nat) (reqid : Word) (seat gen self : Nat) (refused : Bool) (hits : Nat) (s : State) :
    (sendSplitOpened peer reqid seat gen self refused hits s).calm = s.calm := sendN_calm ..

theorem stretchFail_calm (i : Nat) (s : State) : (stretchFail i s).calm = s.calm := by
  simp only [stretchFail, closeSeat_calm, sendSplitOpened_calm]

theorem mismatch_calm (s : State) : (mismatch s).calm = s.calm := setFlag_calm ..

theorem stretchOne_calm (i : Nat) (s : State) : (stretchOne i s).2.calm = s.calm := by
  unfold stretchOne
  dsimp only
  repeat' first
    | with_reducible (first
      | exact rfl | apply ite_calm | refine (modSide_calm ..).trans ?_ | refine (stretchFail_calm ..).trans ?_
      | refine (mismatch_calm ..).trans ?_)
    | split
    | exact rfl

theorem stretchStep_calm (i f : Nat) (s : State) : (stretchStep i f s).calm = s.calm := by
  induction f generalizing s with
  | zero => rfl
  | succ f ih =>
    simp only [stretchStep]
    split
    · exact stretchOne_calm i s
    · split
      · rw [modSeat_calm, stretchOne_calm]
      · rw [ih, stretchOne_calm]

theorem issueOne_calm (i j b : Nat) (s : State) : (issueOne i j b s).calm = s.calm := by
  unfold issueOne
  dsimp only
  repeat' first
    | with_reducible (first
      | exact rfl | apply ite_calm | refine (modBlk_calm ..).trans ?_ | refine (fetchHandle_calm ..).trans ?_)
    | split
    | exact rfl

theorem issueFetches_calm (i : Nat) (s : State) : (issueFetches i s).calm = s.calm := by
  unfold issueFetches
  try dsimp only
  repeat' first
    | with_reducible (first
      | exact rfl | apply each_calm | apply each2_calm | intro _ _ | intro _ | refine (issueOne_calm ..).trans ?_
      | (unfold State.calm; exact rfl))
    | split
    | (rename_i h; have h := congrArg (fun x => State.calm (Prod.snd x)) h; simp only [issueOne_calm] at h; exact h.symm)
    | exact rfl
    | (simp only [*]; done)

theorem issueOwed_calm (i : Nat) (s : State) : (issueOwed i s).calm = s.calm := by
  unfold issueOwed
  dsimp only
  repeat' first
    | with_reducible (first
      | exact rfl | apply ite_calm | apply each_calm | intro _ _ | intro _ | refine (fetchHandle_calm ..).trans ?_)
    | split
    | exact rfl

theorem fetchStep_calm (s : State) : (fetchStep s).calm = s.calm := by
  unfold fetchStep
  dsimp only
  repeat' first
    | with_reducible (first
      | exact rfl | apply each_calm | intro _ _ | intro _ | refine (issueFetches_calm ..).trans ?_
      | refine (issueOwed_calm ..).trans ?_)
    | exact rfl

theorem badPrompt_calm (i : Nat) (s : State) : (badPrompt i s).calm = s.calm := closeSeat_calm ..

theorem storeToks_calm (i : Nat) (l : List (BitVec 20)) (s : State) : (storeToks i l s).calm = s.calm := rfl

theorem hotEvict_calm (k : Nat) (s : State) : (hotEvict k s).calm = s.calm := bump_calm ..

theorem hotStart_calm (m v : Nat) (s : State) : (hotStart m v s).calm = s.calm := by
  unfold hotStart
  dsimp only
  repeat' first
    | with_reducible (first
      | exact rfl | apply ite_calm | apply each_calm | intro _ _ | intro _ | refine (bump_calm ..).trans ?_
      | refine (modSeq_calm ?_).trans ?_ | refine (modModel_calm ..).trans ?_ | refine (hotEvict_calm ..).trans ?_)
    | split
    | exact rfl

theorem hotRetry_calm (s : State) : (hotRetry s).calm = s.calm := by
  unfold hotRetry
  try dsimp only
  repeat' first
    | with_reducible (first
      | exact rfl | apply each_calm | apply each2_calm | intro _ _ | intro _ | refine (hotStart_calm ..).trans ?_
      | (unfold State.calm; exact rfl))
    | exact rfl
    | (simp only [*]; done)

theorem endHold_calm (cut : Bool) (s : State) : (endHold cut s).calm = s.calm := by
  unfold endHold
  split
  · rfl
  · dsimp only
    refine (modDeals_calm ?_).trans ?_
    · simp only [Deals.calm, Option.map_map]; rfl
    · rw [trace_calm, bumpN_calm]
      exact ite_calm (ite_calm rfl (bump_calm ..)) ((bump_calm ..).trans (ite_calm rfl (bump_calm ..)))

theorem holdStep_calm (s : State) : (holdStep s).calm = s.calm := by
  unfold holdStep
  try dsimp only
  repeat' first
    | with_reducible (first
      | exact rfl | apply ite_calm | refine (modDeals_calm ?_).trans ?_ | refine (endHold_calm ..).trans ?_
      | (unfold State.calm; exact rfl))
    | split
    | (rename_i h; have h := congrArg (fun x => State.calm (Prod.snd x)) h; simp only [modDeals_calm, endHold_calm] at h; exact h.symm)
    | exact rfl
    | (simp only [*]; done)

theorem putImage_calm (i : Nat) (s : State) : (putImage i s).calm = s.calm := by
  unfold putImage
  dsimp only
  repeat' first
    | with_reducible (first
      | exact rfl | refine (sendMsg_calm ..).trans ?_ | refine (newTag_calm ..).trans ?_)
    | split
    | exact rfl

theorem spillStep_calm (i : Nat) (s : State) : (spillStep i s).calm = s.calm := by
  unfold spillStep
  repeat' first
    | with_reducible (first
      | exact rfl | apply ite_calm | refine (putImage_calm ..).trans ?_)
    | split
    | exact rfl

theorem spillFail_calm (i : Nat) (s : State) : (spillFail i s).calm = s.calm := modSide_calm ..

theorem orderSpill_calm (i : Nat) (s : State) : (orderSpill i s).calm = s.calm := by
  unfold orderSpill
  try dsimp only
  repeat' first
    | with_reducible (first
      | exact rfl | apply ite_calm | apply each_calm | apply each2_calm | intro _ _ | intro _
      | refine (modSide_calm ..).trans ?_ | refine (modBlk_calm ..).trans ?_ | refine (cutChain_calm ..).trans ?_
      | refine (putBlock_calm ..).trans ?_ | refine (spillStep_calm ..).trans ?_ | refine (spillFail_calm ..).trans ?_
      | (unfold State.calm; exact rfl))
    | split
    | exact rfl
    | (simp only [*]; done)

theorem spillOne_calm (epoch i : Nat) (s : State) : (spillOne epoch i s).calm = s.calm := by
  unfold spillOne
  dsimp only
  repeat' first
    | with_reducible (first
      | exact rfl | apply ite_calm | refine (orderSpill_calm ..).trans ?_)
    | split
    | exact rfl

theorem spillOrders_calm (epoch : Nat) (s : State) : (spillOrders epoch s).calm = s.calm := by
  unfold spillOrders
  repeat' first
    | with_reducible (first
      | exact rfl | apply each_calm | intro _ _ | intro _ | refine (spillOne_calm ..).trans ?_)
    | exact rfl

theorem lowStep_calm (s : State) : (lowStep s).calm = s.calm := by
  unfold lowStep
  dsimp only
  repeat' first
    | with_reducible (first
      | exact rfl | apply ite_calm | refine (modKv_calm ?_).trans ?_ | refine (spillOrders_calm ..).trans ?_)
    | split
    | exact rfl

theorem forwardPrompt_calm (i : Nat) (m : PromptMsg) (s : State) : (forwardPrompt i m s).calm = s.calm := by
  unfold forwardPrompt
  dsimp only
  repeat' first
    | with_reducible (first
      | exact rfl | apply ite_calm | apply each_calm | intro _ _ | intro _ | refine (sendN_calm ..).trans ?_)
    | split
    | exact rfl

theorem promptTokens_calm (i : Nat) (m : PromptMsg) (s : State) : (promptTokens i m s).calm = s.calm := by
  unfold promptTokens; split <;> simp only [stretchStep_calm, storeToks_calm, forwardPrompt_calm]

theorem promptTaken_calm (p : Port) (peer : Nat) (m : PromptMsg) (s : State) : (promptTaken p peer m s).calm = s.calm := by
  unfold promptTaken
  dsimp only
  repeat' first
    | with_reducible (first
      | exact rfl | apply ite_calm | refine (setFlag_calm ..).trans ?_ | refine (bump_calm ..).trans ?_
      | refine (modKv_calm ?_).trans ?_ | refine (returnCredit_calm ..).trans ?_ | refine (badPrompt_calm ..).trans ?_
      | refine (promptTokens_calm ..).trans ?_)
    | split
    | exact rfl

theorem retryHeld_calm (f : Nat) (s : State) : (retryHeld f s).calm = s.calm := by
  induction f generalizing s with
  | zero => rfl
  | succ f ih =>
    unfold retryHeld
    dsimp only
    repeat' first
      | with_reducible exact rfl
      | with_reducible apply ite_calm
      | with_reducible refine (ih ..).trans ?_
      | with_reducible refine (promptTaken_calm ..).trans ?_
      | exact rfl
      | split

theorem finish_calm (s : State) : (finish s).calm = s.calm := by
  simp only [finish, drain_calm, idleActions_calm, fetchStep_calm, hotRetry_calm, holdStep_calm, lowStep_calm, retryHeld_calm]

theorem heard_calm (peer : Nat) (s : State) : (heard peer s).calm = s.calm := rfl

theorem drawLent_calm (peer el beats : Nat) (s : State) : (drawLent peer el beats s).calm = s.calm := rfl

theorem underLease_calm (peer el beats : Nat) (s : State) : (underLease peer el beats s).2.calm = s.calm := by
  unfold underLease; split <;> rfl

end Sys2Proof.Machine
end

