-- ==== Sys2Proof/Laws/CoreRequests.lean ====
section
/-! SUPPORT. What each shared operation does to the core of the state (`State.core`): nothing, but for those named here. The shared operations, the pots, the links, KV and the life of a seat. -/
namespace Sys2Proof.Machine

theorem ite_core {c : Prop} [Decidable c] {a b : State} {x : Core} (ha : a.core = x) (hb : b.core = x) :
    (if c then a else b).core = x := by
  split <;> assumption

theorem each_core {α : Type} {f : α → State → State} {l : List α} {s : State} {x : Core} (h : ∀ a s, (f a s).core = s.core)
    (hs : s.core = x) : (each f l s).core = x := by
  induction l generalizing s with
  | nil => exact hs
  | cons a l ih => simp only [each]; exact ih ((h a s).trans hs)

theorem each2_core {α β : Type} {f : α → β × State → β × State} {l : List α} {p : β × State} {x : Core}
    (h : ∀ a p, (f a p).2.core = p.2.core) (hs : p.2.core = x) : (each f l p).2.core = x := by
  induction l generalizing p with
  | nil => exact hs
  | cons a l ih => simp only [each]; exact ih ((h a p).trans hs)

theorem setReg_core (off : Nat) (w : Word) (s : State) : (setReg off w s).core = s.core := rfl

theorem setFld_core (f : Fld) (v : Nat) (s : State) : (setFld f v s).core = s.core := setReg_core ..

theorem setFlag_core (f : Fld) (s : State) : (setFlag f s).core = s.core := setFld_core ..

theorem bumpN_core (c n : Nat) (s : State) : (bumpN c n s).core = s.core := by
  unfold bumpN; split <;> rfl

theorem bump_core (c : Nat) (s : State) : (bump c s).core = s.core := bumpN_core ..

theorem takeFree_core (s : State) : (takeFree s).2.core = s.core := rfl

theorem emit_core (m : Msg) (s : State) : (emit m s).core = s.core := rfl

theorem setSeat_core (i : Nat) (a : Seat) (s : State) : (setSeat i a s).core = s.core := rfl

theorem modSeat_core (i : Nat) (f : Seat → Seat) (s : State) : (modSeat i f s).core = s.core := setSeat_core ..

theorem setSide_core (i : Nat) (a : Side) (s : State) : (setSide i a s).core = s.core := rfl

theorem modSide_core (i : Nat) (f : Side → Side) (s : State) : (modSide i f s).core = s.core := setSide_core ..

theorem modTenant_core (t : Nat) (f : Tenant → Tenant) (s : State) : (modTenant t f s).core = s.core := rfl

theorem modCls_core (c : Nat) (f : ClassSt → ClassSt) (s : State) : (modCls c f s).core = s.core := rfl

theorem modLed_core (f : Ledger → Ledger) (s : State) : (modLed f s).core = s.core := rfl

theorem modDeals_core (f : Deals → Deals) (s : State) : (modDeals f s).core = s.core := rfl

theorem modSieve_core (f : SieveSt → SieveSt) (s : State) : (modSieve f s).core = s.core := rfl

theorem modKv_core (f : Kv → Kv) (s : State) : (modKv f s).core = s.core := rfl

theorem modSeq_core (f : Seq → Seq) (s : State) : (modSeq f s).core = s.core := rfl

theorem modPorts_core (f : Ports → Ports) (s : State) : (modPorts f s).core = s.core := rfl

theorem modObs_core (f : Obs → Obs) (s : State) : (modObs f s).core = s.core := rfl

theorem modPwr_core {f : Power → Power} {s : State}
    (h : ((f s.pwr).started, (f s.pwr).state, (f s.pwr).mode, (f s.pwr).mainGood, (f s.pwr).applied)
      = (s.pwr.started, s.pwr.state, s.pwr.mode, s.pwr.mainGood, s.pwr.applied)) : (modPwr f s).core = s.core := by
  simp only [Prod.mk.injEq] at h
  obtain ⟨a, b, c, d, e⟩ := h
  simp only [modPwr, State.core, a, b, c, d, e]

theorem trace_core (r : TraceRec) (s : State) : (trace r s).core = s.core := by
  unfold trace
  dsimp only
  repeat' first
    | with_reducible (first
      | exact rfl | apply ite_core)
    | split
    | exact rfl

theorem traceWait_core (kind epoch wf waiter layer start : Nat) (detail : Nat) (s : State) :
    (traceWait kind epoch wf waiter layer start detail s).core = s.core := by
  unfold traceWait
  dsimp only
  repeat' first
    | with_reducible (first
      | exact rfl | apply ite_core | refine (trace_core ..).trans ?_)
    | split
    | exact rfl

theorem modObj_core (kind id slot : Nat) (f : ObjSlot → ObjSlot) (s : State) :
    (modObj kind id slot f s).core = s.core := modKv_core ..

theorem retireObj_core (kind id slot : Nat) (s : State) : (retireObj kind id slot s).core = s.core := by
  unfold retireObj
  dsimp only
  repeat' first
    | with_reducible (first
      | exact rfl | apply ite_core | refine (bump_core ..).trans ?_ | refine (modKv_core ..).trans ?_
      | refine (modObj_core ..).trans ?_)
    | split
    | exact rfl

theorem pinObj_core (kind id slot : Nat) (s : State) : (pinObj kind id slot s).core = s.core := modObj_core ..

theorem unpinObj_core (kind id slot : Nat) (s : State) : (unpinObj kind id slot s).core = s.core := retireObj_core ..

theorem modModel_core (m v : Nat) (f : ModelSlot → ModelSlot) (s : State) :
    (modModel m v f s).core = s.core := modSeq_core ..

theorem dropFetches_core (m v : Nat) (s : State) : (dropFetches m v s).core = s.core := rfl

theorem retireModel_core (m v : Nat) (s : State) : (retireModel m v s).core = s.core := by
  unfold retireModel
  dsimp only
  repeat' first
    | with_reducible (first
      | exact rfl | apply ite_core | refine (bump_core ..).trans ?_ | refine (modSeq_core ..).trans ?_
      | refine (modModel_core ..).trans ?_ | refine (dropFetches_core ..).trans ?_)
    | split
    | exact rfl

theorem pinModel_core (m v : Nat) (s : State) : (pinModel m v s).core = s.core := modModel_core ..

theorem unpinModel_core (m v : Nat) (s : State) : (unpinModel m v s).core = s.core := retireModel_core ..

theorem takePins_core (i : Nat) (s : State) : (takePins i s).core = s.core := by
  unfold takePins
  dsimp only
  repeat' first
    | with_reducible (first
      | exact rfl | apply ite_core | refine (pinObj_core ..).trans ?_ | refine (pinModel_core ..).trans ?_)
    | split
    | exact rfl

theorem dropPins_core (i : Nat) (s : State) : (dropPins i s).core = s.core := by
  unfold dropPins
  dsimp only
  repeat' first
    | with_reducible (first
      | exact rfl | apply ite_core | refine (unpinObj_core ..).trans ?_ | refine (unpinModel_core ..).trans ?_)
    | split
    | exact rfl

theorem debit_core (i : Nat) (n : Int) (s : State) : (debit i n s).core = s.core := rfl

theorem settle_core (i reason : Nat) (s : State) : (settle i reason s).core = s.core := by
  unfold settle; split <;> rfl

theorem freeSeat_core (i : Nat) (s : State) : (freeSeat i s).core = s.core := by
  unfold freeSeat; split <;> rfl

theorem releaseIndex_core (i : Nat) (s : State) : (releaseIndex i s).core = s.core := by
  unfold releaseIndex; split <;> simp only [dropPins_core, freeSeat_core]

theorem closeLeaves_core (i : Nat) (s : State) : (closeLeaves i s).2.core = s.core := by
  unfold closeLeaves
  dsimp only
  repeat' first
    | with_reducible (first
      | exact rfl | apply ite_core | refine (bump_core ..).trans ?_ | refine (settle_core ..).trans ?_
      | refine (releaseIndex_core ..).trans ?_)
    | split
    | exact rfl

theorem modGate_core (g : Nat) (f : GateSt → GateSt) (s : State) : (modGate g f s).core = s.core := rfl

theorem modPath_core (g p : Nat) (f : PathSt → PathSt) (s : State) : (modPath g p f s).core = s.core := modGate_core ..

theorem modReq_core (g p r : Nat) (f : Req → Req) (s : State) : (modReq g p r f s).core = s.core := modGate_core ..

theorem modSess_core (p : Port) (peer : Nat) (f : Sess → Sess) (s : State) :
    (modSess p peer f s).core = s.core := modPorts_core ..

theorem portCnt_core (p : Port) (k n : Nat) (s : State) : (portCnt p k n s).core = s.core := by
  unfold portCnt; split <;> simp only [bumpN_core]

theorem keptAlive_core (peer : Nat) (s : State) : (keptAlive peer s).core = s.core := modDeals_core ..

theorem depart_core (m : Msg) (s : State) : (depart m s).core = s.core := by
  unfold depart
  dsimp only
  repeat' first
    | with_reducible (first
      | exact rfl | apply ite_core | refine (bump_core ..).trans ?_ | refine (emit_core ..).trans ?_
      | refine (portCnt_core ..).trans ?_ | refine (keptAlive_core ..).trans ?_)
    | split
    | exact rfl

theorem sendCredit_core (p : Port) (peer : Nat) (opened : Bool) (beats : Nat) (es : List (Nat × Nat)) (s : State) :
    (sendCredit p peer opened beats es s).core = s.core := by
  simp only [sendCredit, bump_core, depart_core]

theorem sendHello_core (p : Port) (peer : Nat) (s : State) : (sendHello p peer s).core = s.core := by
  simp only [sendHello, modSess_core, depart_core]

theorem sendNotReady_core (p : Port) (peer op : Nat) (word1 : Word) (s : State) :
    (sendNotReady p peer op word1 s).core = s.core := by
  simp only [sendNotReady, setFlag_core, portCnt_core, depart_core]

theorem useCredit_core (i : OutItem) (s : State) : (useCredit i s).core = s.core := by
  unfold useCredit; split <;> rfl

theorem countTokens_core (seat k : Nat) (s : State) : (countTokens seat k s).core = s.core := by
  unfold countTokens
  dsimp only
  repeat' first
    | with_reducible (first
      | exact rfl | apply ite_core | refine (bump_core ..).trans ?_ | refine (modCls_core ..).trans ?_)
    | split
    | exact rfl

theorem recordConsumed_core (s : State) : (recordConsumed s).core = s.core := rfl

theorem returnCredit_core (p : Port) (peer cls n beats : Nat) (s : State) :
    (returnCredit p peer cls n beats s).core = s.core := by
  unfold returnCredit
  dsimp only
  repeat' first
    | with_reducible (first
      | exact rfl | apply ite_core | refine (modSess_core ..).trans ?_ | refine (sendCredit_core ..).trans ?_)
    | split
    | exact rfl

theorem giveBack_core (p : Port) (n : Nat) (s : State) : (giveBack p n s).core = s.core := by
  unfold giveBack; split <;> rfl

theorem openCreditBut_core (n : Nat) (s : State) : (openCreditBut n s).core = s.core := by
  unfold openCreditBut
  dsimp only
  repeat' first
    | with_reducible (first
      | exact rfl | apply ite_core | refine (returnCredit_core ..).trans ?_)
    | split
    | exact rfl

theorem returnOpenCredit_core (s : State) : (returnOpenCredit s).core = s.core := openCreditBut_core ..

theorem queryLeft_core (seat layer : Nat) (s : State) : (queryLeft seat layer s).core = s.core := modDeals_core ..

theorem partialLeft_core (seat more : Nat) (s : State) : (partialLeft seat more s).core = s.core := rfl

theorem leave_core (i : OutItem) (waited : Bool) (s : State) : (leave i waited s).core = s.core := by
  unfold leave
  dsimp only
  repeat' first
    | with_reducible (first
      | exact rfl | apply ite_core | refine (modSide_core ..).trans ?_ | refine (traceWait_core ..).trans ?_
      | refine (freeSeat_core ..).trans ?_ | refine (closeLeaves_core ..).trans ?_ | refine (depart_core ..).trans ?_
      | refine (countTokens_core ..).trans ?_ | refine (recordConsumed_core ..).trans ?_
      | refine (openCreditBut_core ..).trans ?_ | refine (queryLeft_core ..).trans ?_ | refine (partialLeft_core ..).trans ?_)
    | split
    | exact rfl

theorem send_core (i : OutItem) (s : State) : (send i s).core = s.core := by
  unfold send
  dsimp only
  repeat' first
    | with_reducible (first
      | exact rfl | apply ite_core | refine (setFlag_core ..).trans ?_ | refine (bump_core ..).trans ?_
      | refine (modPorts_core ..).trans ?_ | refine (useCredit_core ..).trans ?_ | refine (leave_core ..).trans ?_)
    | split
    | exact rfl

theorem sendMsg_core (m : Msg) (cls : Nat) (s : State) : (sendMsg m cls s).core = s.core := send_core ..

theorem sendFor_core (m : Msg) (cls i kind ntok : Nat) (s : State) :
    (sendFor m cls i kind ntok s).core = s.core := send_core ..

theorem drainPass_core (k l : List OutItem) (s : State) : (drainPass k l s).1.core = s.core := by
  induction l generalizing k s with
  | nil => rfl
  | cons i r ih =>
    simp only [drainPass]
    split
    · rw [ih, leave_core, useCredit_core]
    · rw [ih]

theorem drain_core (s : State) : (drain s).core = s.core := by
  simp only [drain, modPorts_core, drainPass_core]

theorem dropQueue_core (p : Port) (peer : Nat) (s : State) : (dropQueue p peer s).core = s.core := modPorts_core ..

theorem takeFull_core (p : Port) (peer : Nat) (s : State) : (takeFull p peer s).core = s.core := modSess_core ..

theorem grantFull_core (p : Port) (peer : Nat) (s : State) : (grantFull p peer s).core = s.core := by
  simp only [grantFull, modSess_core, sendCredit_core]

theorem overrun_core (p : Port) (peer n : Nat) (s : State) : (overrun p peer n s).core = s.core := rfl

theorem greeted_core (p : Port) (peer cls beats : Nat) (s : State) : (greeted p peer cls beats s).2.core = s.core := by
  unfold greeted
  dsimp only
  repeat' first
    | with_reducible (first
      | exact rfl | apply ite_core | refine (takeFree_core ..).trans ?_)
    | split
    | exact rfl

theorem arrive_core (p : Port) (peer cls op : Nat) (word1 : Word) (beats : Nat) (s : State) :
    (arrive p peer cls op word1 beats s).2.core = s.core := by
  unfold arrive
  dsimp only
  repeat' first
    | with_reducible (first
      | exact rfl | apply ite_core | refine (setFlag_core ..).trans ?_ | refine (bump_core ..).trans ?_
      | refine (modSess_core ..).trans ?_ | refine (portCnt_core ..).trans ?_ | refine (sendNotReady_core ..).trans ?_
      | refine (overrun_core ..).trans ?_ | refine (greeted_core ..).trans ?_)
    | split
    | exact rfl

theorem taking_core {p : Port} {peer cls op : Nat} {word1 : Word} {beats : Nat} {f : State → State} {s : State} {x : Core}
    (hf : ∀ s, (f s).core = s.core) (hs : s.core = x) : (taking p peer cls op word1 beats f s).core = x := by
  have h := arrive_core p peer cls op word1 beats s
  unfold taking
  split <;> rename_i e <;> rw [e] at h
  · rw [hf, returnCredit_core]; exact h.trans hs
  · exact h.trans hs

theorem freeGated_core (x : Gated) (s : State) : (freeGated x s).core = s.core := by
  unfold freeGated; split <;> simp only [returnCredit_core]

theorem gatedIn_core {x : Gated} {f : State → State} {s : State} {y : Core} (hf : ∀ s, (f s).core = s.core)
    (hs : s.core = y) : (gatedIn x f s).core = y := by
  unfold gatedIn
  split
  · rw [hf, freeGated_core, hs]
  · rw [modPorts_core, hs]

theorem takingGated_core {x : Gated} {op : Nat} {word1 : Word} {f : State → State} {s : State} {y : Core}
    (hf : ∀ s, (f s).core = s.core) (hs : s.core = y) : (takingGated x op word1 f s).core = y := by
  have h := arrive_core x.port x.peer x.cls op word1 x.beats s
  unfold takingGated
  split <;> rename_i e <;> rw [e] at h
  · exact gatedIn_core hf (h.trans hs)
  · exact h.trans hs

theorem sendN_core (peer op cls : Nat) (w0 : List (Nat × Nat)) (rest : List Word) (beats : Nat) (pay : List Word) (s : State) :
    (sendN peer op cls w0 rest beats pay s).core = s.core := sendMsg_core ..

theorem drainFPass_core (l : List (List Nat × Msg)) (s : State) : (drainFPass l s).1.core = s.core := by
  induction l generalizing s with
  | nil => rfl
  | cons i r ih =>
    simp only [drainFPass]
    split
    · rw [ih, depart_core, modPorts_core]
    · rfl

theorem drainF_core (s : State) : (drainF s).core = s.core := by
  simp only [drainF, modPorts_core, drainFPass_core]

theorem sendF_core (gs : List Nat) (m : Msg) (s : State) : (sendF gs m s).core = s.core := drainF_core ..

theorem launchWord_core (op : Nat) (w : List (Nat × Nat)) (s : State) : (launchWord op w s).core = s.core := emit_core ..

theorem modBlk_core (b : Nat) (f : Blk → Blk) (s : State) : (modBlk b f s).core = s.core := modKv_core ..

theorem setIdx_core (n : Nat) (e : IdxEnt) (s : State) : (setIdx n e s).core = s.core := rfl

theorem hotTouch_core (n : Nat) (k : BitVec 128) (s : State) : (hotTouch n k s).core = s.core := modKv_core ..

theorem stampIdx_core (n : Nat) (s : State) : (stampIdx n s).core = s.core := setIdx_core ..

theorem markIndexed_core (w : InsKind) (n : Nat) (s : State) : (markIndexed w n s).core = s.core := by
  unfold markIndexed; split <;> rfl

theorem insertKey_core (k : BitVec 128) (w : InsKind) (s : State) : (insertKey k w s).core = s.core := by
  unfold insertKey
  dsimp only
  repeat' first
    | with_reducible (first
      | exact rfl | apply ite_core | refine (setFlag_core ..).trans ?_ | refine (bump_core ..).trans ?_
      | refine (modBlk_core ..).trans ?_ | refine (setIdx_core ..).trans ?_ | refine (markIndexed_core ..).trans ?_)
    | split
    | exact rfl

theorem clearLocal_core (b : Nat) (s : State) : (clearLocal b s).core = s.core := by
  unfold clearLocal
  dsimp only
  repeat' first
    | with_reducible (first
      | exact rfl | apply ite_core | refine (modBlk_core ..).trans ?_ | refine (setIdx_core ..).trans ?_)
    | split
    | exact rfl

theorem issueName_core (s : State) : (issueName s).2.core = s.core := rfl

theorem takeBlock_core {s t : State} {b : Nat} (h : takeBlock s = some (b, t)) : t.core = s.core := by
  unfold takeBlock at h
  split at h
  · cases h; rfl
  · split at h
    · cases h; rw [bump_core, modBlk_core, clearLocal_core]
    · cases h

theorem setChain_core (i : Nat) (l : List Nat) (s : State) : (setChain i l s).core = s.core := modSeat_core ..

theorem appendBlock_core (i b : Nat) (s : State) : (appendBlock i b s).core = s.core := by
  unfold appendBlock
  dsimp only
  repeat' first
    | with_reducible (first
      | exact rfl | apply ite_core | refine (modSeat_core ..).trans ?_ | refine (modBlk_core ..).trans ?_)
    | split
    | exact rfl

theorem newBlock_core {i : Nat} {st : BlkState} {s t : State} {b : Nat} (h : newBlock i st s = some (b, t)) :
    t.core = s.core := by
  unfold newBlock at h
  split at h
  · cases h
  · rename_i b u e
    cases h; rw [modBlk_core, issueName_core, takeBlock_core e]

theorem dropRef_core (i b : Nat) (s : State) : (dropRef i b s).core = s.core := by
  unfold dropRef
  dsimp only
  repeat' first
    | with_reducible (first
      | exact rfl | apply ite_core | refine (modBlk_core ..).trans ?_ | refine (clearLocal_core ..).trans ?_)
    | split
    | exact rfl

theorem dropChain_core (i : Nat) (s : State) : (dropChain i s).core = s.core := by
  unfold dropChain
  repeat' first
    | with_reducible (first
      | exact rfl | apply each_core | intro _ _ | intro _ | refine (setChain_core ..).trans ?_
      | refine (dropRef_core ..).trans ?_)
    | exact rfl

theorem cutChain_core (i n : Nat) (s : State) : (cutChain i n s).core = s.core := by
  unfold cutChain
  dsimp only
  repeat' first
    | with_reducible (first
      | exact rfl | apply each_core | intro _ _ | intro _ | refine (setChain_core ..).trans ?_
      | refine (dropRef_core ..).trans ?_)
    | exact rfl

theorem state_parentOf_core (s : State) (x : Blk) (j : Nat) : (State.parentOf s x j).2.core = s.core := by
  unfold State.parentOf
  dsimp only
  repeat' first
    | with_reducible (first
      | exact rfl | apply ite_core | refine (takeFree_core ..).trans ?_)
    | split
    | exact rfl

theorem completeBlock_core (i j : Nat) (s : State) : (completeBlock i j s).core = s.core := by
  unfold completeBlock
  dsimp only
  repeat' first
    | with_reducible (first
      | exact rfl | apply ite_core | refine (modBlk_core ..).trans ?_ | refine (insertKey_core ..).trans ?_
      | refine (state_parentOf_core ..).trans ?_)
    | split
    | exact rfl

theorem newTag_core (u : TagUse) (s : State) : (newTag u s).2.core = s.core := rfl

theorem endTag_core (n : Nat) (s : State) : (endTag n s).core = s.core := modKv_core ..

theorem putBlock_core (u : TagUse) (b : Nat) (s : State) : (putBlock u b s).core = s.core := by
  simp only [putBlock, bump_core, sendMsg_core, modBlk_core, newTag_core]

theorem spendLeaseC_core (i : Nat) (s : State) : (spendLeaseC i s).core = s.core := by
  unfold spendLeaseC; split <;> rfl

theorem fetchHandle_core (op : Nat) (u : TagUse) (handle : Nat) (s : State) : (fetchHandle op u handle s).core = s.core := by
  unfold fetchHandle; split <;> simp only [sendMsg_core, newTag_core, spendLeaseC_core]

theorem dropImage_core (handle : Nat) (s : State) : (dropImage handle s).core = s.core := sendMsg_core ..

theorem formContext_core (i : Nat) (s : State) : (formContext i s).core = s.core := modSide_core ..

theorem freePagesOf_core (i : Nat) (p : Nat → Bool) (s : State) : (freePagesOf i p s).core = s.core := modSide_core ..

theorem closeOut_core (i : Nat) (s : State) : (closeOut i s).core = s.core := by
  unfold closeOut
  dsimp only
  repeat' first
    | with_reducible (first
      | exact rfl | apply ite_core | refine (bump_core ..).trans ?_ | refine (modSide_core ..).trans ?_
      | refine (sendFor_core ..).trans ?_)
    | split
    | exact rfl

theorem closeFollowers_core (i reason : Nat) (s : State) : (closeFollowers i reason s).core = s.core := by
  unfold closeFollowers
  dsimp only
  repeat' first
    | with_reducible (first
      | exact rfl | apply ite_core | apply each_core | intro _ _ | intro _ | refine (sendN_core ..).trans ?_)
    | split
    | exact rfl

theorem abandonShip_core (i : Nat) (s : State) : (abandonShip i s).core = s.core := by
  unfold abandonShip
  dsimp only
  repeat' first
    | with_reducible (first
      | exact rfl | apply ite_core | refine (modSide_core ..).trans ?_ | refine (sendMsg_core ..).trans ?_)
    | split
    | exact rfl

theorem endSplit_core (i : Nat) (s : State) : (endSplit i s).core = s.core := by
  unfold endSplit
  dsimp only
  repeat' first
    | with_reducible (first
      | exact rfl | apply ite_core | refine (modDeals_core ..).trans ?_)
    | split
    | exact rfl

theorem dropRun_core (i : Nat) (s : State) : (dropRun i s).core = s.core := by
  unfold dropRun
  try dsimp only
  repeat' first
    | with_reducible (first
      | exact rfl | apply each_core | apply each2_core | intro _ _ | intro _ | refine (modSide_core ..).trans ?_
      | refine (dropRef_core ..).trans ?_ | (unfold State.core; exact rfl))
    | split
    | (rename_i h; have h := congrArg (fun x => State.core (Prod.snd x)) h; simp only [modSide_core, dropRef_core] at h; exact h.symm)
    | exact rfl
    | (simp only [*]; done)

theorem closedToFree_core (i : Nat) (s : State) : (closedToFree i s).core = s.core := by
  unfold closedToFree
  dsimp only
  repeat' first
    | with_reducible (first
      | exact rfl | apply ite_core | apply each_core | intro _ _ | intro _ | refine (releaseIndex_core ..).trans ?_
      | refine (dropChain_core ..).trans ?_ | refine (putBlock_core ..).trans ?_ | refine (dropImage_core ..).trans ?_
      | refine (endSplit_core ..).trans ?_ | refine (dropRun_core ..).trans ?_)
    | split
    | exact rfl

theorem enterClosed_core (i : Nat) (s : State) : (enterClosed i s).core = s.core := by
  unfold enterClosed
  dsimp only
  repeat' first
    | with_reducible (first
      | exact rfl | apply ite_core | refine (modSeat_core ..).trans ?_ | refine (modTenant_core ..).trans ?_
      | refine (modCls_core ..).trans ?_ | refine (settle_core ..).trans ?_ | refine (closeFollowers_core ..).trans ?_
      | refine (closedToFree_core ..).trans ?_)
    | split
    | exact rfl

theorem closeDirect_core (i reason : Nat) (s : State) : (closeDirect i reason s).core = s.core := by
  simp only [closeDirect, modSeat_core, closeOut_core, abandonShip_core, enterClosed_core]

theorem enterDraining_core (i reason : Nat) (s : State) : (enterDraining i reason s).core = s.core := modSeat_core ..

theorem finishDraining_core (i : Nat) (s : State) : (finishDraining i s).core = s.core := by
  unfold finishDraining; split <;> simp only [closeOut_core, enterClosed_core]

theorem closeSeat_core (i reason : Nat) (s : State) : (closeSeat i reason s).core = s.core := by
  unfold closeSeat
  dsimp only
  repeat' first
    | with_reducible (first
      | exact rfl | apply ite_core | refine (modSide_core ..).trans ?_ | refine (closeOut_core ..).trans ?_
      | refine (closeDirect_core ..).trans ?_ | refine (enterDraining_core ..).trans ?_
      | refine (finishDraining_core ..).trans ?_)
    | split
    | exact rfl

theorem tellFollowers_core (op i : Nat) (s : State) : (tellFollowers op i s).core = s.core := by
  unfold tellFollowers
  dsimp only
  repeat' first
    | with_reducible (first
      | exact rfl | apply ite_core | apply each_core | intro _ _ | intro _ | refine (sendN_core ..).trans ?_)
    | split
    | exact rfl

theorem pauseSeat_core (i epoch : Nat) (s : State) : (pauseSeat i epoch s).core = s.core := by
  simp only [pauseSeat, bump_core, modSeat_core, modSide_core, modPorts_core, tellFollowers_core]

theorem requestPause_core (i : Nat) (why : BitVec 64) (s : State) : (requestPause i why s).core = s.core := modSeat_core ..

theorem atOnceSeat_core (i : Nat) (s : State) : (atOnceSeat i s).core = s.core := by
  unfold atOnceSeat
  dsimp only
  repeat' first
    | with_reducible (first
      | exact rfl | apply ite_core | refine (closeOut_core ..).trans ?_ | refine (enterDraining_core ..).trans ?_
      | refine (finishDraining_core ..).trans ?_ | refine (pauseSeat_core ..).trans ?_)
    | split
    | exact rfl

theorem idleActions_core (s : State) : (idleActions s).core = s.core := by
  unfold idleActions
  repeat' first
    | with_reducible (first
      | exact rfl | apply ite_core | apply each_core | intro _ _ | intro _ | refine (atOnceSeat_core ..).trans ?_)
    | split
    | exact rfl

theorem takeSeat_core (i : Nat) (s : State) : (takeSeat i s).core = s.core := rfl

theorem updHitFrac_core (i h : Nat) (s : State) : (updHitFrac i h s).core = s.core := by
  unfold updHitFrac; split <;> rfl

theorem updPool_core (n t : Nat) (s : State) : (updPool n t s).core = s.core := by
  unfold updPool; split <;> rfl

theorem growChain_core (i : Nat) (st : BlkState) (n : Nat) (s : State) : (growChain i st n s).2.core = s.core := by
  induction n generalizing s with
  | zero => rfl
  | succ n ih =>
    simp only [growChain]
    split
    · rfl
    · rename_i b u e
      rw [ih, appendBlock_core, newBlock_core e]

theorem routeLocal_core (i : Nat) (s : State) : (routeLocal i s).core = s.core := bump_core ..

theorem sendSplitOpened_core (peer : Nat) (reqid : Word) (seat gen self : Nat) (refused : Bool) (hits : Nat) (s : State) :
    (sendSplitOpened peer reqid seat gen self refused hits s).core = s.core := sendN_core ..

theorem stretchFail_core (i : Nat) (s : State) : (stretchFail i s).core = s.core := by
  simp only [stretchFail, closeSeat_core, sendSplitOpened_core]

theorem shipSeat_core (i : Nat) (s : State) : (shipSeat i s).core = s.core := by
  unfold shipSeat
  dsimp only
  repeat' first
    | with_reducible (first
      | exact rfl | apply ite_core | apply each_core | intro _ _ | intro _ | refine (setFlag_core ..).trans ?_
      | refine (bump_core ..).trans ?_ | refine (modSeat_core ..).trans ?_ | refine (modSide_core ..).trans ?_
      | refine (modSess_core ..).trans ?_ | refine (putBlock_core ..).trans ?_ | refine (growChain_core ..).trans ?_
      | refine (routeLocal_core ..).trans ?_ | refine (stretchFail_core ..).trans ?_)
    | split
    | exact rfl

theorem routeSeat_core (i : Nat) (s : State) : (routeSeat i s).core = s.core := by
  unfold routeSeat
  dsimp only
  repeat' first
    | with_reducible (first
      | exact rfl | apply ite_core | refine (routeLocal_core ..).trans ?_ | refine (shipSeat_core ..).trans ?_)
    | split
    | exact rfl

theorem shipFail_core (i : Nat) (s : State) : (shipFail i s).core = s.core := by
  unfold shipFail
  dsimp only
  repeat' first
    | with_reducible (first
      | exact rfl | apply ite_core | refine (setFlag_core ..).trans ?_ | refine (bump_core ..).trans ?_
      | refine (closeSeat_core ..).trans ?_ | refine (stretchFail_core ..).trans ?_)
    | split
    | exact rfl

theorem sendShip_core (i t : Nat) (s : State) : (sendShip i t s).core = s.core := by
  simp only [sendShip, bump_core, modSide_core, modKv_core, modSess_core, depart_core, freePagesOf_core]

theorem mismatch_core (s : State) : (mismatch s).core = s.core := setFlag_core ..

theorem stretchOne_core (i : Nat) (s : State) : (stretchOne i s).2.core = s.core := by
  unfold stretchOne
  dsimp only
  repeat' first
    | with_reducible (first
      | exact rfl | apply ite_core | refine (modSide_core ..).trans ?_ | refine (stretchFail_core ..).trans ?_
      | refine (mismatch_core ..).trans ?_)
    | split
    | exact rfl

theorem stretchStep_core (i f : Nat) (s : State) : (stretchStep i f s).core = s.core := by
  induction f generalizing s with
  | zero => rfl
  | succ f ih =>
    simp only [stretchStep]
    split
    · exact stretchOne_core i s
    · split
      · rw [modSeat_core, stretchOne_core]
      · rw [ih, stretchOne_core]

theorem raiseShared_core (i : Nat) (run : List Nat) (s : State) : (raiseShared i run s).core = s.core := by
  unfold raiseShared
  try dsimp only
  repeat' first
    | with_reducible (first
      | exact rfl | apply ite_core | apply each_core | apply each2_core | intro _ _ | intro _
      | refine (modSeat_core ..).trans ?_ | (unfold State.core; exact rfl))
    | split
    | exact rfl
    | (simp only [*]; done)

theorem linkRun_core (l : List Nat) (s : State) : (linkRun l s).core = s.core := by
  induction l generalizing s with
  | nil => rfl
  | cons a r ih =>
    cases r with
    | nil => rfl
    | cons b r => simp only [linkRun]; rw [ih, modBlk_core]

theorem fillStretch_core (i : Nat) (s : State) : (fillStretch i s).core = s.core := by
  unfold fillStretch
  try dsimp only
  repeat' first
    | with_reducible (first
      | exact rfl | apply ite_core | apply each_core | apply each2_core | intro _ _ | intro _
      | refine (setFlag_core ..).trans ?_ | refine (bump_core ..).trans ?_ | refine (modSeat_core ..).trans ?_
      | refine (modSide_core ..).trans ?_ | refine (modBlk_core ..).trans ?_ | refine (growChain_core ..).trans ?_
      | refine (stretchFail_core ..).trans ?_ | refine (shipSeat_core ..).trans ?_ | (unfold State.core; exact rfl))
    | split
    | exact rfl
    | (simp only [*]; done)

theorem recordLookup_core (i : Nat) (run : List Nat) (fetched why : Nat) (s : State) :
    (recordLookup i run fetched why s).core = s.core := by
  simp only [recordLookup, setReg_core, bumpN_core, bump_core, modSeat_core, raiseShared_core]

theorem endFollowerLookup_core (i : Nat) (run : List Nat) (fetched why : Nat) (s : State) :
    (endFollowerLookup i run fetched why s).core = s.core := by
  simp only [endFollowerLookup, modSide_core, setChain_core, freePagesOf_core, sendSplitOpened_core, linkRun_core, fillStretch_core, recordLookup_core]

theorem endLookup_core (i : Nat) (run : List Nat) (fetched why : Nat) (s : State) :
    (endLookup i run fetched why s).core = s.core := by
  unfold endLookup; split <;> simp only [modSeat_core, modSide_core, debit_core, setChain_core, freePagesOf_core, updHitFrac_core, routeSeat_core, linkRun_core, recordLookup_core, endFollowerLookup_core]

theorem tryEndLookup_core (i : Nat) (s : State) : (tryEndLookup i s).core = s.core := by
  unfold tryEndLookup
  try dsimp only
  repeat' first
    | with_reducible (first
      | exact rfl | apply ite_core | refine (endLookup_core ..).trans ?_ | (unfold State.core; exact rfl))
    | split
    | (rename_i h; have h := congrArg (fun x => State.core (Prod.snd x)) h; simp only [endLookup_core] at h; exact h.symm)
    | exact rfl
    | (simp only [*]; done)

theorem modLookup_core (i : Nat) (f : Lookup → Lookup) (s : State) : (modLookup i f s).core = s.core := modSide_core ..

theorem stopScan_core (i why : Nat) (s : State) : (stopScan i why s).core = s.core := modLookup_core ..

theorem cutRun_core (i n why : Nat) (s : State) : (cutRun i n why s).core = s.core := by
  unfold cutRun
  dsimp only
  repeat' first
    | with_reducible (first
      | exact rfl | apply each_core | intro _ _ | intro _ | refine (dropRef_core ..).trans ?_
      | refine (modLookup_core ..).trans ?_)
    | split
    | exact rfl

theorem issueOne_core (i j b : Nat) (s : State) : (issueOne i j b s).core = s.core := by
  unfold issueOne
  dsimp only
  repeat' first
    | with_reducible (first
      | exact rfl | apply ite_core | refine (modBlk_core ..).trans ?_ | refine (fetchHandle_core ..).trans ?_)
    | split
    | exact rfl

theorem issueFetches_core (i : Nat) (s : State) : (issueFetches i s).core = s.core := by
  unfold issueFetches
  try dsimp only
  repeat' first
    | with_reducible (first
      | exact rfl | apply each_core | apply each2_core | intro _ _ | intro _ | refine (issueOne_core ..).trans ?_
      | (unfold State.core; exact rfl))
    | split
    | (rename_i h; have h := congrArg (fun x => State.core (Prod.snd x)) h; simp only [issueOne_core] at h; exact h.symm)
    | exact rfl
    | (simp only [*]; done)

theorem issueOwed_core (i : Nat) (s : State) : (issueOwed i s).core = s.core := by
  unfold issueOwed
  dsimp only
  repeat' first
    | with_reducible (first
      | exact rfl | apply ite_core | apply each_core | intro _ _ | intro _ | refine (fetchHandle_core ..).trans ?_)
    | split
    | exact rfl

theorem fetchStep_core (s : State) : (fetchStep s).core = s.core := by
  unfold fetchStep
  dsimp only
  repeat' first
    | with_reducible (first
      | exact rfl | apply each_core | intro _ _ | intro _ | refine (issueFetches_core ..).trans ?_
      | refine (issueOwed_core ..).trans ?_)
    | exact rfl

theorem linkHit_core (i n : Nat) (s : State) : (linkHit i n s).core = s.core := by
  unfold linkHit
  dsimp only
  repeat' first
    | with_reducible (first
      | exact rfl | apply ite_core | refine (setFlag_core ..).trans ?_ | refine (bump_core ..).trans ?_
      | refine (modBlk_core ..).trans ?_ | refine (setIdx_core ..).trans ?_ | refine (stampIdx_core ..).trans ?_
      | refine (newBlock_core (by assumption)).trans ?_ | refine (modLookup_core ..).trans ?_
      | refine (stopScan_core ..).trans ?_)
    | split
    | exact rfl

theorem closeScan_core (i : Nat) (s : State) : (closeScan i s).core = s.core := by
  unfold closeScan
  repeat' first
    | with_reducible (first
      | exact rfl | apply ite_core | refine (stopScan_core ..).trans ?_)
    | split
    | exact rfl

theorem hotAdvance_core (i f : Nat) (s : State) : (hotAdvance i f s).core = s.core := by
  induction f generalizing s with
  | zero => rfl
  | succ f ih =>
    unfold hotAdvance
    repeat' first
      | with_reducible exact rfl
      | with_reducible refine (ih ..).trans ?_
      | with_reducible refine (linkHit_core ..).trans ?_
      | with_reducible refine (hotTouch_core ..).trans ?_
      | split

theorem advance_core (i : Nat) (s : State) : (advance i s).core = s.core := by
  unfold advance; split <;> simp only [tryEndLookup_core, closeScan_core, hotAdvance_core]

theorem hashNext_core (i : Nat) (s : State) : (hashNext i s).core = s.core := by
  unfold hashNext
  dsimp only
  repeat' first
    | with_reducible (first
      | exact rfl | apply ite_core | refine (modLookup_core ..).trans ?_ | refine (advance_core ..).trans ?_)
    | split
    | exact rfl

theorem probeDone_core (i : Nat) (s : State) : (probeDone i s).core = s.core := by
  unfold probeDone
  repeat' first
    | with_reducible (first
      | exact rfl | apply ite_core | refine (hotTouch_core ..).trans ?_ | refine (stopScan_core ..).trans ?_
      | refine (linkHit_core ..).trans ?_ | refine (advance_core ..).trans ?_)
    | split
    | exact rfl

theorem verifyOne_core (i k : Nat) (s : State) : (verifyOne i k s).core = s.core := by
  unfold verifyOne
  try dsimp only
  repeat' first
    | with_reducible (first
      | exact rfl | apply ite_core | refine (mismatch_core ..).trans ?_ | refine (modLookup_core ..).trans ?_
      | refine (cutRun_core ..).trans ?_ | (unfold State.core; exact rfl))
    | split
    | (rename_i h; have h := congrArg (fun x => State.core (Prod.snd x)) h; simp only [mismatch_core, modLookup_core, cutRun_core] at h; exact h.symm)
    | exact rfl
    | (simp only [*]; done)

theorem verifyArrived_core (i f : Nat) (s : State) : (verifyArrived i f s).core = s.core := by
  induction f generalizing s with
  | zero => rfl
  | succ f ih =>
    unfold verifyArrived
    repeat' first
      | with_reducible exact rfl
      | with_reducible refine (ih ..).trans ?_
      | with_reducible refine (verifyOne_core ..).trans ?_
      | split

theorem afterVerify_core (i : Nat) (s : State) : (afterVerify i s).core = s.core := by
  unfold afterVerify; split <;> simp only [tryEndLookup_core, verifyArrived_core]

theorem residentVerified_core (i : Nat) (s : State) : (residentVerified i s).core = s.core := by
  unfold residentVerified
  repeat' first
    | with_reducible (first
      | exact rfl | apply ite_core | refine (verifyOne_core ..).trans ?_ | refine (afterVerify_core ..).trans ?_)
    | split
    | exact rfl

theorem fetchFailed_core (b : Nat) (s : State) : (fetchFailed b s).core = s.core := by
  unfold fetchFailed
  dsimp only
  repeat' first
    | with_reducible (first
      | exact rfl | apply each_core | intro _ _ | intro _ | refine (setFlag_core ..).trans ?_
      | refine (bump_core ..).trans ?_ | refine (modBlk_core ..).trans ?_ | refine (clearLocal_core ..).trans ?_
      | refine (cutRun_core ..).trans ?_ | refine (afterVerify_core ..).trans ?_)
    | split
    | exact rfl

theorem traceFetchWait_core (b since i : Nat) (s : State) : (traceFetchWait b since i s).core = s.core := by
  unfold traceFetchWait; split <;> simp only [traceWait_core]

theorem fetchArrived_core (b since : Nat) (c : BlockTag) (s : State) : (fetchArrived b since c s).core = s.core := by
  unfold fetchArrived
  dsimp only
  repeat' first
    | with_reducible (first
      | exact rfl | apply each_core | intro _ _ | intro _ | refine (bump_core ..).trans ?_ | refine (modBlk_core ..).trans ?_
      | refine (afterVerify_core ..).trans ?_ | refine (traceFetchWait_core ..).trans ?_)
    | exact rfl

theorem beginLookup_core (i : Nat) (s : State) : (beginLookup i s).core = s.core := by
  unfold beginLookup
  dsimp only
  repeat' first
    | with_reducible (first
      | exact rfl | apply ite_core | refine (dropRun_core ..).trans ?_ | refine (endLookup_core ..).trans ?_
      | refine (advance_core ..).trans ?_)
    | split
    | exact rfl

theorem startLookup_core (i : Nat) (s : State) : (startLookup i s).core = s.core := modSide_core ..

theorem badPrompt_core (i : Nat) (s : State) : (badPrompt i s).core = s.core := closeSeat_core ..

theorem storeToks_core (i : Nat) (l : List (BitVec 20)) (s : State) : (storeToks i l s).core = s.core := rfl

end Sys2Proof.Machine
end

