-- ==== Sys2Proof/Laws/CoreUnits.lean ====
section
/-! SUPPORT. What each shared operation does to the core of the state (`State.core`): nothing, but for those named here. The sequencer, admission, the steward, the Sieve and split seats. -/
namespace Sys2Proof.Machine

theorem modDesc_core (m v o : Nat) (f : Desc → Desc) (s : State) : (modDesc m v o f s).core = s.core := modSeq_core ..

theorem setReady_core (s : State) : (setReady s).core = s.core := modSeq_core ..

theorem admissionOpens_core (s : State) : (admissionOpens s).core = s.core := by
  unfold admissionOpens; split <;> rfl

theorem objFetchSend_core (f : Fetch) (s : State) : (objFetchSend f s).core = s.core := by
  unfold objFetchSend; split <;> simp only [sendMsg_core, newTag_core]

theorem failSeat_core (i reason : Nat) (s : State) : (failSeat i reason s).core = s.core := by
  unfold failSeat
  dsimp only
  repeat' first
    | with_reducible (first
      | exact rfl | apply ite_core | refine (modSide_core ..).trans ?_ | refine (closeSeat_core ..).trans ?_)
    | split
    | exact rfl

theorem closeUsers_core (m v : Nat) (s : State) : (closeUsers m v s).core = s.core := by
  unfold closeUsers
  try dsimp only
  repeat' first
    | with_reducible (first
      | exact rfl | apply each_core | apply each2_core | intro _ _ | intro _ | refine (failSeat_core ..).trans ?_
      | (unfold State.core; exact rfl))
    | exact rfl
    | (simp only [*]; done)

theorem poison_core (m v o : Nat) (s : State) : (poison m v o s).core = s.core := by
  simp only [poison, setReg_core, setFlag_core, bump_core, modModel_core, modDesc_core, closeUsers_core]

theorem objError_core (f : Fetch) (s : State) : (objError f s).1.core = s.core := by
  unfold objError
  split
  · exact objFetchSend_core ..
  · exact poison_core ..

theorem countRead_core (d : Desc) (s : State) : (countRead d s).core = s.core := bumpN_core ..

theorem hotEvict_core (k : Nat) (s : State) : (hotEvict k s).core = s.core := bump_core ..

theorem hotStart_core (m v : Nat) (s : State) : (hotStart m v s).core = s.core := by
  unfold hotStart
  dsimp only
  repeat' first
    | with_reducible (first
      | exact rfl | apply ite_core | apply each_core | intro _ _ | intro _ | refine (bump_core ..).trans ?_
      | refine (modSeq_core ..).trans ?_ | refine (modModel_core ..).trans ?_ | refine (hotEvict_core ..).trans ?_)
    | split
    | exact rfl

theorem hotRetry_core (s : State) : (hotRetry s).core = s.core := by
  unfold hotRetry
  try dsimp only
  repeat' first
    | with_reducible (first
      | exact rfl | apply each_core | apply each2_core | intro _ _ | intro _ | refine (hotStart_core ..).trans ?_
      | (unfold State.core; exact rfl))
    | exact rfl
    | (simp only [*]; done)

theorem chipStart_core (m v epoch : Nat) (s : State) : (chipStart m v epoch s).core = s.core := by
  unfold chipStart
  dsimp only
  repeat' first
    | with_reducible (first
      | exact rfl | apply ite_core | refine (bump_core ..).trans ?_ | refine (modSeq_core ..).trans ?_
      | refine (modModel_core ..).trans ?_)
    | split
    | exact rfl

theorem chipFor_core (m v epoch : Nat) (s : State) : (chipFor m v epoch s).core = s.core := by
  unfold chipFor
  dsimp only
  repeat' first
    | with_reducible (first
      | exact rfl | apply ite_core | refine (modSeq_core ..).trans ?_ | refine (chipStart_core ..).trans ?_)
    | split
    | exact rfl

theorem chipAtComplete_core (s : State) : (chipAtComplete s).core = s.core := by
  unfold chipAtComplete
  try dsimp only
  repeat' first
    | with_reducible (first
      | exact rfl | apply ite_core | refine (modSeq_core ..).trans ?_ | refine (chipStart_core ..).trans ?_
      | (unfold State.core; exact rfl))
    | split
    | (rename_i h; have h := congrArg (fun x => State.core (Prod.snd x)) h; simp only [modSeq_core, chipStart_core] at h; exact h.symm)
    | exact rfl
    | (simp only [*]; done)

theorem stageFor_core (m v epoch : Nat) (s : State) : (stageFor m v epoch s).core = s.core := by
  unfold stageFor
  dsimp only
  repeat' first
    | with_reducible (first
      | exact rfl | apply ite_core | refine (modSeq_core ..).trans ?_)
    | split
    | exact rfl

theorem ringFree_core (epoch layer : Nat) (s : State) : (ringFree epoch layer s).core = s.core := modSeq_core ..

theorem ringDone_core (epoch : Nat) (s : State) : (ringDone epoch s).core = s.core := rfl

theorem endHold_core (cut : Bool) (s : State) : (endHold cut s).core = s.core := by
  unfold endHold
  dsimp only
  repeat' first
    | with_reducible (first
      | exact rfl | apply ite_core | refine (bumpN_core ..).trans ?_ | refine (bump_core ..).trans ?_
      | refine (modDeals_core ..).trans ?_ | refine (trace_core ..).trans ?_)
    | split
    | exact rfl

theorem holdStep_core (s : State) : (holdStep s).core = s.core := by
  unfold holdStep
  try dsimp only
  repeat' first
    | with_reducible (first
      | exact rfl | apply ite_core | refine (modDeals_core ..).trans ?_ | refine (endHold_core ..).trans ?_
      | (unfold State.core; exact rfl))
    | split
    | (rename_i h; have h := congrArg (fun x => State.core (Prod.snd x)) h; simp only [modDeals_core, endHold_core] at h; exact h.symm)
    | exact rfl
    | (simp only [*]; done)

theorem finishLoads_core (m v dst : Nat) (s : State) : (finishLoads m v dst s).core = s.core := by
  unfold finishLoads
  try dsimp only
  repeat' first
    | with_reducible (first
      | exact rfl | apply ite_core | refine (setFld_core ..).trans ?_ | refine (modSeq_core ..).trans ?_
      | refine (modModel_core ..).trans ?_ | refine (hotRetry_core ..).trans ?_ | (unfold State.core; exact rfl))
    | split
    | (rename_i h; have h := congrArg (fun x => State.core (Prod.snd x)) h; simp only [setFld_core, modSeq_core, modModel_core, hotRetry_core] at h; exact h.symm)
    | exact rfl
    | (simp only [*]; done)

theorem objPlaced_core (f : Fetch) (s : State) : (objPlaced f s).core = s.core := by
  unfold objPlaced; split <;> simp only [modSeq_core, finishLoads_core]

theorem issueNext_core (s : State) : (issueNext s).core = s.core := by
  unfold issueNext
  dsimp only
  repeat' first
    | with_reducible (first
      | exact rfl | apply ite_core | refine (setFlag_core ..).trans ?_ | refine (bump_core ..).trans ?_
      | refine (modSeq_core ..).trans ?_ | refine (trace_core ..).trans ?_ | refine (sendMsg_core ..).trans ?_
      | refine (objFetchSend_core ..).trans ?_ | refine (poison_core ..).trans ?_)
    | split
    | exact rfl

theorem tdoneTaken_core (tag status : Nat) (s : State) : (tdoneTaken tag status s).core = s.core := by
  unfold tdoneTaken
  dsimp only
  repeat' first
    | with_reducible (first
      | exact rfl | apply ite_core | refine (modSeq_core ..).trans ?_ | refine (objError_core ..).trans ?_
      | refine (countRead_core ..).trans ?_ | refine (finishLoads_core ..).trans ?_ | refine (objPlaced_core ..).trans ?_)
    | split
    | exact rfl

theorem terrOne_core (x : Nat × Nat × Nat) (s : State) : (terrOne x s).core = s.core := by
  unfold terrOne
  dsimp only
  repeat' first
    | with_reducible (first
      | exact rfl | apply ite_core | refine (closeUsers_core ..).trans ?_ | refine (objError_core ..).trans ?_)
    | split
    | exact rfl

theorem tiersChange_core (flashUp hbmUp : Bool) (s : State) : (tiersChange flashUp hbmUp s).core = s.core := by
  unfold tiersChange; split <;> simp only [setFlag_core, bump_core, modSeq_core, setReady_core, admissionOpens_core]

theorem repairDone_core (m v o dst epoch : Nat) (ok : Bool) (s : State) :
    (repairDone m v o dst epoch ok s).core = s.core := by
  unfold repairDone
  dsimp only
  repeat' first
    | with_reducible (first
      | exact rfl | apply ite_core | refine (setFlag_core ..).trans ?_ | refine (bump_core ..).trans ?_
      | refine (modDesc_core ..).trans ?_ | refine (poison_core ..).trans ?_ | refine (finishLoads_core ..).trans ?_
      | refine (objPlaced_core ..).trans ?_)
    | split
    | exact rfl

theorem objDataTaken_core (tag : Nat) (ok : Bool) (s : State) : (objDataTaken tag ok s).core = s.core := by
  unfold objDataTaken; split <;> simp only [endTag_core, repairDone_core]

theorem objDataIn_core (tag : Nat) (ok : Bool) (s : State) : (objDataIn tag ok s).core = s.core := by
  simp only [objDataIn, drain_core, idleActions_core, holdStep_core, objDataTaken_core]

theorem objFetchTaken_core (peer tag : Nat) (handle : Word) (s : State) :
    (objFetchTaken peer tag handle s).core = s.core := by
  unfold objFetchTaken
  dsimp only
  repeat' first
    | with_reducible (first
      | exact rfl | apply ite_core | refine (sendN_core ..).trans ?_)
    | split
    | exact rfl

theorem modResult_core (r : Nat) (s : State) : (modResult r s).core = s.core := setFld_core ..

theorem putDescs_core (n : Nat) (l : List Desc) (s : State) : (putDescs n l s).core = s.core := by
  induction l generalizing n s with
  | nil => rfl
  | cons d r ih => simp only [putDescs]; rw [ih]; split <;> rfl

theorem modRegisterStart_core (f : ModelFields) (ds : List Desc) (s : State) : (modRegisterStart f ds s).core = s.core := by
  unfold modRegisterStart
  dsimp only
  repeat' first
    | with_reducible (first
      | exact rfl | apply ite_core | refine (modSeq_core ..).trans ?_ | refine (modModel_core ..).trans ?_
      | refine (modResult_core ..).trans ?_ | refine (putDescs_core ..).trans ?_)
    | split
    | exact rfl

theorem uncurrentModel_core (m v : Nat) (s : State) : (uncurrentModel m v s).core = s.core := retireModel_core ..

theorem modRegisterEnd_core (s : State) : (modRegisterEnd s).core = s.core := by
  unfold modRegisterEnd
  dsimp only
  repeat' first
    | with_reducible (first
      | exact rfl | apply ite_core | refine (bump_core ..).trans ?_ | refine (modSeq_core ..).trans ?_
      | refine (modModel_core ..).trans ?_ | refine (admissionOpens_core ..).trans ?_ | refine (modResult_core ..).trans ?_
      | refine (uncurrentModel_core ..).trans ?_)
    | split
    | exact rfl

theorem modWithdraw_core (s : State) : (modWithdraw s).core = s.core := by
  unfold modWithdraw; split <;> simp only [modResult_core, uncurrentModel_core]

theorem modReobj_core (fix : Option Desc) (s : State) : (modReobj fix s).core = s.core := by
  unfold modReobj
  dsimp only
  repeat' first
    | with_reducible (first
      | exact rfl | apply ite_core | refine (modModel_core ..).trans ?_ | refine (modDesc_core ..).trans ?_
      | refine (admissionOpens_core ..).trans ?_ | refine (modResult_core ..).trans ?_)
    | split
    | exact rfl

theorem modPop_core (s : State) : (modPop s).core = s.core := by
  unfold modPop; split <;> rfl

theorem putImage_core (i : Nat) (s : State) : (putImage i s).core = s.core := by
  unfold putImage
  dsimp only
  repeat' first
    | with_reducible (first
      | exact rfl | refine (sendMsg_core ..).trans ?_ | refine (newTag_core ..).trans ?_)
    | split
    | exact rfl

theorem spillStep_core (i : Nat) (s : State) : (spillStep i s).core = s.core := by
  unfold spillStep
  repeat' first
    | with_reducible (first
      | exact rfl | apply ite_core | refine (putImage_core ..).trans ?_)
    | split
    | exact rfl

theorem spillFail_core (i : Nat) (s : State) : (spillFail i s).core = s.core := modSide_core ..

theorem orderSpill_core (i : Nat) (s : State) : (orderSpill i s).core = s.core := by
  unfold orderSpill
  try dsimp only
  repeat' first
    | with_reducible (first
      | exact rfl | apply ite_core | apply each_core | apply each2_core | intro _ _ | intro _
      | refine (modSide_core ..).trans ?_ | refine (modBlk_core ..).trans ?_ | refine (cutChain_core ..).trans ?_
      | refine (putBlock_core ..).trans ?_ | refine (spillStep_core ..).trans ?_ | refine (spillFail_core ..).trans ?_
      | (unfold State.core; exact rfl))
    | split
    | exact rfl
    | (simp only [*]; done)

theorem spillOne_core (epoch i : Nat) (s : State) : (spillOne epoch i s).core = s.core := by
  unfold spillOne
  dsimp only
  repeat' first
    | with_reducible (first
      | exact rfl | apply ite_core | refine (orderSpill_core ..).trans ?_)
    | split
    | exact rfl

theorem spillOrders_core (epoch : Nat) (s : State) : (spillOrders epoch s).core = s.core := by
  unfold spillOrders
  repeat' first
    | with_reducible (first
      | exact rfl | apply each_core | intro _ _ | intro _ | refine (spillOne_core ..).trans ?_)
    | exact rfl

theorem lowStep_core (s : State) : (lowStep s).core = s.core := by
  unfold lowStep
  dsimp only
  repeat' first
    | with_reducible (first
      | exact rfl | apply ite_core | refine (modKv_core ..).trans ?_ | refine (spillOrders_core ..).trans ?_)
    | split
    | exact rfl

theorem backDone_core (i : Nat) (s : State) : (backDone i s).core = s.core := by
  simp only [backDone, bump_core, modSeat_core, modSide_core, dropImage_core]

theorem tryBackDone_core (i : Nat) (s : State) : (tryBackDone i s).core = s.core := by
  unfold tryBackDone
  repeat' first
    | with_reducible (first
      | exact rfl | apply ite_core | refine (backDone_core ..).trans ?_)
    | split
    | exact rfl

theorem backBlock_core (i : Nat) (e : ImgBlock) (p : Bool × State) : (backBlock i e p).2.core = p.2.core := by
  unfold backBlock
  dsimp only
  repeat' first
    | with_reducible (first
      | exact rfl | apply ite_core | refine (modSide_core ..).trans ?_ | refine (modBlk_core ..).trans ?_
      | refine (appendBlock_core ..).trans ?_ | refine (newBlock_core (by assumption)).trans ?_)
    | split
    | exact rfl

theorem startBack_core (i : Nat) (m : Image) (s : State) : (startBack i m s).core = s.core := by
  unfold startBack
  try dsimp only
  repeat' first
    | with_reducible (first
      | exact rfl | apply ite_core | apply each_core | apply each2_core | intro _ _ | intro _
      | refine (setFlag_core ..).trans ?_ | refine (bump_core ..).trans ?_ | refine (modSide_core ..).trans ?_
      | refine (closeSeat_core ..).trans ?_ | refine (tryBackDone_core ..).trans ?_ | refine (backBlock_core ..).trans ?_
      | (unfold State.core; exact rfl))
    | split
    | exact rfl
    | (simp only [*]; done)

theorem orderBack_core (i : Nat) (s : State) : (orderBack i s).core = s.core := by
  unfold orderBack
  dsimp only
  repeat' first
    | with_reducible (first
      | exact rfl | apply ite_core | refine (setFlag_core ..).trans ?_ | refine (bump_core ..).trans ?_
      | refine (modSide_core ..).trans ?_ | refine (fetchHandle_core ..).trans ?_ | refine (closeSeat_core ..).trans ?_
      | refine (startBack_core ..).trans ?_)
    | split
    | exact rfl

theorem resumeSeat_core (i : Nat) (s : State) : (resumeSeat i s).core = s.core := by
  unfold resumeSeat
  dsimp only
  repeat' first
    | with_reducible (first
      | exact rfl | refine (bump_core ..).trans ?_ | refine (modSeat_core ..).trans ?_ | refine (modSide_core ..).trans ?_
      | refine (tellFollowers_core ..).trans ?_ | refine (orderBack_core ..).trans ?_)
    | split
    | exact rfl

theorem clearPause_core (i : Nat) (why : BitVec 64) (s : State) : (clearPause i why s).core = s.core := by
  unfold clearPause
  dsimp only
  repeat' first
    | with_reducible (first
      | exact rfl | apply ite_core | refine (modSeat_core ..).trans ?_ | refine (resumeSeat_core ..).trans ?_)
    | split
    | exact rfl

theorem ackBlock_core (b handle : Nat) (s : State) : (ackBlock b handle s).core = s.core := by
  unfold ackBlock
  dsimp only
  repeat' first
    | with_reducible (first
      | exact rfl | apply ite_core | refine (modBlk_core ..).trans ?_ | refine (setIdx_core ..).trans ?_)
    | split
    | exact rfl

theorem declineBlock_core (b : Nat) (s : State) : (declineBlock b s).core = s.core := by
  unfold declineBlock
  dsimp only
  repeat' first
    | with_reducible (first
      | exact rfl | apply ite_core | refine (modBlk_core ..).trans ?_)
    | split
    | exact rfl

theorem spillAck_core (i b handle : Nat) (s : State) : (spillAck i b handle s).core = s.core := by
  unfold spillAck; split <;> simp only [modSide_core, spillStep_core]

theorem spillDone_core (i handle : Nat) (s : State) : (spillDone i handle s).core = s.core := by
  unfold spillDone
  dsimp only
  repeat' first
    | with_reducible (first
      | exact rfl | apply ite_core | refine (bump_core ..).trans ?_ | refine (modSeat_core ..).trans ?_
      | refine (modSide_core ..).trans ?_ | refine (sendFor_core ..).trans ?_ | refine (dropChain_core ..).trans ?_
      | refine (resumeSeat_core ..).trans ?_)
    | split
    | exact rfl

theorem putAgain_core (b : Nat) (s : State) : (putAgain b s).core = s.core := by
  unfold putAgain; split <;> simp only [putBlock_core]

theorem putAnswered_core (tag : Nat) (handle : Option Nat) (s : State) : (putAnswered tag handle s).core = s.core := by
  unfold putAnswered
  dsimp only
  repeat' first
    | with_reducible (first
      | exact rfl | apply ite_core | apply each_core | intro _ _ | intro _ | refine (endTag_core ..).trans ?_
      | refine (dropImage_core ..).trans ?_ | refine (shipFail_core ..).trans ?_ | refine (spillFail_core ..).trans ?_
      | refine (ackBlock_core ..).trans ?_ | refine (declineBlock_core ..).trans ?_ | refine (spillAck_core ..).trans ?_
      | refine (spillDone_core ..).trans ?_ | refine (putAgain_core ..).trans ?_)
    | split
    | exact rfl

theorem backArrived_core (i g b : Nat) (c : BlockTag) (s : State) : (backArrived i g b c s).core = s.core := by
  unfold backArrived
  dsimp only
  repeat' first
    | with_reducible (first
      | exact rfl | apply ite_core | refine (bump_core ..).trans ?_ | refine (modSide_core ..).trans ?_
      | refine (modBlk_core ..).trans ?_ | refine (closeSeat_core ..).trans ?_ | refine (mismatch_core ..).trans ?_
      | refine (tryBackDone_core ..).trans ?_)
    | split
    | exact rfl

theorem backFailed_core (i g : Nat) (b : Option Nat) (s : State) : (backFailed i g b s).core = s.core := by
  unfold backFailed
  dsimp only
  repeat' first
    | with_reducible (first
      | exact rfl | apply ite_core | refine (setFlag_core ..).trans ?_ | refine (bump_core ..).trans ?_
      | refine (modBlk_core ..).trans ?_ | refine (closeSeat_core ..).trans ?_)
    | split
    | exact rfl

theorem refuse_core (i code : Nat) (s : State) : (refuse i code s).core = s.core := by
  simp only [refuse, bump_core, modSide_core, sendFor_core]

theorem pinCurrent_core (i : Nat) (s : State) : (pinCurrent i s).core = s.core := modSeat_core ..

theorem pinByVersion_core (i : Nat) (s : State) : (pinByVersion i s).core = s.core := modSeat_core ..

theorem admitFields_core (i : Nat) (rseed : BitVec 32) (s : State) : (admitFields i rseed s).core = s.core := modSeat_core ..

theorem sendAdmit_core (i : Nat) (s : State) : (sendAdmit i s).core = s.core := by
  simp only [sendAdmit, bump_core, sendFor_core]

theorem commitAdmit_core (i : Nat) (s : State) : (commitAdmit i s).core = s.core := by
  simp only [commitAdmit, modSide_core, modTenant_core, modCls_core, takePins_core, formContext_core, sendAdmit_core]

theorem sendSplitOpen_core (i : Nat) (ms : List Member) (self : Nat) (p : Bool × State) :
    (sendSplitOpen i ms self p).2.core = p.2.core := by
  unfold sendSplitOpen
  dsimp only
  repeat' first
    | with_reducible (first
      | exact rfl | refine (modKv_core ..).trans ?_ | refine (sendN_core ..).trans ?_)
    | split
    | exact rfl

theorem openSplit_core (i : Nat) (s : State) : (openSplit i s).core = s.core := by
  unfold openSplit
  try dsimp only
  repeat' first
    | with_reducible (first
      | exact rfl | apply ite_core | apply each_core | apply each2_core | intro _ _ | intro _
      | refine (modSeat_core ..).trans ?_ | refine (modSide_core ..).trans ?_ | refine (modDeals_core ..).trans ?_
      | refine (closeSeat_core ..).trans ?_ | refine (sendSplitOpen_core ..).trans ?_ | (unfold State.core; exact rfl))
    | split
    | (rename_i h; have h := congrArg (fun x => State.core (Prod.snd x)) h; simp only [modSeat_core, modSide_core, modDeals_core, closeSeat_core, sendSplitOpen_core] at h; exact h.symm)
    | exact rfl
    | (simp only [*]; done)

theorem endSplitLookup_core (i : Nat) (s : State) : (endSplitLookup i s).core = s.core := by
  unfold endSplitLookup
  dsimp only
  repeat' first
    | with_reducible (first
      | exact rfl | apply ite_core | refine (modSide_core ..).trans ?_ | refine (debit_core ..).trans ?_
      | refine (updHitFrac_core ..).trans ?_ | refine (routeLocal_core ..).trans ?_ | refine (shipSeat_core ..).trans ?_)
    | split
    | exact rfl

theorem afterAdmit_core (i : Nat) (s : State) : (afterAdmit i s).core = s.core := by
  unfold afterAdmit
  dsimp only
  repeat' first
    | with_reducible (first
      | exact rfl | apply ite_core | refine (bump_core ..).trans ?_ | refine (takeFree_core ..).trans ?_
      | refine (modSeat_core ..).trans ?_ | refine (closeSeat_core ..).trans ?_ | refine (beginLookup_core ..).trans ?_
      | refine (resumeSeat_core ..).trans ?_ | refine (openSplit_core ..).trans ?_)
    | split
    | exact rfl

theorem decideOpen_core (i nstop : Nat) (rseed : BitVec 32) (s : State) : (decideOpen i nstop rseed s).core = s.core := by
  unfold decideOpen
  dsimp only
  repeat' first
    | with_reducible (first
      | exact rfl | apply ite_core | refine (modSeat_core ..).trans ?_ | refine (debit_core ..).trans ?_
      | refine (returnOpenCredit_core ..).trans ?_ | refine (refuse_core ..).trans ?_ | refine (pinCurrent_core ..).trans ?_
      | refine (pinByVersion_core ..).trans ?_ | refine (admitFields_core ..).trans ?_
      | refine (commitAdmit_core ..).trans ?_ | refine (afterAdmit_core ..).trans ?_)
    | split
    | exact rfl

theorem imageLost_core (i : Nat) (s : State) : (imageLost i s).core = s.core := by
  simp only [imageLost, modPorts_core, returnOpenCredit_core, refuse_core]

theorem awaitImage_core (i : Nat) (s : State) : (awaitImage i s).core = s.core := by
  unfold awaitImage
  dsimp only
  repeat' first
    | with_reducible (first
      | exact rfl | apply ite_core | refine (modSide_core ..).trans ?_ | refine (returnOpenCredit_core ..).trans ?_
      | refine (sendFor_core ..).trans ?_ | refine (newTag_core ..).trans ?_ | refine (refuse_core ..).trans ?_
      | refine (imageLost_core ..).trans ?_)
    | split
    | exact rfl

theorem imageArrived_core (i : Nat) (m : Image) (s : State) : (imageArrived i m s).core = s.core := by
  unfold imageArrived
  dsimp only
  repeat' first
    | with_reducible (first
      | exact rfl | apply ite_core | refine (modSeat_core ..).trans ?_ | refine (modSide_core ..).trans ?_
      | refine (refuse_core ..).trans ?_ | refine (decideOpen_core ..).trans ?_)
    | split
    | exact rfl

theorem takeOpen_core (i : Nat) (m : OpenMsg) (s : State) : (takeOpen i m s).core = s.core := by
  unfold takeOpen
  dsimp only
  repeat' first
    | with_reducible (first
      | exact rfl | apply ite_core | refine (modSeat_core ..).trans ?_ | refine (modSide_core ..).trans ?_
      | refine (takeSeat_core ..).trans ?_ | refine (startLookup_core ..).trans ?_)
    | split
    | exact rfl

theorem refuseBare_core (m : OpenMsg) (code : Nat) (s : State) : (refuseBare m code s).core = s.core := by
  simp only [refuseBare, bump_core, returnOpenCredit_core, sendMsg_core]

theorem openTaken_core (m : OpenMsg) (s : State) : (openTaken m s).core = s.core := by
  unfold openTaken
  dsimp only
  repeat' first
    | with_reducible (first
      | exact rfl | apply ite_core | refine (bump_core ..).trans ?_ | refine (freeSeat_core ..).trans ?_
      | refine (takeSeat_core ..).trans ?_ | refine (decideOpen_core ..).trans ?_ | refine (awaitImage_core ..).trans ?_
      | refine (takeOpen_core ..).trans ?_ | refine (refuseBare_core ..).trans ?_)
    | split
    | exact rfl

theorem badLen_core (p : Port) (peer cls : Nat) (s : State) : (badLen p peer cls s).core = s.core := by
  unfold badLen; split <;> simp only [setFlag_core, bump_core, returnCredit_core, returnOpenCredit_core]

theorem forwardPrompt_core (i : Nat) (m : PromptMsg) (s : State) : (forwardPrompt i m s).core = s.core := by
  unfold forwardPrompt
  dsimp only
  repeat' first
    | with_reducible (first
      | exact rfl | apply ite_core | apply each_core | intro _ _ | intro _ | refine (sendN_core ..).trans ?_)
    | split
    | exact rfl

theorem promptTokens_core (i : Nat) (m : PromptMsg) (s : State) : (promptTokens i m s).core = s.core := by
  unfold promptTokens; split <;> simp only [stretchStep_core, storeToks_core, forwardPrompt_core]

theorem promptTaken_core (p : Port) (peer : Nat) (m : PromptMsg) (s : State) : (promptTaken p peer m s).core = s.core := by
  unfold promptTaken
  dsimp only
  repeat' first
    | with_reducible (first
      | exact rfl | apply ite_core | refine (setFlag_core ..).trans ?_ | refine (bump_core ..).trans ?_
      | refine (modKv_core ..).trans ?_ | refine (returnCredit_core ..).trans ?_ | refine (badPrompt_core ..).trans ?_
      | refine (promptTokens_core ..).trans ?_)
    | split
    | exact rfl

theorem retryHeld_core (f : Nat) (s : State) : (retryHeld f s).core = s.core := by
  induction f generalizing s with
  | zero => rfl
  | succ f ih =>
    unfold retryHeld
    dsimp only
    repeat' first
      | with_reducible exact rfl
      | with_reducible apply ite_core
      | with_reducible refine (ih ..).trans ?_
      | with_reducible refine (promptTaken_core ..).trans ?_
      | exact rfl
      | split

theorem finish_core (s : State) : (finish s).core = s.core := by
  simp only [finish, drain_core, idleActions_core, fetchStep_core, hotRetry_core, holdStep_core, lowStep_core, retryHeld_core]

theorem promptGo_core (p : Port) (peer : Nat) (m : PromptMsg) (s : State) : (promptGo p peer m s).core = s.core := by
  unfold promptGo
  try dsimp only
  repeat' first
    | with_reducible (first
      | exact rfl | apply ite_core | refine (setFlag_core ..).trans ?_ | refine (bump_core ..).trans ?_
      | refine (modKv_core ..).trans ?_ | refine (badLen_core ..).trans ?_ | refine (promptTaken_core ..).trans ?_
      | refine (finish_core ..).trans ?_ | (unfold State.core; exact rfl))
    | split
    | exact rfl
    | (simp only [*]; done)

theorem handlePrompt_core (p : Port) (peer : Nat) (m : PromptMsg) (s : State) : (handlePrompt p peer m s).core = s.core := by
  unfold handlePrompt
  repeat' first
    | with_reducible (first
      | exact rfl | apply ite_core | refine (arrive_core ..).trans ?_ | refine (promptGo_core ..).trans ?_
      | (unfold State.core; exact rfl))
    | split
    | (rename_i h; have h := congrArg (fun x => State.core (Prod.snd x)) h; simp only [arrive_core] at h; exact h.symm)
    | exact rfl
    | (simp only [*]; done)

theorem cancelQueued_core (i : Nat) (s : State) : (cancelQueued i s).core = s.core := by
  unfold cancelQueued
  dsimp only
  repeat' first
    | with_reducible (first
      | exact rfl | apply ite_core | refine (modSeat_core ..).trans ?_ | refine (modPorts_core ..).trans ?_)
    | split
    | exact rfl

theorem cancelSeat_core (i : Nat) (s : State) : (cancelSeat i s).core = s.core := by
  unfold cancelSeat
  dsimp only
  repeat' first
    | with_reducible (first
      | exact rfl | apply ite_core | refine (bump_core ..).trans ?_ | refine (modSeat_core ..).trans ?_
      | refine (closeSeat_core ..).trans ?_ | refine (atOnceSeat_core ..).trans ?_ | refine (cancelQueued_core ..).trans ?_)
    | split
    | exact rfl

theorem cancelTaken_core (reqid : Word) (s : State) : (cancelTaken reqid s).core = s.core := by
  unfold cancelTaken
  dsimp only
  repeat' first
    | with_reducible (first
      | exact rfl | refine (bump_core ..).trans ?_ | refine (finish_core ..).trans ?_ | refine (cancelSeat_core ..).trans ?_)
    | split
    | exact rfl

theorem cancelGo_core (reqid : Word) (s : State) : (cancelGo reqid s).core = s.core := by
  simp only [cancelGo, returnCredit_core, cancelTaken_core]

theorem handleCancel_core (reqid : Word) (s : State) : (handleCancel reqid s).core = s.core := by
  unfold handleCancel
  repeat' first
    | with_reducible (first
      | exact rfl | refine (arrive_core ..).trans ?_ | refine (cancelGo_core ..).trans ?_ | (unfold State.core; exact rfl))
    | split
    | (rename_i h; have h := congrArg (fun x => State.core (Prod.snd x)) h; simp only [arrive_core] at h; exact h.symm)
    | exact rfl
    | (simp only [*]; done)

theorem splitOpenTaken_core (peer : Nat) (m : SplitOpenMsg) (s : State) : (splitOpenTaken peer m s).core = s.core := by
  unfold splitOpenTaken
  dsimp only
  repeat' first
    | with_reducible (first
      | exact rfl | apply ite_core | refine (modSeat_core ..).trans ?_ | refine (modSide_core ..).trans ?_
      | refine (modDeals_core ..).trans ?_ | refine (takePins_core ..).trans ?_ | refine (freeSeat_core ..).trans ?_
      | refine (formContext_core ..).trans ?_ | refine (takeSeat_core ..).trans ?_
      | refine (sendSplitOpened_core ..).trans ?_ | refine (fillStretch_core ..).trans ?_
      | refine (beginLookup_core ..).trans ?_ | refine (startLookup_core ..).trans ?_
      | refine (pinByVersion_core ..).trans ?_)
    | split
    | exact rfl

theorem shipComplete_core (i : Nat) (s : State) : (shipComplete i s).core = s.core := by
  unfold shipComplete
  dsimp only
  repeat' first
    | with_reducible (first
      | exact rfl | apply ite_core | refine (modSeat_core ..).trans ?_ | refine (modSide_core ..).trans ?_
      | refine (updPool_core ..).trans ?_)
    | split
    | exact rfl

theorem prefillKvIn_core (i gen block tag : Nat) (c : BlockTag) (s : State) :
    (prefillKvIn i gen block tag c s).core = s.core := by
  unfold prefillKvIn
  dsimp only
  repeat' first
    | with_reducible (first
      | exact rfl | apply ite_core | refine (bump_core ..).trans ?_ | refine (modSide_core ..).trans ?_
      | refine (modBlk_core ..).trans ?_ | refine (shipFail_core ..).trans ?_ | refine (mismatch_core ..).trans ?_
      | refine (finish_core ..).trans ?_ | refine (shipComplete_core ..).trans ?_)
    | split
    | exact rfl

theorem discardFetch_core (b : Nat) (s : State) : (discardFetch b s).core = s.core := by
  simp only [discardFetch, modBlk_core, clearLocal_core]

theorem fetchData_core (tag : Nat) (c : BlockTag) (s : State) : (fetchData tag c s).core = s.core := by
  unfold fetchData
  dsimp only
  repeat' first
    | with_reducible (first
      | exact rfl | apply ite_core | refine (bump_core ..).trans ?_ | refine (modBlk_core ..).trans ?_
      | refine (endTag_core ..).trans ?_ | refine (stretchStep_core ..).trans ?_ | refine (fetchArrived_core ..).trans ?_
      | refine (backArrived_core ..).trans ?_ | refine (discardFetch_core ..).trans ?_)
    | split
    | exact rfl

theorem kvDataIn_core (tag : Nat) (c : BlockTag) (s : State) : (kvDataIn tag c s).core = s.core := by
  simp only [kvDataIn, finish_core, fetchData_core]

theorem fetchMissed_core (tag : Nat) (s : State) : (fetchMissed tag s).core = s.core := by
  unfold fetchMissed
  dsimp only
  repeat' first
    | with_reducible (first
      | exact rfl | apply ite_core | refine (setFlag_core ..).trans ?_ | refine (bump_core ..).trans ?_
      | refine (endTag_core ..).trans ?_ | refine (stretchFail_core ..).trans ?_ | refine (fetchFailed_core ..).trans ?_
      | refine (backFailed_core ..).trans ?_ | refine (imageLost_core ..).trans ?_ | refine (awaitImage_core ..).trans ?_
      | refine (discardFetch_core ..).trans ?_)
    | split
    | exact rfl

theorem imageData_core (tag : Nat) (m : Image) (s : State) : (imageData tag m s).core = s.core := by
  unfold imageData
  dsimp only
  repeat' first
    | with_reducible (first
      | exact rfl | apply ite_core | refine (endTag_core ..).trans ?_ | refine (startBack_core ..).trans ?_
      | refine (awaitImage_core ..).trans ?_ | refine (imageArrived_core ..).trans ?_)
    | split
    | exact rfl

theorem imageDataIn_core (tag : Nat) (m : Image) (s : State) : (imageDataIn tag m s).core = s.core := by
  simp only [imageDataIn, finish_core, imageData_core]

theorem dirTaken_core {op n : Nat} {f : State → State} {s : State} {y : Core} (hf : ∀ s, (f s).core = s.core)
    (hs : s.core = y) : (dirTaken op n f s).core = y := by
  unfold dirTaken
  refine taking_core (fun s => ?_) hs
  split
  · exact hf s
  · rw [setFlag_core, bump_core]

theorem dropDir_core (e : DirEntry) (s : State) : (dropDir e s).core = s.core := by
  unfold dropDir
  dsimp only
  repeat' first
    | with_reducible (first
      | exact rfl | apply ite_core | refine (modBlk_core ..).trans ?_ | refine (setIdx_core ..).trans ?_)
    | split
    | exact rfl

theorem objResult_core (r : Nat) (s : State) : (objResult r s).core = s.core := setFld_core ..

theorem uncurrentObj_core (kind id slot : Nat) (s : State) : (uncurrentObj kind id slot s).core = s.core := retireObj_core ..

theorem registerObj_core (s : State) : (registerObj s).core = s.core := by
  unfold registerObj
  dsimp only
  repeat' first
    | with_reducible (first
      | exact rfl | apply ite_core | refine (setFld_core ..).trans ?_ | refine (bump_core ..).trans ?_
      | refine (modObj_core ..).trans ?_ | refine (objResult_core ..).trans ?_ | refine (uncurrentObj_core ..).trans ?_)
    | split
    | exact rfl

theorem withdrawObj_core (s : State) : (withdrawObj s).core = s.core := by
  unfold withdrawObj; split <;> simp only [objResult_core, uncurrentObj_core]

theorem popObj_core (s : State) : (popObj s).core = s.core := by
  unfold popObj; split <;> rfl

theorem putRow_core (r : Row) (s : State) : (putRow r s).core = s.core := modSieve_core ..

theorem errRow_core (r : Row) (kind : Nat) (s : State) : (errRow r kind s).core = s.core := setReg_core ..

theorem countSel_core (r : Row) (x : SelRec) (s : State) : (countSel r x s).core = s.core := by
  unfold countSel
  dsimp only
  repeat' first
    | with_reducible (first
      | exact rfl | apply ite_core | refine (setFlag_core ..).trans ?_ | refine (bump_core ..).trans ?_
      | refine (errRow_core ..).trans ?_)
    | split
    | exact rfl

theorem sendRefill_core (r : Row) (shards : List Nat) (sampling : Bool) (s : State) :
    (sendRefill r shards sampling s).core = s.core := by
  unfold sendRefill
  dsimp only
  repeat' first
    | with_reducible (first
      | exact rfl | apply ite_core | refine (bump_core ..).trans ?_ | refine (modSieve_core ..).trans ?_
      | refine (sendF_core ..).trans ?_ | refine (putRow_core ..).trans ?_)
    | split
    | exact rfl

theorem limitRow_core (r : Row) (s : State) : (limitRow r s).2.core = s.core := by
  simp only [limitRow, setFlag_core, bump_core, putRow_core, errRow_core]

theorem askRefill_core (r : Row) (shards : List Nat) (sampling : Bool) (s : State) :
    (askRefill r shards sampling s).2.core = s.core := by
  unfold askRefill
  dsimp only
  repeat' first
    | with_reducible (first
      | exact rfl | apply ite_core | refine (setFlag_core ..).trans ?_ | refine (bump_core ..).trans ?_
      | refine (putRow_core ..).trans ?_ | refine (sendRefill_core ..).trans ?_ | refine (limitRow_core ..).trans ?_)
    | split
    | exact rfl

theorem mergeList_core (r : Row) (m : CandMsg) (s : State) : (mergeList r m s).2.core = s.core := by
  unfold mergeList
  dsimp only
  repeat' first
    | with_reducible (first
      | exact rfl | apply ite_core | refine (setFlag_core ..).trans ?_ | refine (bumpN_core ..).trans ?_
      | refine (bump_core ..).trans ?_ | refine (putRow_core ..).trans ?_ | refine (errRow_core ..).trans ?_)
    | split
    | exact rfl

theorem evalRow_core (r : Row) (s : State) : (evalRow r s).core = s.core := by
  unfold evalRow
  dsimp only
  repeat' first
    | with_reducible (first
      | exact rfl | apply ite_core | refine (putRow_core ..).trans ?_ | refine (countSel_core ..).trans ?_
      | refine (limitRow_core ..).trans ?_ | refine (askRefill_core ..).trans ?_)
    | split
    | exact rfl

theorem modRun_core (seat : Nat) (f : SeatRun → SeatRun) (s : State) : (modRun seat f s).core = s.core := modSieve_core ..

theorem finalRow_core (r : Row) (approx : Bool) (s : State) : (finalRow r approx s).core = s.core := by
  unfold finalRow; split <;> simp only [setFlag_core, bump_core, modSieve_core]

theorem digest_core (r : Row) (x : SelRec) (tok : Option Nat) (s : State) : (digest r x tok s).core = s.core := by
  unfold digest; split <;> simp only [bump_core, trace_core]

theorem useRow_core (r : Row) (x : SelRec) (approx : Bool) (tok : Option Nat) (s : State) :
    (useRow r x approx tok s).core = s.core := by
  simp only [useRow, modRun_core, finalRow_core, digest_core]

theorem emitTok_core (seat tok : Nat) (acc last : Bool) (s : State) : (emitTok seat tok acc last s).core = s.core := by
  unfold emitTok; split <;> rfl

theorem closeRow_core (r : Row) (s : State) : (closeRow r s).core = s.core := by
  unfold closeRow
  dsimp only
  repeat' first
    | with_reducible (first
      | exact rfl | apply ite_core | refine (putRow_core ..).trans ?_ | refine (countSel_core ..).trans ?_
      | refine (finalRow_core ..).trans ?_)
    | split
    | exact rfl

theorem closeRows_core (seat : Nat) (s : State) : (closeRows seat s).core = s.core := by
  unfold closeRows
  try dsimp only
  repeat' first
    | with_reducible (first
      | exact rfl | apply ite_core | apply each_core | apply each2_core | intro _ _ | intro _
      | refine (closeRow_core ..).trans ?_ | (unfold State.core; exact rfl))
    | split
    | exact rfl
    | (simp only [*]; done)

theorem writeResult_core (seat : Nat) (s : State) : (writeResult seat s).core = s.core := by
  unfold writeResult
  dsimp only
  repeat' first
    | with_reducible (first
      | exact rfl | apply ite_core | refine (setFlag_core ..).trans ?_ | refine (bump_core ..).trans ?_
      | refine (modSieve_core ..).trans ?_)
    | split
    | exact rfl

theorem refillFor_core (r : Row) (shards : List Nat) (sampling : Bool) (s : State) :
    (refillFor r shards sampling s).2.core = s.core := by
  unfold refillFor
  dsimp only
  repeat' first
    | with_reducible (first
      | exact rfl | apply ite_core | refine (putRow_core ..).trans ?_ | refine (limitRow_core ..).trans ?_
      | refine (askRefill_core ..).trans ?_)
    | split
    | exact rfl

theorem drawRow_core (r : Row) (x : SelRec) (d : Dist) (ap : Bool) (skip : Option Nat) (may : Bool) (s : State) :
    (drawRow r x d ap skip may s).2.core = s.core := by
  unfold drawRow
  dsimp only
  repeat' first
    | with_reducible (first
      | exact rfl | refine (modRun_core ..).trans ?_ | refine (useRow_core ..).trans ?_ | refine (emitTok_core ..).trans ?_
      | refine (refillFor_core ..).trans ?_)
    | split
    | exact rfl

theorem undefRow_core (r : Row) (x : SelRec) (draft : Option Nat) (s : State) : (undefRow r x draft s).2.core = s.core := by
  unfold undefRow
  dsimp only
  repeat' first
    | with_reducible (first
      | exact rfl | apply ite_core | refine (takeFree_core ..).trans ?_ | refine (useRow_core ..).trans ?_
      | refine (emitTok_core ..).trans ?_)
    | split
    | exact rfl

theorem decideRow_core (q : SeatRun) (s : State) : (decideRow q s).2.core = s.core := by
  unfold decideRow
  dsimp only
  repeat' first
    | with_reducible (first
      | exact rfl | apply ite_core | refine (modRun_core ..).trans ?_ | refine (useRow_core ..).trans ?_
      | refine (emitTok_core ..).trans ?_ | refine (refillFor_core ..).trans ?_ | refine (drawRow_core ..).trans ?_
      | refine (undefRow_core ..).trans ?_)
    | split
    | exact rfl

theorem pumpRun_core (i f : Nat) (s : State) : (pumpRun i f s).core = s.core := by
  induction f generalizing s with
  | zero => rfl
  | succ f ih =>
    unfold pumpRun
    split
    · rfl
    · dsimp only
      split
      · rw [ih, decideRow_core]
      · split
        · rw [writeResult_core, closeRows_core, decideRow_core]
        · exact decideRow_core ..

theorem sievePump_core (s : State) : (sievePump s).core = s.core := by
  unfold sievePump
  try dsimp only
  repeat' first
    | with_reducible (first
      | exact rfl | apply each_core | apply each2_core | intro _ _ | intro _ | refine (pumpRun_core ..).trans ?_
      | (unfold State.core; exact rfl))
    | exact rfl
    | (simp only [*]; done)

theorem stray_core (c : Nat) (s : State) : (stray c s).core = s.core := by
  simp only [stray, setFlag_core, bump_core]

theorem roundDone_core (r : Row) (s : State) : (roundDone r s).core = s.core := by
  unfold roundDone
  dsimp only
  repeat' first
    | with_reducible (first
      | exact rfl | apply ite_core | refine (evalRow_core ..).trans ?_ | refine (pumpRun_core ..).trans ?_)
    | split
    | exact rfl

theorem candTaken_core (m : CandMsg) (s : State) : (candTaken m s).core = s.core := by
  unfold candTaken
  dsimp only
  repeat' first
    | with_reducible (first
      | exact rfl | apply ite_core | refine (mergeList_core ..).trans ?_ | refine (stray_core ..).trans ?_
      | refine (roundDone_core ..).trans ?_)
    | split
    | exact rfl

theorem candIn_core (m : CandMsg) (s : State) : (candIn m s).core = s.core := by
  unfold candIn; split <;> simp only [modSieve_core, candTaken_core]

theorem candBack_core (s : State) : (candBack s).core = s.core := by
  unfold candBack
  try dsimp only
  repeat' first
    | with_reducible (first
      | exact rfl | apply each_core | apply each2_core | intro _ _ | intro _ | refine (modSieve_core ..).trans ?_
      | refine (candIn_core ..).trans ?_ | (unfold State.core; exact rfl))
    | exact rfl
    | (simp only [*]; done)

theorem serveWaiting_core (l : List Row) (s : State) : (serveWaiting l s).core = s.core := by
  induction l generalizing s with
  | nil => rfl
  | cons r l ih =>
    unfold serveWaiting
    split
    · split
      · rw [ih, sendRefill_core]
      · rfl
    · exact ih s

theorem draftsLate_core (ok : Bool) (m : DraftsMsg) (s : State) : (draftsLate ok m s).core = s.core := by
  unfold draftsLate
  dsimp only
  repeat' first
    | with_reducible (first
      | exact rfl | apply ite_core | refine (modSieve_core ..).trans ?_ | refine (stray_core ..).trans ?_)
    | split
    | exact rfl

theorem modSplit_core (i : Nat) (f : SplitEnt → SplitEnt) (s : State) : (modSplit i f s).core = s.core := modDeals_core ..

theorem heard_core (peer : Nat) (s : State) : (heard peer s).core = s.core := modDeals_core ..

theorem lend_core (peer el : Nat) (s : State) : (lend peer el s).core = s.core := by
  unfold lend
  dsimp only
  repeat' first
    | with_reducible (first
      | exact rfl | apply ite_core | refine (bump_core ..).trans ?_ | refine (modDeals_core ..).trans ?_
      | refine (sendN_core ..).trans ?_)
    | split
    | exact rfl

theorem drawLent_core (peer el beats : Nat) (s : State) : (drawLent peer el beats s).core = s.core := modDeals_core ..

theorem underLease_core (peer el beats : Nat) (s : State) : (underLease peer el beats s).2.core = s.core := by
  unfold underLease; split <;> rfl

theorem fromPeer_core {peer cls op : Nat} {word1 : Word} {beats : Nat} {f : State → State} {s : State} {x : Core}
    (hf : ∀ s, (f s).core = s.core) (hs : s.core = x) : (fromPeer peer cls op word1 beats f s).core = x := by
  unfold fromPeer
  rw [finish_core]
  exact taking_core hf ((heard_core ..).trans hs)

theorem fromPeerLeased_core {x : Gated} {op el : Nat} {word1 : Word} {f : State → State} {s : State} {y : Core}
    (hf : ∀ s, (f s).core = s.core) (hs : s.core = y) : (fromPeerLeased x op el word1 f s).core = y := by
  subst hs
  unfold fromPeerLeased
  dsimp only
  split
  · rw [setFlag_core, bump_core, portCnt_core, heard_core]
  · split
    · rw [sendNotReady_core, portCnt_core, heard_core]
    · rw [finish_core]
      split
      · rw [gatedIn_core hf rfl, underLease_core, portCnt_core, heard_core]
      · rw [underLease_core, portCnt_core, heard_core]

theorem fromPeerJoint_core {peer op el : Nat} {word1 : Word} {f : State → State} {s : State} {y : Core}
    (hf : ∀ s, (f s).core = s.core) (hs : s.core = y) : (fromPeerJoint peer op el word1 f s).core = y := by
  unfold fromPeerJoint
  split
  · rw [finish_core, hf, drawLent_core, portCnt_core, heard_core, hs]
  · exact fromPeer_core hf hs

theorem sendJoint_core (peer op : Nat) (w0 : List (Nat × Nat)) (rest : List Word) (s : State) :
    (sendJoint peer op w0 rest s).core = s.core := by
  simp only [sendJoint, sendMsg_core]

theorem leaseTaken_core (peer el len msgs beats : Nat) (s : State) :
    (leaseTaken peer el len msgs beats s).core = s.core := by
  unfold leaseTaken; split <;> rfl

theorem splitOpenedTaken_core (peer : Nat) (reqid : Word) (seat gen self : Nat) (refused : Bool) (hits : Nat) (s : State) :
    (splitOpenedTaken peer reqid seat gen self refused hits s).core = s.core := by
  unfold splitOpenedTaken
  dsimp only
  repeat' first
    | with_reducible (first
      | exact rfl | apply ite_core | refine (modSide_core ..).trans ?_ | refine (sendN_core ..).trans ?_
      | refine (closeSeat_core ..).trans ?_ | refine (endSplitLookup_core ..).trans ?_ | refine (modSplit_core ..).trans ?_)
    | split
    | exact rfl

theorem endBindings_core (gone : Nat → Bool) (s : State) : (endBindings gone s).core = s.core := modDeals_core ..

theorem unbind_core (i : Nat) (s : State) : (unbind i s).core = s.core := modDeals_core ..

theorem sendBind_core (peer el lseat lgen : Nat) (refused : Bool) (ef : Nat) (s : State) :
    (sendBind peer el lseat lgen refused ef s).core = s.core := sendN_core ..

theorem offerTaken_core (peer el seat gen rows : Nat) (s : State) : (offerTaken peer el seat gen rows s).core = s.core := by
  unfold offerTaken
  dsimp only
  repeat' first
    | with_reducible (first
      | exact rfl | apply ite_core | refine (takeFree_core ..).trans ?_ | refine (modDeals_core ..).trans ?_
      | refine (lend_core ..).trans ?_ | refine (sendBind_core ..).trans ?_)
    | split
    | exact rfl

theorem bindTaken_core (el seat gen : Nat) (refused : Bool) (s : State) :
    (bindTaken el seat gen refused s).core = s.core := by
  unfold bindTaken
  try dsimp only
  repeat' first
    | with_reducible (first
      | exact rfl | apply ite_core | refine (bump_core ..).trans ?_ | refine (failSeat_core ..).trans ?_
      | refine (modSplit_core ..).trans ?_ | (unfold State.core; exact rfl))
    | split
    | exact rfl
    | (simp only [*]; done)

theorem followerReady_core (seat : Nat) (s : State) : (followerReady seat s).core = s.core := by
  unfold followerReady; split <;> rfl

theorem goTaken_core (peer el seat gen live : Nat) (toks : List (BitVec 20)) (s : State) :
    (goTaken peer el seat gen live toks s).core = s.core := by
  unfold goTaken
  dsimp only
  repeat' first
    | with_reducible (first
      | exact rfl | apply ite_core | refine (bump_core ..).trans ?_ | refine (modSide_core ..).trans ?_
      | refine (modDeals_core ..).trans ?_ | refine (modSplit_core ..).trans ?_ | refine (lend_core ..).trans ?_
      | refine (followerReady_core ..).trans ?_)
    | split
    | exact rfl

theorem offerSeat_core (epoch : Nat) (x : DealSeat) (s : State) : (offerSeat epoch x s).core = s.core := by
  unfold offerSeat
  try dsimp only
  repeat' first
    | with_reducible (first
      | exact rfl | apply ite_core | apply each_core | apply each2_core | intro _ _ | intro _
      | refine (lend_core ..).trans ?_ | refine (sendJoint_core ..).trans ?_ | (unfold State.core; exact rfl))
    | split
    | (rename_i h; have h := congrArg (fun x => State.core (Prod.snd x)) h; simp only [lend_core, sendJoint_core] at h; exact h.symm)
    | exact rfl
    | (simp only [*]; done)

theorem goSeat_core (epoch live : Nat) (x : DealSeat) (toks : List Nat) (s : State) :
    (goSeat epoch live x toks s).core = s.core := by
  unfold goSeat
  dsimp only
  repeat' first
    | with_reducible (first
      | exact rfl | apply ite_core | apply each_core | intro _ _ | intro _ | refine (lend_core ..).trans ?_
      | refine (sendJoint_core ..).trans ?_)
    | split
    | exact rfl

theorem queryTaken_core (el layer rows seat gen : Nat) (p : Payload) (s : State) :
    (queryTaken el layer rows seat gen p s).core = s.core := by
  unfold queryTaken
  dsimp only
  repeat' first
    | with_reducible (first
      | exact rfl | apply ite_core | refine (bump_core ..).trans ?_ | refine (modDeals_core ..).trans ?_
      | refine (sendF_core ..).trans ?_)
    | split
    | exact rfl

theorem partialTaken_core (el layer seat gen self : Nat) (p : Payload) (s : State) :
    (partialTaken el layer seat gen self p s).core = s.core := by
  unfold partialTaken
  dsimp only
  repeat' first
    | with_reducible (first
      | exact rfl | apply ite_core | refine (bump_core ..).trans ?_ | refine (modDeals_core ..).trans ?_
      | refine (sendF_core ..).trans ?_)
    | split
    | exact rfl

theorem payTag_core (s : State) : (payTag s).2.core = s.core := rfl

theorem sendExchange_core (peer op i kind ntok bytes : Nat) (pay : List Word) (rest : List Word) (s : State) :
    (sendExchange peer op i kind ntok bytes pay rest s).core = s.core := by
  simp only [sendExchange, sendFor_core, payTag_core]

theorem queryOut_core (seat el layer rows bytes : Nat) (pay : List Word) (s : State) :
    (queryOut seat el layer rows bytes pay s).core = s.core := by
  unfold queryOut
  dsimp only
  repeat' first
    | with_reducible (first
      | exact rfl | apply each_core | intro _ _ | intro _ | refine (modDeals_core ..).trans ?_
      | refine (sendExchange_core ..).trans ?_)
    | split
    | exact rfl

theorem partialOut_core (seat el layer bytes : Nat) (pay : List Word) (s : State) :
    (partialOut seat el layer bytes pay s).core = s.core := by
  simp only [partialOut, sendExchange_core]

theorem exchangeOut_core (isQuery : Bool) (seat gen el layer rows bytes : Nat) (pay : List Word) (s : State) :
    (exchangeOut isQuery seat gen el layer rows bytes pay s).core = s.core := by
  unfold exchangeOut
  repeat' first
    | with_reducible (first
      | exact rfl | apply ite_core | refine (bump_core ..).trans ?_ | refine (queryOut_core ..).trans ?_
      | refine (partialOut_core ..).trans ?_)
    | split
    | exact rfl

theorem voidRun_core (i : Nat) (s : State) : (voidRun i s).core = s.core := rfl

end Sys2Proof.Machine
end

