-- ==== Sys2Proof/Laws/CoreDeals.lean ====
section
/-! SUPPORT. What each shared operation does to the core of the state (`State.core`): nothing, but for those named here. The Dealer, the gates, observation, policies, boundaries and the Herald. -/
namespace Sys2Proof.Machine

theorem askHot_core (m v : Nat) (s : State) : (askHot m v s).core = s.core := hotStart_core ..

theorem askHots_core (l : List Nat) (s : State) : (askHots l s).core = s.core := by
  unfold askHots
  try dsimp only
  repeat' first
    | with_reducible (first
      | exact rfl | apply each_core | apply each2_core | intro _ _ | intro _ | refine (askHot_core ..).trans ?_
      | (unfold State.core; exact rfl))
    | split
    | (rename_i h; have h := congrArg (fun x => State.core (Prod.snd x)) h; simp only [askHot_core] at h; exact h.symm)
    | exact rfl
    | (simp only [*]; done)

theorem passHot_core (i : Nat) (s : State) : (passHot i s).core = s.core := by
  unfold passHot; split <;> simp only [bump_core, trace_core, askHot_core]

theorem markDealable_core (s : State) : (markDealable s).core = s.core := by
  unfold markDealable
  dsimp only
  repeat' first
    | with_reducible (first
      | exact rfl | apply ite_core | apply each_core | intro _ _ | intro _ | refine (modSide_core ..).trans ?_)
    | split
    | exact rfl

theorem tagPrompt_core (i : Nat) (blocks : List Nat) (first : Nat) (s : State) :
    (tagPrompt i blocks first s).core = s.core := by
  unfold tagPrompt
  try dsimp only
  repeat' first
    | with_reducible (first
      | exact rfl | apply each_core | apply each2_core | intro _ _ | intro _ | refine (modBlk_core ..).trans ?_
      | refine (freePagesOf_core ..).trans ?_ | (unfold State.core; exact rfl))
    | exact rfl
    | (simp only [*]; done)

theorem linkTo_core {i last n : Nat} {s t : State} (h : linkTo i last s = some (n, t)) : t.core = s.core := by
  unfold linkTo at h
  dsimp only at h
  split at h
  · cases h; rfl
  · split at h
    · cases h
    · cases h; rw [tagPrompt_core, growChain_core]

theorem linkEntry_core {x : DealSeat} {n : Nat} {s t : State} (h : linkEntry x s = some (n, t)) : t.core = s.core := by
  unfold linkEntry at h
  split at h
  · cases h; rfl
  · split at h <;> exact linkTo_core h

theorem linkSeats_core (l : List DealSeat) (s : State) : (linkSeats l s).2.2.core = s.core := by
  induction l generalizing s with
  | nil => rfl
  | cons x r ih =>
    unfold linkSeats
    split
    · rw [setFlag_core, bump_core]
    · rename_i e
      exact (ih ..).trans (linkEntry_core e)

theorem compCycles_core (m n c : Nat) (s : State) : (compCycles m n c s).core = s.core := rfl

theorem setPassed_core (l : List Nat) (s : State) : (setPassed l s).core = s.core := by
  unfold setPassed
  try dsimp only
  repeat' first
    | with_reducible (first
      | exact rfl | apply each_core | apply each2_core | intro _ _ | intro _ | refine (modSide_core ..).trans ?_
      | (unfold State.core; exact rfl))
    | exact rfl
    | (simp only [*]; done)

theorem bindSeat_core (ef : Nat) (x : DealSeat) (s : State) : (bindSeat ef x s).core = s.core := by
  unfold bindSeat
  dsimp only
  repeat' first
    | with_reducible (first
      | exact rfl | apply ite_core | refine (modDeals_core ..).trans ?_ | refine (modSplit_core ..).trans ?_
      | refine (sendBind_core ..).trans ?_)
    | split
    | exact rfl

theorem composeFor_core (mv : Nat × Nat) (idle : Bool) (s : State) : (composeFor mv idle s).core = s.core := by
  unfold composeFor
  dsimp only
  repeat' first
    | with_reducible exact rfl
    | with_reducible apply ite_core
    | with_reducible apply each_core
    | with_reducible apply each2_core
    | intro _ _
    | with_reducible refine (modDeals_core ..).trans ?_
    | with_reducible refine (bindSeat_core ..).trans ?_
    | with_reducible refine (modSide_core ..).trans ?_
    | with_reducible refine (bumpN_core ..).trans ?_
    | with_reducible refine (compCycles_core ..).trans ?_
    | with_reducible refine (setFld_core ..).trans ?_
    | with_reducible refine (setPassed_core ..).trans ?_
    | with_reducible refine (linkSeats_core ..).trans ?_
    | with_reducible refine (stageFor_core ..).trans ?_
    | with_reducible refine (chipFor_core ..).trans ?_
    | with_reducible refine (passHot_core ..).trans ?_

theorem compose_core (idle : Bool) (s : State) : (compose idle s).core = s.core := by
  unfold compose
  dsimp only
  repeat' first
    | with_reducible (first
      | exact rfl | apply each_core | intro _ _ | intro _ | refine (setFld_core ..).trans ?_
      | refine (bumpN_core ..).trans ?_ | refine (passHot_core ..).trans ?_ | refine (markDealable_core ..).trans ?_
      | refine (setPassed_core ..).trans ?_ | refine (composeFor_core ..).trans ?_)
    | split
    | exact rfl

theorem roundKeys_core (s : State) (epoch : Nat) (l : List (List DealSeat)) (t : State) :
    (roundKeys s epoch l t).core = t.core := by
  induction l generalizing t with
  | nil => rfl
  | cons g r ih => simp only [roundKeys]; rw [ih, bumpN_core, sendF_core]

theorem biasMsgs_core (x : DealSeat) (e : Nat) (d : Bool) (l : List (List (Nat × Nat))) (s : State) :
    (biasMsgs x e d l s).core = s.core := by
  induction l generalizing s with
  | nil => rfl
  | cons g r ih => simp only [biasMsgs]; rw [ih, bumpN_core, sendF_core]

theorem fullBias_core (d : Deal) (x : DealSeat) (s : State) : (fullBias d x s).core = s.core := by
  unfold fullBias; split <;> simp only [biasMsgs_core]

theorem deltaBias_core (d : Deal) (x : DealSeat) (s : State) : (deltaBias d x s).core = s.core := by
  unfold deltaBias
  dsimp only
  repeat' first
    | with_reducible (first
      | exact rfl | apply ite_core | refine (biasMsgs_core ..).trans ?_)
    | split
    | exact rfl

theorem feedMsgs_core (e p : Nat) (l : List (List FeedEnt)) (s : State) : (feedMsgs e p l s).core = s.core := by
  induction l generalizing s with
  | nil => rfl
  | cons g r ih => simp only [feedMsgs]; rw [ih, sendF_core]

theorem sendKeys_core (d : Deal) (s : State) : (sendKeys d s).core = s.core := by
  unfold sendKeys; split <;> simp only [modDeals_core, roundKeys_core]

theorem candCfg_core (epoch : Nat) (s : State) : (candCfg epoch s).core = s.core := by
  unfold candCfg; split <;> simp only [modSieve_core, sendF_core]

theorem sendFeed_core (s : State) : (sendFeed s).core = s.core := by
  unfold sendFeed
  dsimp only
  repeat' first
    | with_reducible (first
      | exact rfl | apply ite_core | apply each_core | intro _ _ | intro _ | refine (modDeals_core ..).trans ?_
      | refine (deltaBias_core ..).trans ?_ | refine (feedMsgs_core ..).trans ?_ | refine (sendKeys_core ..).trans ?_)
    | split
    | exact rfl

theorem recordHandOff_core (d : Deal) (s : State) : (recordHandOff d s).core = s.core := by
  unfold recordHandOff
  dsimp only
  repeat' first
    | with_reducible (first
      | exact rfl | apply ite_core | refine (setReg_core ..).trans ?_ | refine (setFld_core ..).trans ?_
      | refine (bumpN_core ..).trans ?_ | refine (bump_core ..).trans ?_)
    | split
    | exact rfl

theorem sendDeal_core (d : Deal) (s : State) : (sendDeal d s).core = s.core := by
  unfold sendDeal
  dsimp only
  repeat' first
    | with_reducible (first
      | exact rfl | apply each_core | intro _ _ | intro _ | refine (sendF_core ..).trans ?_
      | refine (fullBias_core ..).trans ?_ | refine (sendKeys_core ..).trans ?_)
    | exact rfl

theorem lateHandOff_core (s : State) : (lateHandOff s).core = s.core := by
  unfold lateHandOff; split <;> simp only [trace_core]

theorem handOff_core (s : State) : (handOff s).core = s.core := by
  unfold handOff
  dsimp only
  repeat' first
    | with_reducible (first
      | exact rfl | apply ite_core | apply each_core | intro _ _ | intro _ | refine (modDeals_core ..).trans ?_
      | refine (offerSeat_core ..).trans ?_ | refine (sendFeed_core ..).trans ?_ | refine (recordHandOff_core ..).trans ?_
      | refine (sendDeal_core ..).trans ?_ | refine (lateHandOff_core ..).trans ?_)
    | split
    | exact rfl

theorem endBoundary_core (s : State) : (endBoundary s).core = s.core := by
  unfold endBoundary; split <;> rfl

theorem composeNext_core (s : State) : (composeNext s).core = s.core := by
  unfold composeNext
  dsimp only
  repeat' first
    | with_reducible (first
      | exact rfl | apply ite_core | refine (bump_core ..).trans ?_ | refine (compose_core ..).trans ?_
      | refine (endBoundary_core ..).trans ?_)
    | split
    | exact rfl

theorem fillCounters_core (g : Nat) (s : State) : (fillCounters g s).core = s.core := modGate_core ..

theorem moveBeats_core (g p moved : Nat) (s : State) : (moveBeats g p moved s).core = s.core := by
  unfold moveBeats
  dsimp only
  repeat' first
    | with_reducible (first
      | exact rfl | apply ite_core | refine (bumpN_core ..).trans ?_ | refine (modGate_core ..).trans ?_
      | refine (modPath_core ..).trans ?_ | refine (modReq_core ..).trans ?_)
    | split
    | exact rfl

theorem freeBeats_core (g p : Nat) (s : State) : (freeBeats g p s).core = s.core := by
  unfold freeBeats
  dsimp only
  repeat' first
    | with_reducible (first
      | exact rfl | apply ite_core | refine (takeFree_core ..).trans ?_ | refine (moveBeats_core ..).trans ?_)
    | split
    | exact rfl

theorem otherBeats_core (g p : Nat) (s : State) : (otherBeats g p s).core = s.core := by
  unfold otherBeats; split <;> simp only [freeBeats_core]

theorem gateSync_core (g : Nat) (s : State) : (gateSync g s).core = s.core := by
  unfold gateSync
  repeat' first
    | with_reducible (first
      | exact rfl | apply each_core | intro _ _ | intro _ | refine (freeBeats_core ..).trans ?_)
    | exact rfl

theorem syncAll_core (s : State) : (syncAll s).core = s.core := by
  unfold syncAll
  repeat' first
    | with_reducible (first
      | exact rfl | apply each_core | intro _ _ | intro _ | refine (gateSync_core ..).trans ?_)
    | exact rfl

theorem waiterWinner_core (g p : Nat) (l : List Nat) (s : State) : (waiterWinner g p l s).2.core = s.core := by
  unfold waiterWinner; split <;> rfl

theorem contestFor_core (g p : Nat) (waiter : Bool) (s : State) : (contestFor g p waiter s).2.core = s.core := by
  unfold contestFor; split <;> simp only [waiterWinner_core]

theorem contest_core (g p : Nat) (prev : Nat) (byPrio : Bool) (s : State) : (contest g p prev byPrio s).core = s.core := by
  unfold contest
  dsimp only
  repeat' first
    | with_reducible (first
      | exact rfl | apply ite_core | refine (bump_core ..).trans ?_ | refine (traceWait_core ..).trans ?_
      | refine (modPath_core ..).trans ?_ | refine (otherBeats_core ..).trans ?_ | refine (contestFor_core ..).trans ?_)
    | split
    | exact rfl

theorem unbump_core (c : Nat) (s : State) : (unbump c s).core = s.core := by
  unfold unbump; split <;> rfl

theorem rejoin_core (g p : Nat) (s : State) : (rejoin g p s).core = s.core := by
  unfold rejoin
  dsimp only
  repeat' first
    | with_reducible (first
      | exact rfl | apply ite_core | refine (bump_core ..).trans ?_ | refine (modPath_core ..).trans ?_
      | refine (contestFor_core ..).trans ?_ | refine (unbump_core ..).trans ?_)
    | split
    | exact rfl

theorem returnKept_core (g tag : Nat) (s : State) : (returnKept g tag s).core = s.core := by
  unfold returnKept
  try dsimp only
  repeat' first
    | with_reducible (first
      | exact rfl | apply ite_core | refine (modSide_core ..).trans ?_ | refine (giveBack_core ..).trans ?_
      | (unfold State.core; exact rfl))
    | split
    | (rename_i h; have h := congrArg (fun x => State.core (Prod.snd x)) h; simp only [modSide_core, giveBack_core] at h; exact h.symm)
    | exact rfl
    | (simp only [*]; done)

theorem endGrant_core (g p : Nat) (s : State) : (endGrant g p s).core = s.core := by
  unfold endGrant
  dsimp only
  repeat' first
    | with_reducible (first
      | exact rfl | apply ite_core | refine (modPath_core ..).trans ?_ | refine (modReq_core ..).trans ?_
      | refine (returnKept_core ..).trans ?_)
    | split
    | exact rfl

theorem revokeGrant_core (g p : Nat) (s : State) : (revokeGrant g p s).core = s.core := by
  unfold revokeGrant; split <;> simp only [setFld_core, bump_core, endGrant_core]

theorem markFrozen_core (g : Nat) (s : State) : (markFrozen g s).core = s.core := by
  unfold markFrozen
  dsimp only
  repeat' first
    | with_reducible (first
      | exact rfl | apply ite_core | refine (setFlag_core ..).trans ?_)
    | split
    | exact rfl

theorem preempt_core (g p : Nat) (s : State) : (preempt g p s).core = s.core := by
  unfold preempt
  dsimp only
  repeat' first
    | with_reducible (first
      | exact rfl | apply ite_core | refine (contest_core ..).trans ?_ | refine (revokeGrant_core ..).trans ?_)
    | split
    | exact rfl

theorem gateClock_core (g : Nat) (s : State) : (gateClock g s).core = s.core := by
  unfold gateClock; split <;> rfl

theorem settlePath_core (g p : Nat) (s : State) : (settlePath g p s).core = s.core := by
  unfold settlePath
  dsimp only
  repeat' first
    | with_reducible (first
      | exact rfl | apply ite_core | refine (contest_core ..).trans ?_ | refine (endGrant_core ..).trans ?_
      | refine (revokeGrant_core ..).trans ?_ | refine (preempt_core ..).trans ?_)
    | split
    | exact rfl

theorem leaveStart_core (g : Nat) (s : State) : (leaveStart g s).core = s.core := by
  unfold leaveStart; split <;> rfl

theorem gateThaw_core (g : Nat) (s : State) : (gateThaw g s).core = s.core := by
  unfold gateThaw
  repeat' first
    | with_reducible (first
      | exact rfl | apply each_core | intro _ _ | intro _ | refine (gateClock_core ..).trans ?_
      | refine (settlePath_core ..).trans ?_ | refine (leaveStart_core ..).trans ?_)
    | exact rfl

theorem gateWritten_core (g : Nat) (was : Bool) (s : State) : (gateWritten g was s).core = s.core := by
  unfold gateWritten
  dsimp only
  repeat' first
    | with_reducible (first
      | exact rfl | apply ite_core | apply each_core | intro _ _ | intro _ | refine (modGate_core ..).trans ?_
      | refine (markFrozen_core ..).trans ?_ | refine (gateThaw_core ..).trans ?_)
    | split
    | exact rfl

theorem freezeGates_core (s : State) : (freezeGates s).core = s.core := by
  unfold freezeGates
  try dsimp only
  repeat' first
    | with_reducible (first
      | exact rfl | apply each_core | apply each2_core | intro _ _ | intro _ | refine (modGate_core ..).trans ?_
      | refine (markFrozen_core ..).trans ?_ | refine (gateClock_core ..).trans ?_ | (unfold State.core; exact rfl))
    | exact rfl
    | (simp only [*]; done)

theorem thawGates_core (s : State) : (thawGates s).core = s.core := by
  unfold thawGates
  try dsimp only
  repeat' first
    | with_reducible (first
      | exact rfl | apply each_core | apply each2_core | intro _ _ | intro _ | refine (modGate_core ..).trans ?_
      | refine (gateThaw_core ..).trans ?_ | (unfold State.core; exact rfl))
    | exact rfl
    | (simp only [*]; done)

theorem softFreeze_core (g : Nat) (s : State) : (softFreeze g s).core = s.core := by
  simp only [softFreeze, setFld_core, markFrozen_core, gateClock_core]

theorem revokeAll_core (s : State) : (revokeAll s).core = s.core := by
  unfold revokeAll
  try dsimp only
  repeat' first
    | with_reducible (first
      | exact rfl | apply each_core | apply each2_core | intro _ _ | intro _ | refine (freeBeats_core ..).trans ?_
      | refine (revokeGrant_core ..).trans ?_ | refine (markFrozen_core ..).trans ?_ | (unfold State.core; exact rfl))
    | exact rfl
    | (simp only [*]; done)

theorem payloadIn_core (c : Instr) (s : State) : (payloadIn c s).core = s.core := by
  unfold payloadIn; split <;> simp only [objDataIn_core, prefillKvIn_core, kvDataIn_core, imageDataIn_core, queryTaken_core, partialTaken_core]

theorem releaseGated_core (s : State) : (releaseGated s).core = s.core := by
  unfold releaseGated
  try dsimp only
  repeat' first
    | with_reducible (first
      | exact rfl | apply each_core | apply each2_core | intro _ _ | intro _ | refine (modPorts_core ..).trans ?_
      | apply gatedIn_core | refine (payloadIn_core ..).trans ?_ | (unfold State.core; exact rfl))
    | exact rfl
    | (simp only [*]; done)

theorem gateDone_core (s : State) : (gateDone s).core = s.core := by
  simp only [gateDone, finish_core, releaseGated_core]

theorem gateRequest_core (g p r tag moved : Nat) (s : State) : (gateRequest g p r tag moved s).core = s.core := by
  unfold gateRequest
  dsimp only
  repeat' first
    | with_reducible (first
      | exact rfl | apply ite_core | refine (takeFree_core ..).trans ?_ | refine (modPath_core ..).trans ?_
      | refine (modReq_core ..).trans ?_ | refine (moveBeats_core ..).trans ?_ | refine (contest_core ..).trans ?_
      | refine (rejoin_core ..).trans ?_ | refine (markFrozen_core ..).trans ?_ | refine (preempt_core ..).trans ?_)
    | split
    | exact rfl

theorem gateDrop_core (g p r moved : Nat) (lapsed : Bool) (s : State) : (gateDrop g p r moved lapsed s).core = s.core := by
  unfold gateDrop
  dsimp only
  repeat' first
    | with_reducible (first
      | exact rfl | apply ite_core | refine (modReq_core ..).trans ?_ | refine (moveBeats_core ..).trans ?_
      | refine (contest_core ..).trans ?_ | refine (endGrant_core ..).trans ?_)
    | split
    | exact rfl

theorem gateBurst_core (g p : Nat) (s : State) : (gateBurst g p s).core = s.core := by
  unfold gateBurst; split <;> simp only [moveBeats_core, contest_core, endGrant_core, markFrozen_core]

theorem gateEdge_core (g m0 m1 : Nat) (s : State) : (gateEdge g m0 m1 s).core = s.core := by
  unfold gateEdge; split <;> simp only [modGate_core, fillCounters_core, moveBeats_core]

theorem refetch_core (tag : Nat) (s : State) : (refetch tag s).core = s.core := by
  unfold refetch
  dsimp only
  repeat' first
    | with_reducible (first
      | exact rfl | apply ite_core | refine (modSeq_core ..).trans ?_ | refine (issueNext_core ..).trans ?_)
    | split
    | exact rfl

theorem refundOut_core (g r tag : Nat) (s : State) : (refundOut g r tag s).core = s.core := by
  unfold refundOut
  try dsimp only
  repeat' first
    | with_reducible (first
      | exact rfl | apply ite_core | refine (modDeals_core ..).trans ?_ | refine (modSess_core ..).trans ?_
      | (unfold State.core; exact rfl))
    | split
    | (rename_i h; have h := congrArg (fun x => State.core (Prod.snd x)) h; simp only [modDeals_core, modSess_core] at h; exact h.symm)
    | exact rfl
    | (simp only [*]; done)

theorem dropTransfer_core (g r tag : Nat) (s : State) : (dropTransfer g r tag s).core = s.core := by
  unfold dropTransfer
  dsimp only
  repeat' first
    | with_reducible (first
      | exact rfl | apply ite_core | apply each_core | intro _ _ | intro _ | refine (modPorts_core ..).trans ?_
      | refine (freeGated_core ..).trans ?_ | refine (refundOut_core ..).trans ?_)
    | split
    | exact rfl

theorem shipTagFails_core (tag : Nat) (s : State) : (shipTagFails tag s).core = s.core := by
  unfold shipTagFails; split <;> simp only [shipFail_core]

theorem transferFailed_core (g r tag : Nat) (s : State) : (transferFailed g r tag s).core = s.core := by
  unfold transferFailed
  repeat' first
    | with_reducible (first
      | exact rfl | apply ite_core | refine (bump_core ..).trans ?_ | refine (endTag_core ..).trans ?_
      | refine (shipFail_core ..).trans ?_ | refine (objDataTaken_core ..).trans ?_ | refine (putAnswered_core ..).trans ?_
      | refine (fetchMissed_core ..).trans ?_ | refine (refetch_core ..).trans ?_ | refine (shipTagFails_core ..).trans ?_)
    | split
    | exact rfl

theorem watchdog_core (g p moved : Nat) (s : State) : (watchdog g p moved s).core = s.core := by
  unfold watchdog
  dsimp only
  repeat' first
    | with_reducible (first
      | exact rfl | apply ite_core | refine (setReg_core ..).trans ?_ | refine (setFld_core ..).trans ?_
      | refine (setFlag_core ..).trans ?_ | refine (bump_core ..).trans ?_ | refine (trace_core ..).trans ?_
      | refine (modReq_core ..).trans ?_ | refine (moveBeats_core ..).trans ?_ | refine (contest_core ..).trans ?_
      | refine (revokeGrant_core ..).trans ?_ | refine (dropTransfer_core ..).trans ?_
      | refine (transferFailed_core ..).trans ?_)
    | split
    | exact rfl

theorem gateRevoke_core (g m0 m1 : Nat) (s : State) : (gateRevoke g m0 m1 s).core = s.core := by
  unfold gateRevoke
  dsimp only
  repeat' first
    | with_reducible (first
      | exact rfl | apply ite_core | apply each_core | intro _ _ | intro _ | refine (takeFree_core ..).trans ?_
      | refine (moveBeats_core ..).trans ?_ | refine (contest_core ..).trans ?_ | refine (revokeGrant_core ..).trans ?_
      | refine (markFrozen_core ..).trans ?_ | refine (watchdog_core ..).trans ?_)
    | split
    | exact rfl

theorem revokeWrite_core (g : Nat) (s : State) : (revokeWrite g s).core = s.core := by
  simp only [revokeWrite, gateSync_core, releaseGated_core, gateRevoke_core]

theorem takeSnap_core (s : State) : (takeSnap s).core = s.core := by
  simp only [takeSnap, modObs_core, syncAll_core]

theorem armSnap_core (s : State) : (armSnap s).core = s.core := modObs_core ..

theorem clearCounters_core (s : State) : (clearCounters s).core = s.core := by
  simp only [clearCounters, modObs_core, syncAll_core]

theorem clearKeep_core (s : State) : (clearKeep s).core = s.core := rfl

theorem addOps_core (d : Deal) (r : OpsRec) (s : State) : (addOps d r s).core = s.core := rfl

theorem addAll_core (d : Deal) (l : List OpsRec) (s : State) : (addAll d l s).core = s.core := by
  unfold addAll
  repeat' first
    | with_reducible (first
      | exact rfl | apply each_core | intro _ _ | intro _ | refine (addOps_core ..).trans ?_)
    | exact rfl

theorem applyOps_core (s : State) : (applyOps s).core = s.core := by
  unfold applyOps; split <;> simp only [modObs_core, addAll_core]

theorem takeDone_core (s : State) : (takeDone s).core = s.core := rfl

theorem queueOps_core (epoch : Nat) (recs : List OpsRec) (s : State) : (queueOps epoch recs s).core = s.core := by
  unfold queueOps
  dsimp only
  repeat' first
    | with_reducible (first
      | exact rfl | apply ite_core | refine (modObs_core ..).trans ?_ | refine (takeDone_core ..).trans ?_)
    | split
    | exact rfl

theorem opsRoom_core (s : State) : (opsRoom s).core = s.core := by
  unfold opsRoom; split <;> simp only [modObs_core, trace_core, addAll_core, applyOps_core, takeDone_core]

theorem armTrace_core (s : State) : (armTrace s).core = s.core := rfl

theorem fireNow_core (s : State) : (fireNow s).core = s.core := by
  unfold fireNow
  dsimp only
  repeat' first
    | with_reducible (first
      | exact rfl | apply ite_core)
    | split
    | exact rfl

theorem drainStaging_core (s : State) : (drainStaging s).core = s.core := by
  unfold drainStaging; split <;> rfl

theorem exhaustSeat_core (i : Nat) (s : State) : (exhaustSeat i s).core = s.core := by
  unfold exhaustSeat
  dsimp only
  repeat' first
    | with_reducible (first
      | exact rfl | apply ite_core | refine (bump_core ..).trans ?_ | refine (requestPause_core ..).trans ?_
      | refine (failSeat_core ..).trans ?_)
    | split
    | exact rfl

theorem exhaustSeats_core (ts : List Nat) (s : State) : (exhaustSeats ts s).core = s.core := by
  unfold exhaustSeats
  try dsimp only
  repeat' first
    | with_reducible (first
      | exact rfl | apply each_core | apply each2_core | intro _ _ | intro _ | refine (exhaustSeat_core ..).trans ?_
      | (unfold State.core; exact rfl))
    | exact rfl
    | (simp only [*]; done)

theorem dropCheck_core (s : State) : (dropCheck s).core = s.core := by
  unfold dropCheck
  try dsimp only
  repeat' first
    | with_reducible (first
      | exact rfl | apply ite_core | apply each_core | apply each2_core | intro _ _ | intro _
      | refine (closeSeat_core ..).trans ?_ | (unfold State.core; exact rfl))
    | split
    | exact rfl
    | (simp only [*]; done)

theorem updStep_core (d : Deal) (t : Nat) (s : State) : (updStep d t s).core = s.core := by
  unfold updStep; split <;> rfl

theorem updTpd_core (c n k : Nat) (s : State) : (updTpd c n k s).core = s.core := by
  unfold updTpd; split <;> rfl

theorem updTpds_core (r : Running) (s : State) : (updTpds r s).core = s.core := by
  unfold updTpds
  dsimp only
  repeat' first
    | with_reducible (first
      | exact rfl | apply ite_core | apply each_core | intro _ _ | intro _ | refine (updTpd_core ..).trans ?_)
    | split
    | exact rfl

theorem observe_core (s : State) : (observe s).core = s.core := rfl

theorem updEstimators_core (r : Running) (s : State) : (updEstimators r s).core = s.core := by
  simp only [updEstimators, updStep_core, updTpds_core, observe_core]

theorem loadPause_core (c n : Nat) (l : List Nat) (s : State) : (loadPause c n l s).core = s.core := by
  induction l generalizing n s with
  | nil => cases n <;> rfl
  | cons i r ih =>
    cases n with
    | zero => rfl
    | succ n =>
      simp only [loadPause]
      split
      · rw [ih, bump_core, requestPause_core]
      · rfl

theorem loadResume_core (n rows : Nat) (l : List Nat) (s : State) : (loadResume n rows l s).core = s.core := by
  induction l generalizing n rows s with
  | nil => cases n <;> rfl
  | cons i r ih =>
    cases n with
    | zero => rfl
    | succ n =>
      unfold loadResume
      dsimp only
      repeat' first
        | with_reducible exact rfl
        | with_reducible apply ite_core
        | with_reducible refine (ih ..).trans ?_
        | with_reducible refine (bump_core ..).trans ?_
        | with_reducible refine (clearPause_core ..).trans ?_

theorem loadEval_core (s : State) : (loadEval s).core = s.core := by
  unfold loadEval
  dsimp only
  repeat' first
    | with_reducible (first
      | exact rfl | apply ite_core | refine (loadPause_core ..).trans ?_ | refine (loadResume_core ..).trans ?_)
    | split
    | exact rfl

theorem refillPots_core (s : State) : (refillPots s).core = s.core := rfl

theorem attain_core (s : State) : (attain s).core = s.core := by
  unfold attain
  try dsimp only
  repeat' first
    | with_reducible (first
      | exact rfl | apply each_core | apply each2_core | intro _ _ | intro _ | refine (modCls_core ..).trans ?_
      | (unfold State.core; exact rfl))
    | exact rfl
    | (simp only [*]; done)

theorem budgetResume_core (s : State) : (budgetResume s).core = s.core := by
  unfold budgetResume
  dsimp only
  repeat' first
    | with_reducible (first
      | exact rfl | apply each_core | intro _ _ | intro _ | refine (clearPause_core ..).trans ?_)
    | exact rfl

theorem budgetEdge_core (i : Nat) (s : State) : (budgetEdge i s).core = s.core := by
  unfold budgetEdge
  dsimp only
  repeat' first
    | with_reducible (first
      | exact rfl | apply ite_core | refine (modSide_core ..).trans ?_ | refine (closeSeat_core ..).trans ?_)
    | split
    | exact rfl

theorem setChunkDef_core (c v : Nat) (s : State) : (setChunkDef c v s).core = s.core := by
  unfold setChunkDef
  dsimp only
  repeat' first
    | with_reducible (first
      | exact rfl | apply ite_core | refine (setFld_core ..).trans ?_ | refine (bump_core ..).trans ?_)
    | split
    | exact rfl

theorem tuneChunks_core (s : State) : (tuneChunks s).core = s.core := by
  unfold tuneChunks
  dsimp only
  repeat' first
    | with_reducible (first
      | exact rfl | apply ite_core | apply each_core | intro _ _ | intro _ | refine (setChunkDef_core ..).trans ?_)
    | split
    | exact rfl

theorem windowEdge_core (s : State) : (windowEdge s).core = s.core := by
  unfold windowEdge
  dsimp only
  repeat' first
    | with_reducible (first
      | exact rfl | apply each_core | intro _ _ | intro _ | refine (bump_core ..).trans ?_
      | refine (exhaustSeats_core ..).trans ?_ | refine (refillPots_core ..).trans ?_ | refine (attain_core ..).trans ?_
      | refine (budgetResume_core ..).trans ?_ | refine (budgetEdge_core ..).trans ?_ | refine (tuneChunks_core ..).trans ?_)
    | exact rfl

theorem herWord_core (kind epoch through : Nat) (s : State) :
    (herWord kind epoch through s).core = s.core := launchWord_core ..

theorem countToks_core (i : Nat) (toks : List Nat) (s : State) : (countToks i toks s).core = s.core := by
  unfold countToks
  dsimp only
  repeat' first
    | with_reducible (first
      | exact rfl | apply ite_core | apply each_core | intro _ _ | intro _ | refine (setFlag_core ..).trans ?_
      | refine (bump_core ..).trans ?_ | refine (modSeat_core ..).trans ?_ | refine (modSide_core ..).trans ?_
      | refine (modSieve_core ..).trans ?_)
    | split
    | exact rfl

theorem afterTrick_core (i : Nat) (r : Result) (s : State) : (afterTrick i r s).core = s.core := by
  unfold afterTrick
  dsimp only
  repeat' first
    | with_reducible (first
      | exact rfl | apply ite_core | refine (bump_core ..).trans ?_ | refine (modSeat_core ..).trans ?_)
    | split
    | exact rfl

theorem afterPlain_core (i : Nat) (s : State) : (afterPlain i s).core = s.core := by
  unfold afterPlain
  dsimp only
  repeat' first
    | with_reducible (first
      | exact rfl | apply ite_core | refine (bump_core ..).trans ?_ | refine (modSeat_core ..).trans ?_)
    | split
    | exact rfl

theorem updDraft_core (i : Nat) (r : Result) (s : State) : (updDraft i r s).core = s.core := by
  unfold updDraft
  dsimp only
  repeat' first
    | with_reducible (first
      | exact rfl | apply ite_core | refine (afterTrick_core ..).trans ?_ | refine (afterPlain_core ..).trans ?_)
    | split
    | exact rfl

theorem debitToks_core (i n : Nat) (s : State) : (debitToks i n s).core = s.core := by
  unfold debitToks
  dsimp only
  repeat' first
    | with_reducible (first
      | exact rfl | apply ite_core | refine (debit_core ..).trans ?_)
    | split
    | exact rfl

theorem takeToks_core (i : Nat) (toks : List Nat) (s : State) : (takeToks i toks s).core = s.core := by
  unfold takeToks
  dsimp only
  repeat' first
    | with_reducible (first
      | exact rfl | apply ite_core | refine (bumpN_core ..).trans ?_ | refine (modSeat_core ..).trans ?_
      | refine (modSide_core ..).trans ?_ | refine (modDeals_core ..).trans ?_ | refine (modSplit_core ..).trans ?_
      | refine (countToks_core ..).trans ?_ | refine (debitToks_core ..).trans ?_)
    | split
    | exact rfl

theorem resultState_core (i : Nat) (r : Result) (s : State) : (resultState i r s).core = s.core := by
  unfold resultState
  dsimp only
  repeat' first
    | with_reducible (first
      | exact rfl | apply ite_core | refine (modSeat_core ..).trans ?_ | refine (modSide_core ..).trans ?_)
    | split
    | exact rfl

theorem writeSeat_core (r : Result) (s : State) : (writeSeat r s).core = s.core := by
  unfold writeSeat
  dsimp only
  repeat' first
    | with_reducible (first
      | exact rfl | apply ite_core | refine (bumpN_core ..).trans ?_ | refine (bump_core ..).trans ?_
      | refine (updDraft_core ..).trans ?_ | refine (takeToks_core ..).trans ?_ | refine (resultState_core ..).trans ?_)
    | split
    | exact rfl

theorem writeBack_core (x : DealSeat) (s : State) : (writeBack x s).core = s.core := by
  unfold writeBack
  dsimp only
  repeat' first
    | with_reducible (first
      | exact rfl | apply ite_core | refine (modSeat_core ..).trans ?_ | refine (writeSeat_core ..).trans ?_)
    | split
    | exact rfl

theorem completeBlocks_core (i : Nat) (s : State) : (completeBlocks i s).core = s.core := by
  unfold completeBlocks
  dsimp only
  repeat' first
    | with_reducible (first
      | exact rfl | apply ite_core | apply each_core | intro _ _ | intro _ | refine (modSide_core ..).trans ?_
      | refine (completeBlock_core ..).trans ?_)
    | split
    | exact rfl

theorem recordResults_core (r : Running) (done : Nat) (s : State) : (recordResults r done s).core = s.core := by
  unfold recordResults
  dsimp only
  repeat' first
    | with_reducible (first
      | exact rfl | apply ite_core | refine (setReg_core ..).trans ?_ | refine (trace_core ..).trans ?_)
    | split
    | exact rfl

theorem sendTokens_core (r : Result) (s : State) : (sendTokens r s).core = s.core := by
  unfold sendTokens
  dsimp only
  repeat' first
    | with_reducible (first
      | exact rfl | apply ite_core | refine (modSide_core ..).trans ?_ | refine (leave_core ..).trans ?_
      | refine (sendFor_core ..).trans ?_)
    | split
    | exact rfl

theorem finalReason_core (i : Nat) (s : State) : (finalReason i s).core = s.core := by
  unfold finalReason
  try dsimp only
  repeat' first
    | with_reducible (first
      | exact rfl | apply ite_core | refine (modSide_core ..).trans ?_ | refine (closeOut_core ..).trans ?_
      | refine (enterDraining_core ..).trans ?_ | (unfold State.core; exact rfl))
    | split
    | (rename_i h; have h := congrArg (fun x => State.core (Prod.snd x)) h; simp only [modSide_core, closeOut_core, enterDraining_core] at h; exact h.symm)
    | exact rfl
    | (simp only [*]; done)

theorem boundaryCloses_core (s : State) : (boundaryCloses s).core = s.core := by
  unfold boundaryCloses
  repeat' first
    | with_reducible (first
      | exact rfl | apply each_core | intro _ _ | intro _ | refine (finalReason_core ..).trans ?_)
    | exact rfl

theorem lapseOwner_core (g : Nat) (s : State) : (lapseOwner g s).core = s.core := by
  unfold lapseOwner
  try dsimp only
  repeat' first
    | with_reducible (first
      | exact rfl | apply ite_core | refine (modReq_core ..).trans ?_ | (unfold State.core; exact rfl))
    | split
    | (rename_i h; have h := congrArg (fun x => State.core (Prod.snd x)) h; simp only [modReq_core] at h; exact h.symm)
    | exact rfl
    | (simp only [*]; done)

theorem lapseLeases_core (s : State) : (lapseLeases s).core = s.core := by
  unfold lapseLeases
  dsimp only
  repeat' first
    | with_reducible (first
      | exact rfl | apply ite_core | apply each_core | intro _ _ | intro _ | refine (modSide_core ..).trans ?_
      | refine (modPorts_core ..).trans ?_ | refine (giveBack_core ..).trans ?_ | refine (lapseOwner_core ..).trans ?_)
    | split
    | exact rfl

theorem boundaryPauses_core (epoch : Nat) (s : State) : (boundaryPauses epoch s).core = s.core := by
  unfold boundaryPauses
  try dsimp only
  repeat' first
    | with_reducible (first
      | exact rfl | apply each_core | apply each2_core | intro _ _ | intro _ | refine (pauseSeat_core ..).trans ?_
      | refine (lapseLeases_core ..).trans ?_ | (unfold State.core; exact rfl))
    | exact rfl
    | (simp only [*]; done)

theorem undeal_core (s : State) : (undeal s).core = s.core := by
  unfold undeal
  try dsimp only
  repeat' first
    | with_reducible (first
      | exact rfl | apply ite_core | apply each_core | apply each2_core | intro _ _ | intro _
      | refine (modSeat_core ..).trans ?_ | (unfold State.core; exact rfl))
    | split
    | exact rfl
    | (simp only [*]; done)

theorem swapBanks_core (s : State) : (swapBanks s).core = s.core := by
  unfold swapBanks; split <;> rfl

theorem traceMarker_core (epoch : Nat) (s : State) : (traceMarker epoch s).core = s.core := by
  unfold traceMarker
  dsimp only
  repeat' first
    | with_reducible (first
      | exact rfl | apply ite_core | refine (trace_core ..).trans ?_)
    | split
    | exact rfl

theorem applyDeferred_core (s : State) : (applyDeferred s).core = { s.core with force := s.regs } := by
  have k : ∀ x : State, (if x.portOpen .F then candCfg x.epochNext x else x).core = x.core := fun x => by
    split
    · exact candCfg_core ..
    · rfl
  unfold applyDeferred
  refine (k _).trans ?_
  dsimp only
  split <;> rfl

theorem snapDue_core (s : State) : (snapDue s).core = s.core := by
  unfold snapDue; split <;> simp only [modObs_core, takeSnap_core]

theorem boundaryWrites_core (e : Nat) (s : State) :
    (boundaryWrites e s).core = { s.core with force := (boundaryWrites e s).force } := by
  have h : (boundaryWrites e s).core = (applyDeferred (swapBanks (traceMarker e s))).core := by
    unfold boundaryWrites
    rw [setFld_core, setFld_core, setFld_core, snapDue_core]
  have k := h
  rw [applyDeferred_core, swapBanks_core, traceMarker_core] at k
  have f := congrArg Core.force k
  rw [k]
  exact congrArg (fun x => ({ s.core with force := x } : Core)) f.symm

theorem discardHanded_core (s : State) : (discardHanded s).2.core = s.core := by
  unfold discardHanded; split <;> simp only [bump_core, modDeals_core, modPorts_core, endBindings_core, herWord_core]

theorem cutDealerWait_core (s : State) : (cutDealerWait s).core = s.core := by
  unfold cutDealerWait
  repeat' first
    | with_reducible (first
      | exact rfl | apply ite_core | refine (trace_core ..).trans ?_)
    | split
    | exact rfl

theorem setStopped_core (mode discarded : Nat) (s : State) : (setStopped mode discarded s).core = s.core := by
  simp only [setStopped, setFld_core, bump_core, modDeals_core, trace_core, idleActions_core]

theorem pauseSplits_core (epoch : Nat) (s : State) : (pauseSplits epoch s).core = s.core := by
  unfold pauseSplits
  dsimp only
  repeat' first
    | with_reducible (first
      | exact rfl | apply each_core | intro _ _ | intro _ | refine (tellFollowers_core ..).trans ?_)
    | exact rfl

theorem haltCut_core (mode : Nat) (s : State) : (haltCut mode s).core = s.core := by
  unfold haltCut
  dsimp only
  repeat' first
    | with_reducible (first
      | exact rfl | apply ite_core | apply each_core | intro _ _ | intro _ | refine (setReg_core ..).trans ?_
      | refine (setFld_core ..).trans ?_ | refine (modSeat_core ..).trans ?_ | refine (modDeals_core ..).trans ?_
      | refine (endHold_core ..).trans ?_ | refine (freezeGates_core ..).trans ?_ | refine (discardHanded_core ..).trans ?_
      | refine (cutDealerWait_core ..).trans ?_ | refine (setStopped_core ..).trans ?_
      | refine (pauseSplits_core ..).trans ?_)
    | split
    | exact rfl

theorem completeDeal_core (r : Running) (done : Nat) (s : State) : (completeDeal r done s).core = s.core := by
  simp only [completeDeal, setFld_core, modDeals_core, hotRetry_core, chipAtComplete_core, ringDone_core, endHold_core, applyOps_core, herWord_core, recordResults_core]

theorem stepTwo_core (r : Running) (s : State) : (stepTwo r s).core = s.core := by
  unfold stepTwo
  dsimp only
  repeat' first
    | with_reducible (first
      | exact rfl | apply each_core | intro _ _ | intro _ | refine (updEstimators_core ..).trans ?_
      | refine (writeBack_core ..).trans ?_ | refine (completeBlocks_core ..).trans ?_)
    | exact rfl

theorem stepsThreeToSeven_core (r : Running) (s : State) : (stepsThreeToSeven r s).core = s.core := by
  unfold stepsThreeToSeven
  dsimp only
  repeat' first
    | with_reducible (first
      | exact rfl | apply each_core | intro _ _ | intro _ | refine (finishDraining_core ..).trans ?_
      | refine (endBindings_core ..).trans ?_ | refine (exhaustSeats_core ..).trans ?_ | refine (dropCheck_core ..).trans ?_
      | refine (loadEval_core ..).trans ?_ | refine (sendTokens_core ..).trans ?_ | refine (boundaryCloses_core ..).trans ?_
      | refine (boundaryPauses_core ..).trans ?_ | refine (undeal_core ..).trans ?_)
    | exact rfl

theorem afterBoundary_core (epoch : Nat) (s : State) : (afterBoundary epoch s).core = s.core := by
  unfold afterBoundary
  dsimp only
  repeat' first
    | with_reducible (first
      | exact rfl | apply ite_core | refine (setFlag_core ..).trans ?_ | refine (bump_core ..).trans ?_
      | refine (sendFeed_core ..).trans ?_ | refine (endBoundary_core ..).trans ?_ | refine (haltCut_core ..).trans ?_)
    | split
    | exact rfl

theorem dealComplete_core (r : Running) (d : Nat) (s : State) :
    (dealComplete r d s).core = { s.core with force := (dealComplete r d s).force } := by
  have h : ∃ x : State, x.core = s.core ∧ (dealComplete r d s).core = (boundaryWrites r.deal.epoch x).core := by
    refine ⟨modSieve (fun q => { q with rows := [], runs := [], results := [] })
      (stepsThreeToSeven r (stepTwo r (completeDeal r d s))), ?_, ?_⟩
    · rw [modSieve_core, stepsThreeToSeven_core, stepTwo_core, completeDeal_core]
    · unfold dealComplete
      rw [afterBoundary_core, spillOrders_core]
  obtain ⟨x, hx, h⟩ := h
  have k := h
  rw [boundaryWrites_core, hx] at k
  have f := congrArg Core.force k
  rw [k]
  exact congrArg (fun x => ({ s.core with force := x } : Core)) f.symm

theorem openRows_core (feed : List FeedEnt) (voided : List Nat) (seats : List DealSeat) (s : State) :
    (openRows feed voided seats s).core = s.core := rfl

theorem dealSeat_core (epoch : Nat) (x : DealSeat) (s : State) : (dealSeat epoch x s).core = s.core := by
  unfold dealSeat; split <;> rfl

theorem giveLease_core (x : DealSeat) (s : State) : (giveLease x s).core = s.core := by
  unfold giveLease; split <;> rfl

theorem setAside_core (p : Port) (n : Nat) (s : State) : (setAside p n s).core = s.core := by
  unfold setAside; split <;> rfl

theorem giveLeases_core (d : Deal) (s : State) : (giveLeases d s).core = s.core := by
  unfold giveLeases
  dsimp only
  repeat' first
    | with_reducible (first
      | exact rfl | apply each_core | intro _ _ | intro _ | refine (takeFree_core ..).trans ?_
      | refine (modPorts_core ..).trans ?_ | refine (giveLease_core ..).trans ?_ | refine (setAside_core ..).trans ?_)
    | exact rfl

theorem stampUse_core (d : Deal) (s : State) : (stampUse d s).core = s.core := by
  unfold stampUse
  dsimp only
  repeat' first
    | with_reducible (first
      | exact rfl | apply ite_core | apply each_core | intro _ _ | intro _ | refine (modModel_core ..).trans ?_
      | refine (modBlk_core ..).trans ?_)
    | split
    | exact rfl

theorem countLaunch_core (d : Deal) (feed : List FeedEnt) (voided : List Nat) (s : State) :
    (countLaunch d feed voided s).core = s.core := by
  unfold countLaunch
  dsimp only
  repeat' first
    | with_reducible (first
      | exact rfl | apply ite_core | apply each_core | intro _ _ | intro _ | refine (setFld_core ..).trans ?_
      | refine (bumpN_core ..).trans ?_ | refine (bump_core ..).trans ?_)
    | split
    | exact rfl

theorem followSeat_core (epoch : Nat) (voided : List Nat) (x : DealSeat) (s : State) :
    (followSeat epoch voided x s).core = s.core := by
  unfold followSeat; split <;> rfl

theorem goEntry_core (d : Deal) (feed : List FeedEnt) (voided : List Nat) (x : DealSeat) (s : State) :
    (goEntry d feed voided x s).core = s.core := by
  unfold goEntry; split <;> simp only [goSeat_core]

theorem launchDeal_core (d : Deal) (s : State) : (launchDeal d s).core = s.core := by
  unfold launchDeal
  dsimp only
  repeat' first
    | with_reducible (first
      | exact rfl | apply ite_core | apply each_core | intro _ _ | intro _ | refine (modDeals_core ..).trans ?_
      | refine (closeUsers_core ..).trans ?_ | refine (endHold_core ..).trans ?_ | refine (sievePump_core ..).trans ?_
      | refine (herWord_core ..).trans ?_ | refine (openRows_core ..).trans ?_ | refine (dealSeat_core ..).trans ?_
      | refine (giveLeases_core ..).trans ?_ | refine (stampUse_core ..).trans ?_ | refine (countLaunch_core ..).trans ?_
      | refine (followSeat_core ..).trans ?_ | refine (goEntry_core ..).trans ?_)
    | split
    | exact rfl

theorem releaseLayers_core (r : Running) (s : State) : (releaseLayers r s).core = s.core := by
  unfold releaseLayers
  dsimp only
  repeat' first
    | with_reducible (first
      | exact rfl | apply ite_core | refine (modDeals_core ..).trans ?_ | refine (endHold_core ..).trans ?_
      | refine (herWord_core ..).trans ?_)
    | split
    | exact rfl

theorem layerDone_core (r : Running) (layer : Nat) (s : State) : (layerDone r layer s).core = s.core := rfl

theorem stopAck_core (r : Running) (ahead : Nat) (recs : List OpsRec) (s : State) :
    (stopAck r ahead recs s).core = s.core := by
  unfold stopAck
  dsimp only
  repeat' first
    | with_reducible (first
      | exact rfl | apply ite_core | apply each_core | intro _ _ | intro _ | refine (setReg_core ..).trans ?_
      | refine (setFld_core ..).trans ?_ | refine (modSide_core ..).trans ?_ | refine (modDeals_core ..).trans ?_
      | refine (closeSeat_core ..).trans ?_ | refine (hotRetry_core ..).trans ?_ | refine (chipAtComplete_core ..).trans ?_
      | refine (ringDone_core ..).trans ?_ | refine (addAll_core ..).trans ?_ | refine (applyOps_core ..).trans ?_
      | refine (setStopped_core ..).trans ?_)
    | split
    | exact rfl

theorem traceCut_core (kind epoch waitFor waiter layer start detail : Nat) (s : State) :
    (traceCut kind epoch waitFor waiter layer start detail s).core = s.core := by
  unfold traceCut
  dsimp only
  repeat' first
    | with_reducible (first
      | exact rfl | apply ite_core | refine (trace_core ..).trans ?_)
    | split
    | exact rfl

theorem cutOpen_core (s : State) : (cutOpen s).core = s.core := by
  unfold cutOpen
  dsimp only
  repeat' first
    | with_reducible (first
      | exact rfl | apply ite_core | apply each_core | intro _ _ | intro _ | refine (trace_core ..).trans ?_
      | refine (traceCut_core ..).trans ?_)
    | split
    | exact rfl

theorem cutWaits_core (r : Running) (s : State) : (cutWaits r s).core = s.core := by
  unfold cutWaits
  dsimp only
  repeat' first
    | with_reducible (first
      | exact rfl | refine (trace_core ..).trans ?_ | refine (endHold_core ..).trans ?_ | refine (cutOpen_core ..).trans ?_
      | refine (epochDone_core ..).trans ?_)
    | split
    | exact rfl

theorem recordLanes_core (epoch : Nat) (s : State) : (recordLanes epoch s).core = s.core := by
  unfold recordLanes
  dsimp only
  repeat' first
    | with_reducible (first
      | exact rfl | apply ite_core | refine (setReg_core ..).trans ?_ | refine (setFld_core ..).trans ?_)
    | split
    | exact rfl

theorem dropRows_core (s : State) : (dropRows s).core = s.core := modSieve_core ..

theorem unlock_core (s : State) : (unlock s).core = s.core := rfl

theorem stopRunning_core (r : Running) (s : State) : (stopRunning r s).core = s.core := by
  unfold stopRunning
  dsimp only
  repeat' first
    | with_reducible (first
      | exact rfl | apply ite_core | refine (setFld_core ..).trans ?_ | refine (modDeals_core ..).trans ?_
      | refine (modObs_core ..).trans ?_ | refine (candBack_core ..).trans ?_ | refine (endBindings_core ..).trans ?_
      | refine (freezeGates_core ..).trans ?_ | refine (revokeAll_core ..).trans ?_ | refine (herWord_core ..).trans ?_
      | refine (lapseLeases_core ..).trans ?_ | refine (discardHanded_core ..).trans ?_
      | refine (pauseSplits_core ..).trans ?_ | refine (stopAck_core ..).trans ?_ | refine (cutWaits_core ..).trans ?_
      | refine (recordLanes_core ..).trans ?_ | refine (dropRows_core ..).trans ?_ | refine (unlock_core ..).trans ?_
      | refine (epochDone_core ..).trans ?_)
    | split
    | exact rfl

theorem immediateStop_core (s : State) : (immediateStop s).core = s.core := by
  unfold immediateStop
  repeat' first
    | with_reducible (first
      | exact rfl | apply ite_core | refine (bump_core ..).trans ?_ | refine (haltCut_core ..).trans ?_
      | refine (cutOpen_core ..).trans ?_ | refine (unlock_core ..).trans ?_ | refine (stopRunning_core ..).trans ?_)
    | split
    | exact rfl

theorem boundaryStop_core (es : Nat) (s : State) : (boundaryStop es s).core = s.core := by
  unfold boundaryStop
  dsimp only
  repeat' first
    | with_reducible (first
      | exact rfl | apply ite_core | refine (bump_core ..).trans ?_ | refine (modDeals_core ..).trans ?_
      | refine (haltCut_core ..).trans ?_)
    | split
    | exact rfl

theorem resumeSplits_core (s : State) : (resumeSplits s).core = s.core := by
  unfold resumeSplits
  dsimp only
  repeat' first
    | with_reducible (first
      | exact rfl | apply each_core | intro _ _ | intro _ | refine (tellFollowers_core ..).trans ?_)
    | exact rfl

theorem goNode_core (s : State) : (goNode s).core = s.core := by
  unfold goNode
  dsimp only
  repeat' first
    | with_reducible (first
      | exact rfl | apply ite_core | apply each_core | intro _ _ | intro _ | refine (bump_core ..).trans ?_
      | refine (modSeat_core ..).trans ?_ | refine (modDeals_core ..).trans ?_ | refine (thawGates_core ..).trans ?_
      | refine (releaseGated_core ..).trans ?_ | refine (resumeSplits_core ..).trans ?_)
    | split
    | exact rfl

theorem epochDone_core (epoch ahead : Nat) (abandoned : Bool) (recs : List OpsRec) (s : State) :
    (epochDone epoch ahead abandoned recs s).core = s.core := by
  unfold epochDone
  repeat' first
    | with_reducible (first
      | exact rfl | apply ite_core | refine (queueOps_core ..).trans ?_ | refine (stopAck_core ..).trans ?_)
    | split
    | exact rfl

theorem epochSignal_core (epoch ahead : Nat) (abandoned : Bool) (recs : List OpsRec) (s : State) :
    (epochSignal epoch ahead abandoned recs s).core = s.core := by
  unfold epochSignal
  dsimp only
  repeat' first
    | with_reducible (first
      | exact rfl | apply ite_core | refine (modPwr_core ?_).trans ?_ | refine (epochDone_core ..).trans ?_)
    | split
    | exact rfl

theorem releaseLock_core (s : State) : (releaseLock s).core = s.core := by
  unfold releaseLock; split <;> simp only [unlock_core, epochDone_core]

theorem acquireLock_core (s : State) : (acquireLock s).core = s.core := by
  unfold acquireLock; split <;> rfl

theorem loseWord_core (i w : Nat) (s : State) : (loseWord i w s).core = s.core := by
  unfold loseWord
  dsimp only
  repeat' first
    | with_reducible (first
      | exact rfl | apply ite_core | refine (setFld_core ..).trans ?_ | refine (setFlag_core ..).trans ?_
      | refine (bump_core ..).trans ?_ | refine (modSeat_core ..).trans ?_ | refine (modLed_core ..).trans ?_
      | refine (failSeat_core ..).trans ?_)
    | split
    | exact rfl

theorem loseEntry_core (i : Nat) (s : State) : (loseEntry i s).core = s.core := by
  unfold loseEntry
  dsimp only
  repeat' first
    | with_reducible (first
      | exact rfl | apply ite_core | refine (setFld_core ..).trans ?_ | refine (setFlag_core ..).trans ?_
      | refine (bump_core ..).trans ?_ | refine (modLed_core ..).trans ?_)
    | split
    | exact rfl

theorem correctedWord_core (s : State) : (correctedWord s).core = s.core := setFlag_core ..

theorem keptEcc_core (fixed : Bool) (s : State) : (keptEcc fixed s).core = s.core := by
  unfold keptEcc; split <;> rfl

theorem loseContext_core (i : Nat) (s : State) : (loseContext i s).core = s.core := by
  unfold loseContext
  dsimp only
  repeat' first
    | with_reducible (first
      | exact rfl | apply ite_core | refine (modSide_core ..).trans ?_ | refine (failSeat_core ..).trans ?_)
    | split
    | exact rfl

theorem dropHot_core (n : Nat) (s : State) : (dropHot n s).core = s.core := modKv_core ..

theorem scrubSeat_core (found : Ecc) (s : State) : (scrubSeat found s).core = s.core := by
  unfold scrubSeat
  dsimp only
  repeat' first
    | with_reducible (first
      | exact rfl | apply ite_core | refine (bump_core ..).trans ?_ | refine (modLed_core ..).trans ?_
      | refine (loseWord_core ..).trans ?_ | refine (correctedWord_core ..).trans ?_)
    | split
    | exact rfl

theorem scrubWord_core (found : Ecc) (s : State) : (scrubWord found s).core = s.core := by
  unfold scrubWord
  dsimp only
  repeat' first
    | with_reducible (first
      | exact rfl | apply ite_core | refine (loseEntry_core ..).trans ?_ | refine (correctedWord_core ..).trans ?_
      | refine (keptEcc_core ..).trans ?_ | refine (loseContext_core ..).trans ?_ | refine (dropHot_core ..).trans ?_
      | refine (scrubSeat_core ..).trans ?_)
    | split
    | exact rfl

end Sys2Proof.Machine
end

