-- ==== Sys2Proof/Laws/CorePorts.lean ====
section
/-! SUPPORT. What each shared operation does to the core of the state (`State.core`): nothing, but for those named here. Sessions, register writes and power. -/
namespace Sys2Proof.Machine

theorem loseRequest_core (ph : Phase) (i : Nat) (s : State) : (loseRequest ph i s).core = s.core := by
  unfold loseRequest
  dsimp only
  repeat' first
    | with_reducible (first
      | exact rfl | apply ite_core | refine (bump_core ..).trans ?_ | refine (modSeat_core ..).trans ?_
      | refine (modSide_core ..).trans ?_ | refine (settle_core ..).trans ?_ | refine (releaseIndex_core ..).trans ?_
      | refine (closeSeat_core ..).trans ?_ | refine (atOnceSeat_core ..).trans ?_)
    | split
    | exact rfl

theorem loseSeat_core (i : Nat) (s : State) : (loseSeat i s).core = s.core := by
  unfold loseSeat
  dsimp only
  repeat' first
    | with_reducible (first
      | exact rfl | apply ite_core | refine (freeSeat_core ..).trans ?_ | refine (dropRun_core ..).trans ?_
      | refine (awaitImage_core ..).trans ?_ | refine (loseRequest_core ..).trans ?_)
    | split
    | exact rfl

theorem lostG_core (s : State) : (lostG s).core = s.core := by
  unfold lostG
  dsimp only
  repeat' first
    | with_reducible (first
      | exact rfl | apply each_core | intro _ _ | intro _ | refine (modSide_core ..).trans ?_
      | refine (modKv_core ..).trans ?_ | refine (modPorts_core ..).trans ?_ | refine (modPwr_core ?_).trans ?_
      | refine (loseSeat_core ..).trans ?_)
    | exact rfl

theorem loseRouted_core (i : Nat) (s : State) : (loseRouted i s).core = s.core := by
  unfold loseRouted
  repeat' first
    | with_reducible (first
      | exact rfl | apply ite_core | refine (closeSeat_core ..).trans ?_ | refine (stretchFail_core ..).trans ?_
      | refine (shipFail_core ..).trans ?_)
    | split
    | exact rfl

theorem lostP_core (s : State) : (lostP s).core = s.core := by
  unfold lostP
  repeat' first
    | with_reducible (first
      | exact rfl | apply each_core | intro _ _ | intro _ | refine (loseRouted_core ..).trans ?_)
    | exact rfl

theorem lostTag_core (e : Nat × TagUse) (s : State) : (lostTag e s).core = s.core := by
  unfold lostTag
  try dsimp only
  repeat' first
    | with_reducible (first
      | exact rfl | apply ite_core | refine (objDataTaken_core ..).trans ?_ | refine (putAnswered_core ..).trans ?_
      | refine (fetchMissed_core ..).trans ?_ | (unfold State.core; exact rfl))
    | split
    | (rename_i h; have h := congrArg (fun x => State.core (Prod.snd x)) h; simp only [objDataTaken_core, putAnswered_core, fetchMissed_core] at h; exact h.symm)
    | exact rfl
    | (simp only [*]; done)

theorem clearPool_core (s : State) : (clearPool s).core = s.core := by
  unfold clearPool
  dsimp only
  repeat' first
    | with_reducible (first
      | exact rfl | apply each_core | intro _ _ | intro _ | refine (modKv_core ..).trans ?_
      | refine (setIdx_core ..).trans ?_)
    | exact rfl

theorem lostC_core (s : State) : (lostC s).core = s.core := by
  unfold lostC
  dsimp only
  repeat' first
    | with_reducible (first
      | exact rfl | apply each_core | intro _ _ | intro _ | refine (modSide_core ..).trans ?_
      | refine (modPorts_core ..).trans ?_ | refine (modPwr_core ?_).trans ?_ | refine (lostTag_core ..).trans ?_
      | refine (clearPool_core ..).trans ?_)
    | exact rfl

theorem loseSplit_core (i : Nat) (s : State) : (loseSplit i s).core = s.core := by
  unfold loseSplit
  dsimp only
  repeat' first
    | with_reducible (first
      | exact rfl | apply ite_core | refine (modDeals_core ..).trans ?_ | refine (failSeat_core ..).trans ?_
      | refine (modSplit_core ..).trans ?_ | refine (unbind_core ..).trans ?_ | refine (voidRun_core ..).trans ?_)
    | split
    | exact rfl

theorem lostN_core (peer node : Nat) (s : State) : (lostN peer node s).core = s.core := by
  unfold lostN
  dsimp only
  repeat' first
    | with_reducible (first
      | exact rfl | apply ite_core | apply each_core | intro _ _ | intro _ | refine (modDeals_core ..).trans ?_
      | refine (objDataTaken_core ..).trans ?_ | refine (loseSplit_core ..).trans ?_)
    | split
    | exact rfl

theorem lostT_core (s : State) : (lostT s).core = s.core := by
  unfold lostT
  dsimp only
  repeat' first
    | with_reducible (first
      | exact rfl | apply ite_core | apply each_core | intro _ _ | intro _ | refine (modSeq_core ..).trans ?_
      | refine (tiersChange_core ..).trans ?_)
    | split
    | exact rfl

theorem endSession_core (p : Port) (peer : Nat) (s : State) : (endSession p peer s).core = s.core := by
  unfold endSession; split <;> simp only [setFlag_core, bump_core, modSess_core, dropQueue_core, lostG_core, lostP_core, lostC_core, lostN_core, lostT_core]

theorem dropSession_core (p : Port) (peer : Nat) (s : State) : (dropSession p peer s).core = s.core := by
  unfold dropSession; split <;> simp only [endSession_core]

theorem dropPort_core (p : Port) (s : State) : (dropPort p s).core = s.core := by
  unfold dropPort
  repeat' first
    | with_reducible (first
      | exact rfl | apply each_core | intro _ _ | intro _ | refine (dropSession_core ..).trans ?_)
    | exact rfl

theorem sendParts_core (l : List (List SagSeat)) (s : State) : (sendParts l s).core = s.core := by
  induction l generalizing s with
  | nil => rfl
  | cons g r ih => simp only [sendParts]; rw [ih, send_core]

theorem sagReplay_core (s : State) : (sagReplay s).core = s.core := by
  unfold sagReplay
  repeat' first
    | with_reducible (first
      | exact rfl | apply ite_core | refine (sendParts_core ..).trans ?_)
    | split
    | exact rfl

theorem linkRaise_core (p : Port) (peer : Nat) (s : State) : (linkRaise p peer s).core = s.core := by
  unfold linkRaise
  dsimp only
  repeat' first
    | with_reducible (first
      | exact rfl | apply ite_core | refine (modSess_core ..).trans ?_ | refine (sendHello_core ..).trans ?_)
    | split
    | exact rfl

theorem linkDrop_core (p : Port) (peer : Nat) (s : State) : (linkDrop p peer s).core = s.core := by
  simp only [linkDrop, modSess_core, dropSession_core]

theorem beginSession_core (p : Port) (peer node era : Nat) (opened : Bool) (s : State) :
    (beginSession p peer node era opened s).core = s.core := by
  unfold beginSession
  dsimp only
  repeat' first
    | with_reducible (first
      | exact rfl | apply ite_core | refine (modPorts_core ..).trans ?_ | refine (modPwr_core ?_).trans ?_
      | refine (modSess_core ..).trans ?_ | refine (sendHello_core ..).trans ?_ | refine (takeFull_core ..).trans ?_
      | refine (grantFull_core ..).trans ?_ | refine (sagReplay_core ..).trans ?_)
    | split
    | exact rfl

theorem helloTaken_core (p : Port) (peer node era : Nat) (opened : Bool) (s : State) :
    (helloTaken p peer node era opened s).core = s.core := by
  unfold helloTaken
  dsimp only
  repeat' first
    | with_reducible (first
      | exact rfl | apply ite_core | refine (setFlag_core ..).trans ?_ | refine (bump_core ..).trans ?_
      | refine (portCnt_core ..).trans ?_ | refine (endSession_core ..).trans ?_ | refine (beginSession_core ..).trans ?_)
    | split
    | exact rfl

theorem creditTaken_core (p : Port) (peer : Nat) (opened : Bool) (beats : Nat) (es : List (BitVec 4 × BitVec 20)) (s : State) :
    (creditTaken p peer opened beats es s).core = s.core := by
  unfold creditTaken
  dsimp only
  repeat' first
    | with_reducible (first
      | exact rfl | apply ite_core | apply each_core | intro _ _ | intro _ | refine (setFlag_core ..).trans ?_
      | refine (bump_core ..).trans ?_ | refine (modSess_core ..).trans ?_ | refine (portCnt_core ..).trans ?_)
    | split
    | exact rfl

theorem unknownTaken_core (p : Port) (peer : Nat) (badLen : Bool) (op : Nat) (word1 : Word) (s : State) :
    (unknownTaken p peer badLen op word1 s).core = s.core := by
  unfold unknownTaken
  dsimp only
  repeat' first
    | with_reducible (first
      | exact rfl | apply ite_core | refine (setFlag_core ..).trans ?_ | refine (bump_core ..).trans ?_
      | refine (modSess_core ..).trans ?_ | refine (portCnt_core ..).trans ?_ | refine (sendNotReady_core ..).trans ?_
      | refine (badLen_core ..).trans ?_)
    | split
    | exact rfl

theorem openPort_core (p : Port) (s : State) :
    (openPort p s).core = if p = .G ∧ s.pwr.state = 0 then { s.core with state := 1 } else s.core := by
  have h : ∀ x : State, x.core = s.core → (modPwr (fun q => { q with
      portGOpen := if q.portGOpen = 0xFFFF then min 0xFFFE (x.now / 1000000) else q.portGOpen
      state := if q.state = 0 then 1 else q.state }) x).core =
        if s.pwr.state = 0 then { s.core with state := 1 } else s.core := by
    intro x hx
    have e : x.pwr.state = s.pwr.state := congrArg Core.state hx
    rw [← hx, ← e]
    by_cases h0 : x.pwr.state = 0 <;> simp [modPwr, State.core, h0]
  unfold openPort
  dsimp only
  cases p <;> dsimp only [portGate] <;> simp only [reduceCtorEq, true_and, false_and, if_false]
  · rw [admissionOpens_core, sagReplay_core]
    refine h _ ?_
    refine (each_core (fun k s => ?_) ?_)
    · exact ite_core (grantFull_core ..) rfl
    · exact modPorts_core ..
  all_goals
    repeat' first
      | with_reducible exact rfl
      | with_reducible refine (candCfg_core ..).trans ?_
      | with_reducible refine (modSieve_core ..).trans ?_
      | with_reducible refine (setFld_core ..).trans ?_
      | with_reducible refine (releaseGated_core ..).trans ?_
      | with_reducible refine (gateThaw_core ..).trans ?_
      | with_reducible apply ite_core
      | with_reducible apply each_core
      | with_reducible refine (grantFull_core ..).trans ?_
      | with_reducible refine (modPorts_core ..).trans ?_
      | intro _ _

theorem portOpenWrite_core (p : Port) (s : State) : (portOpenWrite p s).core =
    if s.mayOpen p = true ∧ p = .G ∧ s.pwr.state = 0 then { s.core with state := 1 } else s.core := by
  unfold portOpenWrite
  by_cases h : s.mayOpen p = true
  · rw [if_pos h, openPort_core]; simp [h]
  · rw [if_neg h]; simp [h]

theorem portDropWrite_core (p : Port) (s : State) : (portDropWrite p s).core = s.core := by
  unfold portDropWrite; split <;> simp only [dropPort_core]

theorem gateStore_core (off : Nat) (w : Word) (s : State) : (gateStore off w s).core = s.core :=
  ite_core ((releaseGated_core _).trans ((gateWritten_core ..).trans ((setReg_core ..).trans (gateSync_core ..)))) (setReg_core ..)

theorem openEffect_core (off : Nat) (v : Word) (s : State) :
    (openEffect off v s).core = s.core ∨ (s.pwr.state = 0 ∧ (openEffect off v s).core = { s.core with state := 1 }) := by
  unfold openEffect
  split
  · rw [portOpenWrite_core]
    split
    · rename_i h; exact .inr ⟨h.2.2, rfl⟩
    · exact .inl rfl
  · exact .inl rfl

theorem admitNoted_core (off : Nat) (s : State) : (admitNoted off s).core = s.core := by
  unfold admitNoted; split <;> rfl

theorem laneWrite_core (v : Word) (s : State) : (laneWrite v s).core = s.core := by
  unfold laneWrite
  dsimp only
  repeat' first
    | with_reducible (first
      | exact rfl | apply ite_core | refine (setReg_core ..).trans ?_)
    | split
    | exact rfl

theorem applyDefaults_core (s : State) : (applyDefaults s).core = s.core := rfl

theorem startTenants_core (s : State) : (startTenants s).core = s.core := by
  unfold startTenants
  try dsimp only
  repeat' first
    | with_reducible (first
      | exact rfl | (unfold State.core; exact rfl))
    | exact rfl
    | (simp only [*]; done)

theorem startEst_core (s : State) : (startEst s).core = s.core := by
  unfold startEst
  dsimp only
  repeat' first
    | with_reducible (first
      | exact rfl | apply each_core | intro _ _ | intro _ | refine (modCls_core ..).trans ?_)
    | exact rfl

theorem greetLinks_core (s : State) : (greetLinks s).core = s.core := by
  unfold greetLinks
  try dsimp only
  repeat' first
    | with_reducible (first
      | exact rfl | apply ite_core | apply each_core | apply each2_core | intro _ _ | intro _
      | refine (sendHello_core ..).trans ?_ | (unfold State.core; exact rfl))
    | split
    | exact rfl
    | (simp only [*]; done)

theorem wakeGo_core (s : State) : (wakeGo s).core = s.core := by
  unfold wakeGo; split <;> simp only [finish_core, goNode_core]

theorem sagSettle_core (i : Nat) (s : State) : (sagSettle i s).core = s.core := by
  unfold sagSettle
  dsimp only
  repeat' first
    | with_reducible (first
      | exact rfl | apply ite_core | refine (modTenant_core ..).trans ?_)
    | split
    | exact rfl

theorem whenCmd_core {f : State → State} {s : State} {x : Core} (hf : ∀ s, (f s).core = s.core) (hs : s.core = x) :
    (whenCmd f s).core = x := by
  unfold whenCmd
  split
  · rw [hf, hs]
  · exact hs

theorem stopBits_core (v : Word) (s : State) : (stopBits v s).core = s.core := by
  unfold stopBits
  dsimp only
  repeat' first
    | with_reducible (first
      | exact rfl | apply ite_core | refine (bump_core ..).trans ?_ | refine (immediateStop_core ..).trans ?_
      | refine (boundaryStop_core ..).trans ?_ | refine (goNode_core ..).trans ?_)
    | split
    | exact rfl

theorem modBit_core (i : Nat) (s : State) : (modBit i s).core = s.core := by
  unfold modBit; split <;> simp only [hotStart_core, modRegisterStart_core, modWithdraw_core, modReobj_core]

theorem obsBit_core (i : Nat) (s : State) : (obsBit i s).core = s.core := by
  unfold obsBit
  repeat' first
    | with_reducible (first
      | exact rfl | intro _ _ | intro _ | refine (takeSnap_core ..).trans ?_ | refine (armSnap_core ..).trans ?_
      | refine (clearCounters_core ..).trans ?_ | refine (clearKeep_core ..).trans ?_ | apply whenCmd_core)
    | split
    | exact rfl

end Sys2Proof.Machine
end

