-- ==== Sys2Proof/Laws/Gates.lean ====
section
/-! SUPPORT. What the operations of the transfer gates leave as it is (`gateFrame`). -/
namespace Sys2Proof.Machine

theorem gateFrame_refl (s : State) : gateFrame s s := rfl

theorem gateFrame_trans {a b c : State} (h : gateFrame a b) (k : gateFrame b c) : gateFrame a c := by
  unfold gateFrame at *; rw [h] at k; exact k

theorem modGate_gateFrame (g f s) : gateFrame s (modGate g f s) := rfl

theorem modPath_gateFrame (g p f s) : gateFrame s (modPath g p f s) := rfl

theorem modReq_gateFrame (g p r f s) : gateFrame s (modReq g p r f s) := rfl

theorem setReg_gateFrame (o w s) : gateFrame s (setReg o w s) := rfl

theorem setFld_gateFrame (f v s) : gateFrame s (setFld f v s) := rfl

theorem setFlag_gateFrame (f s) : gateFrame s (setFlag f s) := rfl

theorem bumpN_gateFrame (c n s) : gateFrame s (bumpN c n s) := by unfold bumpN; split <;> rfl

theorem bump_gateFrame (c s) : gateFrame s (bump c s) := bumpN_gateFrame ..

theorem takeFree_gateFrame (s) : gateFrame s (takeFree s).2 := rfl

theorem trace_gateFrame (r s) : gateFrame s (trace r s) := by
  unfold trace; dsimp only; repeat' split
  all_goals rfl

theorem traceWait_gateFrame (a b c d e f g s) : gateFrame s (traceWait a b c d e f g s) := by
  unfold traceWait; dsimp only; split <;> first | exact trace_gateFrame .. | rfl

theorem each_gateFrame {α} (f : α → State → State) (h : ∀ a s, gateFrame s (f a s)) (l : List α) (s : State) : gateFrame s
    (each f l s) := by
  induction l generalizing s with
  | nil => rfl
  | cons a l ih => simp only [each]; exact gateFrame_trans (h a s) (ih _)

theorem ite_gateFrame {c : Prop} [Decidable c] {s a b : State} (h : gateFrame s a) (k : gateFrame s b) : gateFrame s
    (if c then a else b) := by
  split <;> assumption

theorem fillCounters_gateFrame (g s) : gateFrame s (fillCounters g s) := rfl

theorem moveBeats_gateFrame (g p n s) : gateFrame s (moveBeats g p n s) := by
  unfold moveBeats; dsimp only; split
  · rfl
  · exact gateFrame_trans (gateFrame_trans (modPath_gateFrame ..) (modReq_gateFrame ..)) (gateFrame_trans (modGate_gateFrame ..)
        (bumpN_gateFrame ..))

theorem freeBeats_gateFrame (g p s) : gateFrame s (freeBeats g p s) := by
  unfold freeBeats; dsimp only; split
  · rfl
  · exact gateFrame_trans (takeFree_gateFrame s) (moveBeats_gateFrame ..)

theorem otherBeats_gateFrame (g p s) : gateFrame s (otherBeats g p s) := by unfold otherBeats; split; exact freeBeats_gateFrame ..; rfl

theorem waiterWinner_gateFrame (g p l s) : gateFrame s (waiterWinner g p l s).2 := by
  unfold waiterWinner; split <;> rfl

theorem contestFor_gateFrame (g p w s) : gateFrame s (contestFor g p w s).2 := by
  unfold contestFor; split; exact waiterWinner_gateFrame ..; rfl

theorem contest_gateFrame (g p pr b s) : gateFrame s (contest g p pr b s) := by
  unfold contest; dsimp only; split
  · rfl
  · split
    · rfl
    · generalize hw : ((((s.gate g).path p).waiterDue || (((s.gate g).path p).grants + 1) % max 1 (s.fld
          (F.GATE_CFG_ROTN g)) == 0) && !b) = w at *
      have key : gateFrame s (contestFor g p w (otherBeats g p s)).2 := gateFrame_trans (otherBeats_gateFrame g p s)
          (contestFor_gateFrame ..)
      generalize (contestFor g p w (otherBeats g p s)).2 = y at *
      refine gateFrame_trans key (gateFrame_trans (gateFrame_trans ?_ (bump_gateFrame ..)) (traceWait_gateFrame ..))
      split
      · exact gateFrame_trans (modPath_gateFrame ..) (bump_gateFrame ..)
      · exact modPath_gateFrame ..

theorem unbump_gateFrame (c s) : gateFrame s (unbump c s) := by unfold unbump; split <;> rfl

theorem rejoin_gateFrame (g p s) : gateFrame s (rejoin g p s) := by
  unfold rejoin; dsimp only; split
  · rfl
  · split
    · rfl
    · split
      · exact contestFor_gateFrame ..
      · refine gateFrame_trans ?_ (bump_gateFrame ..)
        refine gateFrame_trans (gateFrame_trans (contestFor_gateFrame g p ((s.gate g).path p).waiter s) (gateFrame_trans ?_
            (unbump_gateFrame ..))) (ite_gateFrame (gateFrame_trans (modPath_gateFrame ..) (bump_gateFrame ..)) (modPath_gateFrame ..))
        exact ite_gateFrame (unbump_gateFrame ..) rfl

theorem giveBack_gateFrame (n s) : gateFrame s (giveBack .C n s) := by unfold giveBack; split <;> rfl

theorem returnKept_gateFrame (g t s) : gateFrame s (returnKept g t s) := by
  unfold returnKept; split
  · split
    · exact gateFrame_trans (b := modSide _ _ s) rfl (giveBack_gateFrame ..)
    · rfl
  · rfl

theorem endGrant_gateFrame (g p s) : gateFrame s (endGrant g p s) := by
  unfold endGrant; dsimp only; split
  · rfl
  · exact ite_gateFrame (gateFrame_trans (gateFrame_trans (modPath_gateFrame ..) (modReq_gateFrame ..)) (returnKept_gateFrame ..))
        (gateFrame_trans (modPath_gateFrame ..) (modReq_gateFrame ..))

theorem revokeGrant_gateFrame (g p s) : gateFrame s (revokeGrant g p s) := by
  unfold revokeGrant; dsimp only; split
  · rfl
  · exact gateFrame_trans (gateFrame_trans (setFld_gateFrame ..) (bump_gateFrame ..)) (endGrant_gateFrame ..)

theorem markFrozen_gateFrame (g s) : gateFrame s (markFrozen g s) := by unfold markFrozen; dsimp only; split <;> rfl

theorem preempt_gateFrame (g p s) : gateFrame s (preempt g p s) := by
  unfold preempt; dsimp only; split
  · rfl
  · exact ite_gateFrame (gateFrame_trans (revokeGrant_gateFrame ..) (contest_gateFrame ..)) rfl

theorem gateRequest_gateFrame (g p r t n s) : gateFrame s (gateRequest g p r t n s) := by
  have tail : ∀ y : State, gateFrame y (if y.gateFrozen g then markFrozen g y else match ((y.gate g).path p).owner with
      | none => modPath g p (fun x => { x with idle := true }) (contest g p 0 false y)
      | some _ =>
        if ((y.gate g).path p).idle ∧ ((y.gate g).path p).moved = 0 ∧ y.now ≤ ((y.gate g).path p).grantAt + 16 then
          preempt g p (if (takeFree y).1 % 2 = 0 then rejoin g p (takeFree y).2 else (takeFree y).2)
        else preempt g p y) := by
    intro y
    refine ite_gateFrame (markFrozen_gateFrame ..) ?_
    split
    · exact gateFrame_trans (contest_gateFrame ..) (modPath_gateFrame ..)
    · refine ite_gateFrame ?_ (preempt_gateFrame ..)
      refine gateFrame_trans ?_ (preempt_gateFrame ..)
      exact ite_gateFrame (gateFrame_trans (takeFree_gateFrame _) (rejoin_gateFrame ..)) (takeFree_gateFrame _)
  unfold gateRequest; dsimp only
  refine ite_gateFrame rfl ?_
  exact gateFrame_trans (gateFrame_trans (modReq_gateFrame ..) (moveBeats_gateFrame ..)) (tail _)

theorem gateDrop_gateFrame (g p r n l s) : gateFrame s (gateDrop g p r n l s) := by
  unfold gateDrop; dsimp only
  refine ite_gateFrame (gateFrame_trans (gateFrame_trans ?_ (modReq_gateFrame ..)) (contest_gateFrame ..)) (gateFrame_trans ?_
      (modReq_gateFrame ..))
  all_goals exact ite_gateFrame (gateFrame_trans (moveBeats_gateFrame ..) (endGrant_gateFrame ..)) rfl

theorem gateBurst_gateFrame (g p s) : gateFrame s (gateBurst g p s) := by
  unfold gateBurst; split
  · rfl
  · exact gateFrame_trans (gateFrame_trans (moveBeats_gateFrame ..) (gateFrame_trans (endGrant_gateFrame ..) (contest_gateFrame ..)))
        (markFrozen_gateFrame ..)

theorem gateEdge_gateFrame (g m n s) : gateFrame s (gateEdge g m n s) := by
  unfold gateEdge; dsimp only
  refine ite_gateFrame rfl (gateFrame_trans (gateFrame_trans (gateFrame_trans (moveBeats_gateFrame ..) (moveBeats_gateFrame ..))
      (fillCounters_gateFrame ..)) (modGate_gateFrame ..))

theorem syncAll_gateFrame (s) : gateFrame s (syncAll s) := by
  unfold syncAll gateSync; exact each_gateFrame _ (fun a s => each_gateFrame _ (fun p s => freeBeats_gateFrame ..) ..) ..

end Sys2Proof.Machine
end

