-- ==== Sys2Proof/Laws/PerInstr.lean ====
section
/-! SUPPORT. The family `Moves`: a command that brings register values into force is one that may move the core. -/
namespace Sys2Proof.Laws.Moves
open Sys2Proof.Machine

/-- What `movesForce` names, `movesCore` names. -/
def Statement (c : Instr) : Prop := movesForce c = true → movesCore c = true

theorem powerOnStart x0 : Statement (.powerOnStart x0) := by intro h; first | rfl | cases h
theorem imageReadDone x0 x1 : Statement (.imageReadDone x0 x1) := by intro h; first | rfl | cases h
theorem mainPowerGood x0 : Statement (.mainPowerGood x0) := by intro h; first | rfl | cases h
theorem startClearingDone x0 : Statement (.startClearingDone x0) := by intro h; first | rfl | cases h
theorem fabricReady x0 : Statement (.fabricReady x0) := by intro h; first | rfl | cases h
theorem startWindowExpiry x0 : Statement (.startWindowExpiry x0) := by intro h; first | rfl | cases h
theorem sagWarning x0 : Statement (.sagWarning x0) := by intro h; first | rfl | cases h
theorem sagRecordDone x0 : Statement (.sagRecordDone x0) := by intro h; first | rfl | cases h
theorem busRecovered x0 : Statement (.busRecovered x0) := by intro h; first | rfl | cases h
theorem fallowEntry x0 : Statement (.fallowEntry x0) := by intro h; first | rfl | cases h
theorem fallowPowerOff x0 : Statement (.fallowPowerOff x0) := by intro h; first | rfl | cases h
theorem wake x0 : Statement (.wake x0) := by intro h; first | rfl | cases h
theorem wakeholdExpiry x0 : Statement (.wakeholdExpiry x0) := by intro h; first | rfl | cases h
theorem linkUp x0 x1 x2 : Statement (.linkUp x0 x1 x2) := by intro h; first | rfl | cases h
theorem linkDown x0 x1 x2 : Statement (.linkDown x0 x1 x2) := by intro h; first | rfl | cases h
theorem hello x0 x1 x2 x3 x4 x5 : Statement (.hello x0 x1 x2 x3 x4 x5) := by intro h; first | rfl | cases h
theorem credit x0 x1 x2 x3 x4 x5 : Statement (.credit x0 x1 x2 x3 x4 x5) := by intro h; first | rfl | cases h
theorem unknownMessage x0 x1 x2 x3 x4 x5 : Statement (.unknownMessage x0 x1 x2 x3 x4 x5) := by intro h; first | rfl | cases h
theorem portOpen x0 x1 : Statement (.portOpen x0 x1) := by intro h; first | rfl | cases h
theorem portDrop x0 x1 : Statement (.portDrop x0 x1) := by intro h; first | rfl | cases h
theorem openReq x0 x1 : Statement (.openReq x0 x1) := by intro h; first | rfl | cases h
theorem prompt x0 x1 x2 x3 : Statement (.prompt x0 x1 x2 x3) := by intro h; first | rfl | cases h
theorem promptwaitExpiry x0 x1 : Statement (.promptwaitExpiry x0 x1) := by intro h; first | rfl | cases h
theorem cancel x0 x1 : Statement (.cancel x0 x1) := by intro h; first | rfl | cases h
theorem prefillShip x0 x1 : Statement (.prefillShip x0 x1) := by intro h; first | rfl | cases h
theorem prefillKv x0 x1 x2 x3 x4 x5 : Statement (.prefillKv x0 x1 x2 x3 x4 x5) := by intro h; first | rfl | cases h
theorem prefillFail x0 x1 x2 x3 : Statement (.prefillFail x0 x1 x2 x3) := by intro h; first | rfl | cases h
theorem shipwaitExpiry x0 x1 : Statement (.shipwaitExpiry x0 x1) := by intro h; first | rfl | cases h
theorem kvData x0 x1 x2 x3 : Statement (.kvData x0 x1 x2 x3) := by intro h; first | rfl | cases h
theorem kvMiss x0 x1 x2 : Statement (.kvMiss x0 x1 x2) := by intro h; first | rfl | cases h
theorem putAck x0 x1 x2 : Statement (.putAck x0 x1 x2) := by intro h; first | rfl | cases h
theorem putDecline x0 x1 : Statement (.putDecline x0 x1) := by intro h; first | rfl | cases h
theorem imageData x0 x1 x2 x3 : Statement (.imageData x0 x1 x2 x3) := by intro h; first | rfl | cases h
theorem dirAdd x0 x1 : Statement (.dirAdd x0 x1) := by intro h; first | rfl | cases h
theorem dirDrop x0 x1 : Statement (.dirDrop x0 x1) := by intro h; first | rfl | cases h
theorem replayEnd x0 x1 : Statement (.replayEnd x0 x1) := by intro h; first | rfl | cases h
theorem fetchwaitExpiry x0 x1 : Statement (.fetchwaitExpiry x0 x1) := by intro h; first | rfl | cases h
theorem splitOpen x0 x1 x2 : Statement (.splitOpen x0 x1 x2) := by intro h; first | rfl | cases h
theorem splitOpened x0 x1 x2 x3 x4 x5 x6 x7 : Statement (.splitOpened x0 x1 x2 x3 x4 x5 x6 x7) := by intro h; first | rfl | cases h
theorem splitClose x0 x1 x2 x3 x4 : Statement (.splitClose x0 x1 x2 x3 x4) := by intro h; first | rfl | cases h
theorem splitPause x0 x1 x2 x3 : Statement (.splitPause x0 x1 x2 x3) := by intro h; first | rfl | cases h
theorem splitResume x0 x1 x2 x3 : Statement (.splitResume x0 x1 x2 x3) := by intro h; first | rfl | cases h
theorem jointOffer x0 x1 x2 x3 x4 x5 : Statement (.jointOffer x0 x1 x2 x3 x4 x5) := by intro h; first | rfl | cases h
theorem jointBind x0 x1 x2 x3 x4 x5 x6 : Statement (.jointBind x0 x1 x2 x3 x4 x5 x6) := by intro h; first | rfl | cases h
theorem jointGo x0 x1 x2 x3 x4 x5 x6 x7 : Statement (.jointGo x0 x1 x2 x3 x4 x5 x6 x7) := by intro h; first | rfl | cases h
theorem query x0 x1 x2 x3 x4 x5 x6 : Statement (.query x0 x1 x2 x3 x4 x5 x6) := by intro h; first | rfl | cases h
theorem partialMsg x0 x1 x2 x3 x4 x5 x6 : Statement (.partialMsg x0 x1 x2 x3 x4 x5 x6) := by intro h; first | rfl | cases h
theorem clusterExchangeOut x0 x1 x2 x3 x4 x5 x6 x7 : Statement (.clusterExchangeOut x0 x1 x2 x3 x4 x5 x6 x7) := by intro h; first | rfl | cases h
theorem lease x0 x1 x2 x3 x4 x5 : Statement (.lease x0 x1 x2 x3 x4 x5) := by intro h; first | rfl | cases h
theorem peerwaitLeadExpiry x0 x1 : Statement (.peerwaitLeadExpiry x0 x1) := by intro h; first | rfl | cases h
theorem peerwaitFollowerExpiry x0 x1 : Statement (.peerwaitFollowerExpiry x0 x1) := by intro h; first | rfl | cases h
theorem leaseIdleExpiry x0 x1 : Statement (.leaseIdleExpiry x0 x1) := by intro h; first | rfl | cases h
theorem objFetch x0 x1 x2 x3 x4 : Statement (.objFetch x0 x1 x2 x3 x4) := by intro h; first | rfl | cases h
theorem objData x0 x1 x2 x3 : Statement (.objData x0 x1 x2 x3) := by intro h; first | rfl | cases h
theorem secwaitExpiry x0 x1 : Statement (.secwaitExpiry x0 x1) := by intro h; first | rfl | cases h
theorem tfetch x0 : Statement (.tfetch x0) := by intro h; first | rfl | cases h
theorem tdone x0 x1 x2 x3 : Statement (.tdone x0 x1 x2 x3) := by intro h; first | rfl | cases h
theorem terr x0 x1 : Statement (.terr x0 x1) := by intro h; first | rfl | cases h
theorem tstatus x0 x1 x2 : Statement (.tstatus x0 x1 x2) := by intro h; first | rfl | cases h
theorem candList x0 x1 : Statement (.candList x0 x1) := by intro h; first | rfl | cases h
theorem refillRoomFreed x0 x1 : Statement (.refillRoomFreed x0 x1) := by intro h; first | rfl | cases h
theorem drafts x0 x1 : Statement (.drafts x0 x1) := by intro h; first | rfl | cases h
theorem epochDone x0 x1 x2 x3 x4 : Statement (.epochDone x0 x1 x2 x3 x4) := by intro h; first | rfl | cases h
theorem layerDone x0 x1 : Statement (.layerDone x0 x1) := by intro h; first | rfl | cases h
theorem composeBegin x0 : Statement (.composeBegin x0) := by intro h; first | rfl | cases h
theorem idleComposeStart x0 : Statement (.idleComposeStart x0) := by intro h; first | rfl | cases h
theorem dealHandOff x0 : Statement (.dealHandOff x0) := by intro h; first | rfl | cases h
theorem dealComplete x0 : Statement (.dealComplete x0) := by intro h; first | rfl | cases h
theorem launch x0 : Statement (.launch x0) := by intro h; first | rfl | cases h
theorem layerRelease x0 : Statement (.layerRelease x0) := by intro h; first | rfl | cases h
theorem stopBoundary x0 x1 : Statement (.stopBoundary x0 x1) := by intro h; first | rfl | cases h
theorem stopImmediate x0 : Statement (.stopImmediate x0) := by intro h; first | rfl | cases h
theorem stopGo x0 : Statement (.stopGo x0) := by intro h; first | rfl | cases h
theorem blockHashDone x0 x1 : Statement (.blockHashDone x0 x1) := by intro h; first | rfl | cases h
theorem indexProbeDone x0 x1 : Statement (.indexProbeDone x0 x1) := by intro h; first | rfl | cases h
theorem pkvRegister : Statement (.pkvRegister) := by intro h; first | rfl | cases h
theorem pkvWithdraw : Statement (.pkvWithdraw) := by intro h; first | rfl | cases h
theorem pkvRetirePop : Statement (.pkvRetirePop) := by intro h; first | rfl | cases h
theorem modRegister x0 x1 : Statement (.modRegister x0 x1) := by intro h; first | rfl | cases h
theorem modRegisterDone x0 : Statement (.modRegisterDone x0) := by intro h; first | rfl | cases h
theorem modWithdraw : Statement (.modWithdraw) := by intro h; first | rfl | cases h
theorem modHotload x0 : Statement (.modHotload x0) := by intro h; first | rfl | cases h
theorem modReobj x0 : Statement (.modReobj x0) := by intro h; first | rfl | cases h
theorem modRetirePop : Statement (.modRetirePop) := by intro h; first | rfl | cases h
theorem gateRequest x0 x1 x2 x3 x4 x5 : Statement (.gateRequest x0 x1 x2 x3 x4 x5) := by intro h; first | rfl | cases h
theorem gateRequestDrop x0 x1 x2 x3 x4 x5 : Statement (.gateRequestDrop x0 x1 x2 x3 x4 x5) := by intro h; first | rfl | cases h
theorem gateBurstLimit x0 x1 x2 : Statement (.gateBurstLimit x0 x1 x2) := by intro h; first | rfl | cases h
theorem gateWindowEdge x0 x1 x2 x3 : Statement (.gateWindowEdge x0 x1 x2 x3) := by intro h; first | rfl | cases h
theorem gateWatchdog x0 x1 x2 x3 : Statement (.gateWatchdog x0 x1 x2 x3) := by intro h; first | rfl | cases h
theorem gateRevoke x0 x1 x2 x3 : Statement (.gateRevoke x0 x1 x2 x3) := by intro h; first | rfl | cases h
theorem windowEdge x0 : Statement (.windowEdge x0) := by intro h; first | rfl | cases h
theorem scrubTick x0 x1 : Statement (.scrubTick x0 x1) := by intro h; first | rfl | cases h
theorem lockAcquire x0 : Statement (.lockAcquire x0) := by intro h; first | rfl | cases h
theorem lockRelease x0 : Statement (.lockRelease x0) := by intro h; first | rfl | cases h
theorem lockExpiry x0 : Statement (.lockExpiry x0) := by intro h; first | rfl | cases h
theorem bootBedrocknext : Statement (.bootBedrocknext) := by intro h; first | rfl | cases h
theorem bootClear : Statement (.bootClear) := by intro h; first | rfl | cases h
theorem obsSnapnow : Statement (.obsSnapnow) := by intro h; first | rfl | cases h
theorem obsSnap : Statement (.obsSnap) := by intro h; first | rfl | cases h
theorem obsClear : Statement (.obsClear) := by intro h; first | rfl | cases h
theorem obsClearkeep : Statement (.obsClearkeep) := by intro h; first | rfl | cases h
theorem trcArm : Statement (.trcArm) := by intro h; first | rfl | cases h
theorem trcFire x0 : Statement (.trcFire x0) := by intro h; first | rfl | cases h
theorem opsQueueRoom x0 : Statement (.opsQueueRoom x0) := by intro h; first | rfl | cases h
theorem tenantDataWrite x0 x1 : Statement (.tenantDataWrite x0 x1) := by intro h; first | rfl | cases h
theorem slotDataWrite x0 : Statement (.slotDataWrite x0) := by intro h; first | rfl | cases h
theorem splitDataWrite x0 : Statement (.splitDataWrite x0) := by intro h; first | rfl | cases h
theorem digDataWrite x0 : Statement (.digDataWrite x0) := by intro h; first | rfl | cases h
theorem registerWrite x0 x1 x2 : Statement (.registerWrite x0 x1 x2) := by intro h; first | rfl | cases h
theorem traceStagingDrain : Statement (.traceStagingDrain) := by intro h; first | rfl | cases h
theorem residentBlockVerified x0 x1 : Statement (.residentBlockVerified x0 x1) := by intro h; first | rfl | cases h
theorem fabricEgressCredit x0 x1 x2 : Statement (.fabricEgressCredit x0 x1 x2) := by intro h; first | rfl | cases h

end Sys2Proof.Laws.Moves
end

