-- ==== Sys2Proof/Laws/TidyRequests.lean ====
section
/-! SUPPORT. Each shared operation keeps the indexed stores in their canonical form (`State.tidy`). The shared operations, the pots, the links, KV and the life of a seat. -/
namespace Sys2Proof.Machine

theorem ite_tidy {c : Prop} [Decidable c] {a b : State} (ha : a.tidy) (hb : b.tidy) : (if c then a else b).tidy := by
  split
  · exact ha
  · exact hb

theorem each_tidy {α : Type} {f : α → State → State} {l : List α} {s : State} (h : ∀ a s, s.tidy → (f a s).tidy)
    (hs : s.tidy) : (each f l s).tidy := by
  induction l generalizing s with
  | nil => exact hs
  | cons a l ih => exact ih (h a s hs)

theorem each2_tidy {α β : Type} {f : α → β × State → β × State} {l : List α} {p : β × State}
    (h : ∀ a p, p.2.tidy → (f a p).2.tidy) (hs : p.2.tidy) : (each f l p).2.tidy := by
  induction l generalizing p with
  | nil => exact hs
  | cons a l ih => exact ih (h a p hs)

theorem setReg_tidy (off : Nat) (w : Word) (s : State) (h : s.tidy) : (setReg off w s).tidy :=
  ⟨twf_tput _ _ h.1, h.2⟩

theorem setFld_tidy (f : Fld) (v : Nat) (s : State) (wf : s.tidy) : (setFld f v s).tidy := by
  unfold setFld; exact setReg_tidy _ _ _ wf

theorem setFlag_tidy (f : Fld) (s : State) (wf : s.tidy) : (setFlag f s).tidy := by
  unfold setFlag; exact setFld_tidy _ _ _ wf

theorem tick_tidy (t : BitVec 64) (s : State) (h : s.tidy) : (tick t s).tidy := by
  unfold tick
  dsimp only
  split <;> exact h

theorem idleStep_tidy (s : State) (wf : s.tidy) : (idleStep s).tidy := by
  unfold idleStep
  repeat' first
    | with_reducible (first
      | exact wf | apply ite_tidy)
    | split
    | exact wf

theorem bumpN_tidy (c n : Nat) (s : State) (h : s.tidy) : (bumpN c n s).tidy := by
  unfold bumpN
  obtain ⟨h1, h2, h3, h4, h5, h6, h7, h8, h9⟩ := h
  split
  · exact ⟨h1, h2, h3, h4, h5, h6, h7, h8, twf_tput _ _ h9⟩
  · exact ⟨h1, h2, h3, h4, h5, h6, h7, twf_tput _ _ h8, h9⟩

theorem bump_tidy (c : Nat) (s : State) (wf : s.tidy) : (bump c s).tidy := by
  unfold bump; exact bumpN_tidy _ _ _ wf

theorem takeFree_tidy (s : State) (wf : s.tidy) : (takeFree s).2.tidy := wf

theorem emit_tidy (m : Msg) (s : State) (wf : s.tidy) : (emit m s).tidy := wf

theorem setSeat_tidy (i : Nat) (a : Seat) (s : State) (h : s.tidy) : (setSeat i a s).tidy :=
  ⟨h.1, h.2.1, twf_tput _ _ h.2.2.1, h.2.2.2⟩

theorem modSeat_tidy (i : Nat) (f : Seat → Seat) (s : State) (wf : s.tidy) : (modSeat i f s).tidy := by
  unfold modSeat; exact setSeat_tidy _ _ _ wf

theorem setSide_tidy (i : Nat) (a : Side) (s : State) (h : s.tidy) : (setSide i a s).tidy :=
  ⟨h.1, h.2.1, h.2.2.1, twf_tput _ _ h.2.2.2.1, h.2.2.2.2⟩

theorem modSide_tidy (i : Nat) (f : Side → Side) (s : State) (wf : s.tidy) : (modSide i f s).tidy := by
  unfold modSide; exact setSide_tidy _ _ _ wf

theorem modTenant_tidy (t : Nat) (f : Tenant → Tenant) (s : State) (h : s.tidy) : (modTenant t f s).tidy :=
  ⟨h.1, h.2.1, h.2.2.1, h.2.2.2.1, twf_tput _ _ h.2.2.2.2.1, h.2.2.2.2.2⟩

theorem modCls_tidy (c : Nat) (f : ClassSt → ClassSt) (s : State) (h : s.tidy) : (modCls c f s).tidy :=
  ⟨h.1, h.2.1, h.2.2.1, h.2.2.2.1, h.2.2.2.2.1, twf_tput _ _ h.2.2.2.2.2.1, h.2.2.2.2.2.2⟩

theorem modLed_tidy {f : Ledger → Ledger} {s : State} (hs : (f s.led).seats = s.led.seats)
    (hd : (f s.led).sides = s.led.sides) (h : s.tidy) : (modLed f s).tidy := by
  obtain ⟨h1, h2, h3, h4, h5, h6, h7, h8, h9⟩ := h
  exact ⟨h1, h2, (congrArg (fun l => twf (fun _ => Seat.empty) l) hs).trans h3,
    (congrArg (fun l => twf (fun _ => Side.empty) l) hd).trans h4, h5, h6, h7, h8, h9⟩

theorem modDeals_tidy (f : Deals → Deals) (s : State) (wf : s.tidy) : (modDeals f s).tidy := wf

theorem modSieve_tidy (f : SieveSt → SieveSt) (s : State) (wf : s.tidy) : (modSieve f s).tidy := wf

theorem modKv_tidy (f : Kv → Kv) (s : State) (wf : s.tidy) : (modKv f s).tidy := wf

theorem modSeq_tidy (f : Seq → Seq) (s : State) (wf : s.tidy) : (modSeq f s).tidy := wf

theorem modPorts_tidy (f : Ports → Ports) (s : State) (wf : s.tidy) : (modPorts f s).tidy := wf

theorem modObs_tidy {f : Obs → Obs} {s : State} (hf : (f s.obs).cnt = s.obs.cnt) (h : s.tidy) : (modObs f s).tidy := by
  obtain ⟨h1, h2, h3, h4, h5, h6, h7, h8, h9⟩ := h
  exact ⟨h1, h2, h3, h4, h5, h6, h7, (congrArg (fun l => twf (fun _ => 0) l) hf).trans h8, h9⟩

theorem modPwr_tidy (f : Power → Power) (s : State) (wf : s.tidy) : (modPwr f s).tidy := wf

theorem stageRec_cnt (n : Nat) (r : TraceRec) (o : Obs) : (stageRec n r o).cnt = o.cnt := by
  unfold stageRec; split <;> rfl

theorem freezeTrace_cnt (o : Obs) : (freezeTrace o).cnt = o.cnt := stageRec_cnt ..

theorem placeRec_cnt (r : TraceRec) (o : Obs) : (placeRec r o).cnt = o.cnt := by
  unfold placeRec
  split
  · exact stageRec_cnt ..
  · split
    · dsimp only
      split
      · exact (freezeTrace_cnt _).trans (stageRec_cnt ..)
      · exact stageRec_cnt ..
    · split <;> rfl

theorem fireTrace_cnt (n : Nat) (r : TraceRec) (o : Obs) : (fireTrace n r o).cnt = o.cnt := by
  unfold fireTrace
  dsimp only
  split
  · exact (freezeTrace_cnt _).trans (stageRec_cnt ..)
  · exact stageRec_cnt ..

theorem obs_tidy {s : State} {o : Obs} (ho : o.cnt = s.obs.cnt) (h : s.tidy) : ({ s with obs := o } : State).tidy :=
  modObs_tidy (f := fun _ => o) ho h

theorem gapPlaced_cnt (o : Obs) : (placeRec (gapRec o.gap) { o with gap := 0 }).cnt = o.cnt := placeRec_cnt ..

theorem trace_tidy (r : TraceRec) (s : State) (h : s.tidy) : (trace r s).tidy := by
  unfold trace
  dsimp only
  repeat' first
    | with_reducible exact h
    | with_reducible apply ite_tidy
    | with_reducible exact rfl
    | with_reducible apply obs_tidy
    | with_reducible refine (placeRec_cnt ..).trans ?_
    | with_reducible refine (fireTrace_cnt ..).trans ?_
    | split

theorem traceWait_tidy (kind epoch wf waiter layer start detail : Nat) (s : State) (h : s.tidy) :
    (traceWait kind epoch wf waiter layer start detail s).tidy :=
  ite_tidy (trace_tidy _ _ h) h

theorem modObj_tidy (kind id slot : Nat) (f : ObjSlot → ObjSlot) (s : State) (wf : s.tidy) :
    (modObj kind id slot f s).tidy := wf

theorem retireObj_tidy (kind id slot : Nat) (s : State) (wf : s.tidy) : (retireObj kind id slot s).tidy := by
  unfold retireObj
  dsimp only
  repeat' first
    | with_reducible (first
      | exact wf | apply ite_tidy | apply bump_tidy | apply modKv_tidy | apply modObj_tidy)
    | split
    | exact wf

theorem pinObj_tidy (kind id slot : Nat) (s : State) (wf : s.tidy) : (pinObj kind id slot s).tidy := wf

theorem unpinObj_tidy (kind id slot : Nat) (s : State) (wf : s.tidy) : (unpinObj kind id slot s).tidy := by
  unfold unpinObj
  try dsimp only
  repeat' first
    | with_reducible (first
      | assumption | apply modObj_tidy | apply retireObj_tidy)
    | exact wf

theorem modModel_tidy (m v : Nat) (f : ModelSlot → ModelSlot) (s : State) (wf : s.tidy) : (modModel m v f s).tidy := wf

theorem dropFetches_tidy (m v : Nat) (s : State) (wf : s.tidy) : (dropFetches m v s).tidy := wf

theorem retireModel_tidy (m v : Nat) (s : State) (wf : s.tidy) : (retireModel m v s).tidy := by
  unfold retireModel
  dsimp only
  repeat' first
    | with_reducible (first
      | exact wf | apply ite_tidy | apply bump_tidy | apply modSeq_tidy | apply modModel_tidy | apply dropFetches_tidy)
    | split
    | exact wf

theorem pinModel_tidy (m v : Nat) (s : State) (wf : s.tidy) : (pinModel m v s).tidy := wf

theorem unpinModel_tidy (m v : Nat) (s : State) (wf : s.tidy) : (unpinModel m v s).tidy := by
  unfold unpinModel
  try dsimp only
  repeat' first
    | with_reducible (first
      | assumption | apply modModel_tidy | apply retireModel_tidy)
    | exact wf

theorem takePins_tidy (i : Nat) (s : State) (wf : s.tidy) : (takePins i s).tidy := by
  unfold takePins
  dsimp only
  repeat' first
    | with_reducible (first
      | exact wf | apply ite_tidy | apply pinObj_tidy | apply pinModel_tidy)
    | split
    | exact wf

theorem dropPins_tidy (i : Nat) (s : State) (wf : s.tidy) : (dropPins i s).tidy := by
  unfold dropPins
  dsimp only
  repeat' first
    | with_reducible (first
      | exact wf | apply ite_tidy | apply unpinObj_tidy | apply unpinModel_tidy)
    | split
    | exact wf

theorem debit_tidy (i : Nat) (n : Int) (s : State) (wf : s.tidy) : (debit i n s).tidy := by
  unfold debit
  dsimp only
  repeat' first
    | with_reducible (first
      | exact wf | apply modSeat_tidy | apply modTenant_tidy)
    | exact wf

theorem settle_tidy (i reason : Nat) (s : State) (wf : s.tidy) : (settle i reason s).tidy := by
  unfold settle
  dsimp only
  repeat' first
    | with_reducible (first
      | exact wf | apply ite_tidy | apply modSide_tidy | apply debit_tidy)
    | split
    | exact wf

theorem freeSeat_tidy (i : Nat) (s : State) (wf : s.tidy) : (freeSeat i s).tidy := by
  unfold freeSeat
  dsimp only
  repeat' first
    | with_reducible (first
      | exact wf | apply ite_tidy | apply setSeat_tidy | apply modSeat_tidy | apply setSide_tidy)
    | split
    | exact wf

theorem releaseIndex_tidy (i : Nat) (s : State) (wf : s.tidy) : (releaseIndex i s).tidy := by
  unfold releaseIndex
  repeat' first
    | with_reducible (first
      | exact wf | apply ite_tidy | apply dropPins_tidy | apply freeSeat_tidy)
    | split
    | exact wf

theorem closeLeaves_tidy (i : Nat) (s : State) (wf : s.tidy) : (closeLeaves i s).2.tidy := by
  unfold closeLeaves
  dsimp only
  repeat' first
    | with_reducible (first
      | exact wf | apply ite_tidy | apply bump_tidy | apply settle_tidy | apply releaseIndex_tidy)
    | split
    | exact wf

theorem modGate_tidy (g : Nat) (f : GateSt → GateSt) (s : State) (h : s.tidy) : (modGate g f s).tidy :=
  ⟨h.1, h.2.1, h.2.2.1, h.2.2.2.1, h.2.2.2.2.1, h.2.2.2.2.2.1, twf_tput _ _ h.2.2.2.2.2.2.1, h.2.2.2.2.2.2.2⟩

theorem modPath_tidy (g p : Nat) (f : PathSt → PathSt) (s : State) (wf : s.tidy) : (modPath g p f s).tidy := by
  unfold modPath; exact modGate_tidy _ _ _ wf

theorem modReq_tidy (g p r : Nat) (f : Req → Req) (s : State) (wf : s.tidy) : (modReq g p r f s).tidy := by
  unfold modReq; exact modGate_tidy _ _ _ wf

theorem modSess_tidy (p : Port) (peer : Nat) (f : Sess → Sess) (s : State) (wf : s.tidy) : (modSess p peer f s).tidy := wf

theorem portCnt_tidy (p : Port) (k n : Nat) (s : State) (wf : s.tidy) : (portCnt p k n s).tidy := by
  unfold portCnt
  repeat' first
    | with_reducible (first
      | exact wf | apply ite_tidy | apply bumpN_tidy)
    | split
    | exact wf

theorem keptAlive_tidy (peer : Nat) (s : State) (wf : s.tidy) : (keptAlive peer s).tidy := wf

theorem depart_tidy (m : Msg) (s : State) (wf : s.tidy) : (depart m s).tidy := by
  unfold depart
  dsimp only
  repeat' first
    | with_reducible (first
      | exact wf | apply ite_tidy | apply bump_tidy | apply emit_tidy | apply portCnt_tidy | apply keptAlive_tidy)
    | split
    | exact wf

theorem sendCredit_tidy (p : Port) (peer : Nat) (opened : Bool) (beats : Nat) (es : List (Nat × Nat)) (s : State) (wf : s.tidy) :
    (sendCredit p peer opened beats es s).tidy := by
  unfold sendCredit
  try dsimp only
  repeat' first
    | with_reducible (first
      | assumption | apply bump_tidy | apply depart_tidy)
    | exact wf

theorem sendHello_tidy (p : Port) (peer : Nat) (s : State) (wf : s.tidy) : (sendHello p peer s).tidy := by
  unfold sendHello
  try dsimp only
  repeat' first
    | with_reducible (first
      | assumption | apply modSess_tidy | apply depart_tidy)
    | exact wf

theorem sendNotReady_tidy (p : Port) (peer op : Nat) (word1 : Word) (s : State) (wf : s.tidy) :
    (sendNotReady p peer op word1 s).tidy := by
  unfold sendNotReady
  repeat' first
    | with_reducible (first
      | exact wf | apply setFlag_tidy | apply portCnt_tidy | apply depart_tidy)
    | exact wf

theorem useCredit_tidy (i : OutItem) (s : State) (wf : s.tidy) : (useCredit i s).tidy := by
  unfold useCredit
  dsimp only
  repeat' first
    | with_reducible (first
      | exact wf | apply ite_tidy | apply modDeals_tidy | apply modSess_tidy)
    | split
    | exact wf

theorem countTokens_tidy (seat k : Nat) (s : State) (wf : s.tidy) : (countTokens seat k s).tidy := by
  unfold countTokens
  dsimp only
  repeat' first
    | with_reducible (first
      | exact wf | apply ite_tidy | apply bump_tidy | apply modCls_tidy)
    | split
    | exact wf

theorem recordConsumed_tidy (s : State) (wf : s.tidy) : (recordConsumed s).tidy := by
  unfold recordConsumed; exact bump_tidy _ _ wf

theorem returnCredit_tidy (p : Port) (peer cls n beats : Nat) (s : State) (wf : s.tidy) :
    (returnCredit p peer cls n beats s).tidy := by
  unfold returnCredit
  dsimp only
  repeat' first
    | with_reducible (first
      | exact wf | apply ite_tidy | apply modSess_tidy | apply sendCredit_tidy)
    | split
    | exact wf

theorem giveBack_tidy (p : Port) (n : Nat) (s : State) (wf : s.tidy) : (giveBack p n s).tidy := by
  unfold giveBack
  try dsimp only
  repeat' first
    | with_reducible (first
      | assumption | apply ite_tidy | apply modSess_tidy)
    | split
    | exact wf

theorem openCreditBut_tidy (n : Nat) (s : State) (wf : s.tidy) : (openCreditBut n s).tidy := by
  unfold openCreditBut
  dsimp only
  repeat' first
    | with_reducible (first
      | exact wf | apply ite_tidy | apply returnCredit_tidy)
    | split
    | exact wf

theorem returnOpenCredit_tidy (s : State) (wf : s.tidy) : (returnOpenCredit s).tidy := by
  unfold returnOpenCredit; exact openCreditBut_tidy _ _ wf

theorem queryLeft_tidy (seat layer : Nat) (s : State) (wf : s.tidy) : (queryLeft seat layer s).tidy := wf

theorem partialLeft_tidy (seat more : Nat) (s : State) (wf : s.tidy) : (partialLeft seat more s).tidy := wf

theorem leave_tidy (i : OutItem) (waited : Bool) (s : State) (wf : s.tidy) : (leave i waited s).tidy := by
  unfold leave
  dsimp only
  repeat' first
    | with_reducible (first
      | exact wf | apply ite_tidy | apply modSide_tidy | apply traceWait_tidy | apply freeSeat_tidy | apply closeLeaves_tidy
      | apply depart_tidy | apply countTokens_tidy | apply recordConsumed_tidy | apply openCreditBut_tidy
      | apply queryLeft_tidy | apply partialLeft_tidy)
    | split
    | exact wf

theorem send_tidy (i : OutItem) (s : State) (wf : s.tidy) : (send i s).tidy := by
  unfold send
  dsimp only
  repeat' first
    | with_reducible (first
      | exact wf | apply ite_tidy | apply setFlag_tidy | apply bump_tidy | apply modPorts_tidy | apply useCredit_tidy
      | apply leave_tidy)
    | split
    | exact wf

theorem sendMsg_tidy (m : Msg) (cls : Nat) (s : State) (wf : s.tidy) : (sendMsg m cls s).tidy := by
  unfold sendMsg; exact send_tidy _ _ wf

theorem sendFor_tidy (m : Msg) (cls i kind ntok : Nat) (s : State) (wf : s.tidy) : (sendFor m cls i kind ntok s).tidy := by
  unfold sendFor; exact send_tidy _ _ wf

theorem drainPass_tidy (k l : List OutItem) (s : State) (h : s.tidy) : (drainPass k l s).1.tidy := by
  induction l generalizing k s with
  | nil => exact h
  | cons i r ih =>
    simp only [drainPass]
    split
    · exact ih _ _ (leave_tidy _ _ _ (useCredit_tidy _ _ h))
    · exact ih _ _ h

theorem drain_tidy (s : State) (wf : s.tidy) : (drain s).tidy := by
  unfold drain
  dsimp only
  repeat' first
    | with_reducible (first
      | exact wf | apply modPorts_tidy | apply drainPass_tidy)
    | exact wf

theorem dropQueue_tidy (p : Port) (peer : Nat) (s : State) (wf : s.tidy) : (dropQueue p peer s).tidy := wf

theorem takeFull_tidy (p : Port) (peer : Nat) (s : State) (wf : s.tidy) : (takeFull p peer s).tidy := wf

theorem grantFull_tidy (p : Port) (peer : Nat) (s : State) (wf : s.tidy) : (grantFull p peer s).tidy := by
  unfold grantFull
  dsimp only
  repeat' first
    | with_reducible (first
      | exact wf | apply modSess_tidy | apply sendCredit_tidy)
    | exact wf

theorem overrun_tidy (p : Port) (peer n : Nat) (s : State) (wf : s.tidy) : (overrun p peer n s).tidy := by
  unfold overrun
  dsimp only
  repeat' first
    | with_reducible (first
      | exact wf | apply setFlag_tidy | apply bumpN_tidy | apply modSess_tidy)
    | exact wf

theorem greeted_tidy (p : Port) (peer cls beats : Nat) (s : State) (wf : s.tidy) : (greeted p peer cls beats s).2.tidy := by
  unfold greeted
  dsimp only
  repeat' first
    | with_reducible (first
      | exact wf | apply ite_tidy | apply takeFree_tidy)
    | split
    | exact wf

theorem arrive_tidy (p : Port) (peer cls op : Nat) (word1 : Word) (beats : Nat) (s : State) (wf : s.tidy) :
    (arrive p peer cls op word1 beats s).2.tidy := by
  unfold arrive
  dsimp only
  repeat' first
    | with_reducible (first
      | exact wf | apply ite_tidy | apply setFlag_tidy | apply bump_tidy | apply modSess_tidy | apply portCnt_tidy
      | apply sendNotReady_tidy | apply overrun_tidy | apply greeted_tidy)
    | split
    | exact wf

theorem taking_tidy {p : Port} {peer cls op : Nat} {word1 : Word} {beats : Nat} {f : State → State} {s : State}
    (hf : ∀ s, s.tidy → (f s).tidy) (h : s.tidy) : (taking p peer cls op word1 beats f s).tidy := by
  have k := arrive_tidy p peer cls op word1 beats s h
  unfold taking
  split <;> rename_i e <;> rw [e] at k
  · exact hf _ (returnCredit_tidy _ _ _ _ _ _ k)
  · exact k

theorem freeGated_tidy (x : Gated) (s : State) (wf : s.tidy) : (freeGated x s).tidy := by
  unfold freeGated
  repeat' first
    | with_reducible (first
      | exact wf | apply ite_tidy | apply returnCredit_tidy)
    | split
    | exact wf

theorem gatedIn_tidy {x : Gated} {f : State → State} {s : State} (hf : ∀ s, s.tidy → (f s).tidy) (h : s.tidy) :
    (gatedIn x f s).tidy :=
  ite_tidy (hf _ (freeGated_tidy _ _ h)) (modPorts_tidy _ _ h)

theorem takingGated_tidy {x : Gated} {op : Nat} {word1 : Word} {f : State → State} {s : State}
    (hf : ∀ s, s.tidy → (f s).tidy) (h : s.tidy) : (takingGated x op word1 f s).tidy := by
  have k := arrive_tidy x.port x.peer x.cls op word1 x.beats s h
  unfold takingGated
  split <;> rename_i e <;> rw [e] at k
  · exact gatedIn_tidy hf k
  · exact k

theorem sendN_tidy (peer op cls : Nat) (w0 : List (Nat × Nat)) (rest : List Word) (beats : Nat) (pay : List Word) (s : State) (wf : s.tidy) :
    (sendN peer op cls w0 rest beats pay s).tidy := by
  unfold sendN; exact sendMsg_tidy _ _ _ wf

theorem drainFPass_tidy (l : List (List Nat × Msg)) (s : State) (h : s.tidy) : (drainFPass l s).1.tidy := by
  induction l generalizing s with
  | nil => exact h
  | cons i r ih =>
    simp only [drainFPass]
    split
    · exact ih _ (depart_tidy _ _ (modPorts_tidy _ _ h))
    · exact h

theorem drainF_tidy (s : State) (wf : s.tidy) : (drainF s).tidy := by
  unfold drainF
  dsimp only
  repeat' first
    | with_reducible (first
      | exact wf | apply modPorts_tidy | apply drainFPass_tidy)
    | exact wf

theorem sendF_tidy (gs : List Nat) (m : Msg) (s : State) (wf : s.tidy) : (sendF gs m s).tidy := by
  unfold sendF
  try dsimp only
  repeat' first
    | with_reducible (first
      | assumption | apply modPorts_tidy | apply drainF_tidy)
    | exact wf

theorem launchWord_tidy (op : Nat) (w : List (Nat × Nat)) (s : State) (wf : s.tidy) : (launchWord op w s).tidy := wf

theorem modBlk_tidy (b : Nat) (f : Blk → Blk) (s : State) (wf : s.tidy) : (modBlk b f s).tidy := wf

theorem setIdx_tidy (n : Nat) (e : IdxEnt) (s : State) (wf : s.tidy) : (setIdx n e s).tidy := wf

theorem hotTouch_tidy (n : Nat) (k : BitVec 128) (s : State) (wf : s.tidy) : (hotTouch n k s).tidy := wf

theorem stampIdx_tidy (n : Nat) (s : State) (wf : s.tidy) : (stampIdx n s).tidy := wf

theorem markIndexed_tidy (w : InsKind) (n : Nat) (s : State) (wf : s.tidy) : (markIndexed w n s).tidy := by
  unfold markIndexed
  try dsimp only
  repeat' first
    | with_reducible (first
      | assumption | apply modBlk_tidy)
    | split
    | exact wf

theorem insertKey_tidy (k : BitVec 128) (w : InsKind) (s : State) (wf : s.tidy) : (insertKey k w s).tidy := by
  unfold insertKey
  dsimp only
  repeat' first
    | with_reducible (first
      | exact wf | apply ite_tidy | apply setFlag_tidy | apply bump_tidy | apply modBlk_tidy | apply setIdx_tidy
      | apply markIndexed_tidy)
    | split
    | exact wf

theorem clearLocal_tidy (b : Nat) (s : State) (wf : s.tidy) : (clearLocal b s).tidy := by
  unfold clearLocal
  dsimp only
  repeat' first
    | with_reducible (first
      | exact wf | apply ite_tidy | apply modBlk_tidy | apply setIdx_tidy)
    | split
    | exact wf

theorem issueName_tidy (s : State) (wf : s.tidy) : (issueName s).2.tidy := wf

theorem takeBlock_tidy {s t : State} {b : Nat} (h : takeBlock s = some (b, t)) (hs : s.tidy) : t.tidy := by
  unfold takeBlock at h
  split at h
  · cases h; exact hs
  · split at h
    · cases h; exact bump_tidy _ _ (modBlk_tidy _ _ _ (clearLocal_tidy _ _ hs))
    · cases h

theorem setChain_tidy (i : Nat) (l : List Nat) (s : State) (wf : s.tidy) : (setChain i l s).tidy := by
  unfold setChain; exact modSeat_tidy _ _ _ wf

theorem appendBlock_tidy (i b : Nat) (s : State) (wf : s.tidy) : (appendBlock i b s).tidy := by
  unfold appendBlock
  dsimp only
  repeat' first
    | with_reducible (first
      | exact wf | apply ite_tidy | apply modSeat_tidy | apply modBlk_tidy)
    | split
    | exact wf

theorem newBlock_tidy {i : Nat} {st : BlkState} {s t : State} {b : Nat} (h : newBlock i st s = some (b, t)) (hs : s.tidy) :
    t.tidy := by
  unfold newBlock at h
  split at h
  · cases h
  · rename_i b u e
    cases h; exact modBlk_tidy _ _ _ (issueName_tidy _ (takeBlock_tidy e hs))

theorem dropRef_tidy (i b : Nat) (s : State) (wf : s.tidy) : (dropRef i b s).tidy := by
  unfold dropRef
  dsimp only
  repeat' first
    | with_reducible (first
      | exact wf | apply ite_tidy | apply modBlk_tidy | apply clearLocal_tidy)
    | split
    | exact wf

theorem dropChain_tidy (i : Nat) (s : State) (wf : s.tidy) : (dropChain i s).tidy := by
  unfold dropChain
  repeat' first
    | with_reducible (first
      | assumption | apply each_tidy | intro _ _ _ | intro _ _ | apply setChain_tidy | apply dropRef_tidy)
    | exact wf

theorem cutChain_tidy (i n : Nat) (s : State) (wf : s.tidy) : (cutChain i n s).tidy := by
  unfold cutChain
  dsimp only
  repeat' first
    | with_reducible (first
      | assumption | apply each_tidy | intro _ _ _ | intro _ _ | apply setChain_tidy | apply dropRef_tidy)
    | exact wf

theorem state_parentOf_tidy (s : State) (x : Blk) (j : Nat) (wf : s.tidy) : (State.parentOf s x j).2.tidy := by
  unfold State.parentOf
  dsimp only
  repeat' first
    | with_reducible (first
      | exact wf | apply ite_tidy | apply takeFree_tidy)
    | split
    | exact wf

theorem completeBlock_tidy (i j : Nat) (s : State) (wf : s.tidy) : (completeBlock i j s).tidy := by
  unfold completeBlock
  dsimp only
  repeat' first
    | with_reducible (first
      | exact wf | apply ite_tidy | apply modBlk_tidy | apply insertKey_tidy | apply state_parentOf_tidy)
    | split
    | exact wf

theorem newTag_tidy (u : TagUse) (s : State) (wf : s.tidy) : (newTag u s).2.tidy := wf

theorem endTag_tidy (n : Nat) (s : State) (wf : s.tidy) : (endTag n s).tidy := wf

theorem putBlock_tidy (u : TagUse) (b : Nat) (s : State) (wf : s.tidy) : (putBlock u b s).tidy := by
  unfold putBlock
  dsimp only
  repeat' first
    | with_reducible (first
      | exact wf | apply ite_tidy | apply bump_tidy | apply sendMsg_tidy | apply modBlk_tidy | apply newTag_tidy)
    | split
    | exact wf

theorem spendLeaseC_tidy (i : Nat) (s : State) (wf : s.tidy) : (spendLeaseC i s).tidy := by
  unfold spendLeaseC
  try dsimp only
  repeat' first
    | with_reducible (first
      | assumption | apply ite_tidy | apply modSide_tidy | apply modSess_tidy)
    | split
    | exact wf

theorem fetchHandle_tidy (op : Nat) (u : TagUse) (handle : Nat) (s : State) (wf : s.tidy) :
    (fetchHandle op u handle s).tidy := by
  unfold fetchHandle
  dsimp only
  repeat' first
    | with_reducible (first
      | exact wf | apply sendMsg_tidy | apply newTag_tidy | apply spendLeaseC_tidy)
    | split
    | exact wf

theorem dropImage_tidy (handle : Nat) (s : State) (wf : s.tidy) : (dropImage handle s).tidy := by
  unfold dropImage; exact sendMsg_tidy _ _ _ wf

theorem formContext_tidy (i : Nat) (s : State) (wf : s.tidy) : (formContext i s).tidy := by
  unfold formContext; exact modSide_tidy _ _ _ wf

theorem freePagesOf_tidy (i : Nat) (p : Nat → Bool) (s : State) (wf : s.tidy) : (freePagesOf i p s).tidy := by
  unfold freePagesOf; exact modSide_tidy _ _ _ wf

theorem closeOut_tidy (i : Nat) (s : State) (wf : s.tidy) : (closeOut i s).tidy := by
  unfold closeOut
  dsimp only
  repeat' first
    | with_reducible (first
      | exact wf | apply ite_tidy | apply bump_tidy | apply modSide_tidy | apply sendFor_tidy)
    | split
    | exact wf

theorem closeFollowers_tidy (i reason : Nat) (s : State) (wf : s.tidy) : (closeFollowers i reason s).tidy := by
  unfold closeFollowers
  dsimp only
  repeat' first
    | with_reducible (first
      | assumption | apply ite_tidy | apply each_tidy | intro _ _ _ | intro _ _ | apply sendN_tidy)
    | split
    | exact wf

theorem abandonShip_tidy (i : Nat) (s : State) (wf : s.tidy) : (abandonShip i s).tidy := by
  unfold abandonShip
  dsimp only
  repeat' first
    | with_reducible (first
      | exact wf | apply ite_tidy | apply modSide_tidy | apply sendMsg_tidy)
    | split
    | exact wf

theorem endSplit_tidy (i : Nat) (s : State) (wf : s.tidy) : (endSplit i s).tidy := by
  unfold endSplit
  dsimp only
  repeat' first
    | with_reducible (first
      | exact wf | apply ite_tidy | apply modDeals_tidy)
    | split
    | exact wf

theorem dropRun_tidy (i : Nat) (s : State) (wf : s.tidy) : (dropRun i s).tidy := by
  unfold dropRun
  try dsimp only
  repeat' first
    | with_reducible (first
      | assumption | apply each_tidy | apply each2_tidy | intro _ _ _ | intro _ _ | apply modSide_tidy | apply dropRef_tidy)
    | split
    | exact wf

theorem closedToFree_tidy (i : Nat) (s : State) (wf : s.tidy) : (closedToFree i s).tidy := by
  unfold closedToFree
  dsimp only
  repeat' first
    | with_reducible (first
      | assumption | apply ite_tidy | apply each_tidy | intro _ _ _ | intro _ _ | apply releaseIndex_tidy
      | apply dropChain_tidy | apply putBlock_tidy | apply dropImage_tidy | apply endSplit_tidy | apply dropRun_tidy)
    | split
    | exact wf

theorem enterClosed_tidy (i : Nat) (s : State) (wf : s.tidy) : (enterClosed i s).tidy := by
  unfold enterClosed
  dsimp only
  repeat' first
    | with_reducible (first
      | exact wf | apply ite_tidy | apply modSeat_tidy | apply modTenant_tidy | apply modCls_tidy | apply settle_tidy
      | apply closeFollowers_tidy | apply closedToFree_tidy)
    | split
    | exact wf

theorem closeDirect_tidy (i reason : Nat) (s : State) (wf : s.tidy) : (closeDirect i reason s).tidy := by
  unfold closeDirect
  dsimp only
  repeat' first
    | with_reducible (first
      | exact wf | apply modSeat_tidy | apply closeOut_tidy | apply abandonShip_tidy | apply enterClosed_tidy)
    | exact wf

theorem enterDraining_tidy (i reason : Nat) (s : State) (wf : s.tidy) : (enterDraining i reason s).tidy := by
  unfold enterDraining; exact modSeat_tidy _ _ _ wf

theorem finishDraining_tidy (i : Nat) (s : State) (wf : s.tidy) : (finishDraining i s).tidy := by
  unfold finishDraining
  repeat' first
    | with_reducible (first
      | exact wf | apply ite_tidy | apply closeOut_tidy | apply enterClosed_tidy)
    | split
    | exact wf

theorem closeSeat_tidy (i reason : Nat) (s : State) (wf : s.tidy) : (closeSeat i reason s).tidy := by
  unfold closeSeat
  dsimp only
  repeat' first
    | with_reducible (first
      | exact wf | apply ite_tidy | apply modSide_tidy | apply closeOut_tidy | apply closeDirect_tidy
      | apply enterDraining_tidy | apply finishDraining_tidy)
    | split
    | exact wf

theorem tellFollowers_tidy (op i : Nat) (s : State) (wf : s.tidy) : (tellFollowers op i s).tidy := by
  unfold tellFollowers
  dsimp only
  repeat' first
    | with_reducible (first
      | assumption | apply ite_tidy | apply each_tidy | intro _ _ _ | intro _ _ | apply sendN_tidy)
    | split
    | exact wf

theorem pauseSeat_tidy (i epoch : Nat) (s : State) (wf : s.tidy) : (pauseSeat i epoch s).tidy := by
  unfold pauseSeat
  dsimp only
  repeat' first
    | with_reducible (first
      | exact wf | apply ite_tidy | apply bump_tidy | apply modSeat_tidy | apply modSide_tidy | apply modPorts_tidy
      | apply tellFollowers_tidy)
    | split
    | exact wf

theorem requestPause_tidy (i : Nat) (why : BitVec 64) (s : State) (wf : s.tidy) : (requestPause i why s).tidy := by
  unfold requestPause; exact modSeat_tidy _ _ _ wf

theorem atOnceSeat_tidy (i : Nat) (s : State) (wf : s.tidy) : (atOnceSeat i s).tidy := by
  unfold atOnceSeat
  dsimp only
  repeat' first
    | with_reducible (first
      | exact wf | apply ite_tidy | apply closeOut_tidy | apply enterDraining_tidy | apply finishDraining_tidy
      | apply pauseSeat_tidy)
    | split
    | exact wf

theorem idleActions_tidy (s : State) (wf : s.tidy) : (idleActions s).tidy := by
  unfold idleActions
  repeat' first
    | with_reducible (first
      | assumption | apply ite_tidy | apply each_tidy | intro _ _ _ | intro _ _ | apply atOnceSeat_tidy)
    | split
    | exact wf

theorem takeSeat_tidy (i : Nat) (s : State) (wf : s.tidy) : (takeSeat i s).tidy := by
  unfold takeSeat
  dsimp only
  repeat' first
    | with_reducible (first
      | exact wf | exact rfl | apply setSeat_tidy | apply setSide_tidy | apply modLed_tidy)
    | exact wf

theorem updHitFrac_tidy (i h : Nat) (s : State) (wf : s.tidy) : (updHitFrac i h s).tidy := by
  unfold updHitFrac
  dsimp only
  repeat' first
    | with_reducible (first
      | exact wf | apply ite_tidy | apply modTenant_tidy)
    | split
    | exact wf

theorem updPool_tidy (n t : Nat) (s : State) (wf : s.tidy) : (updPool n t s).tidy := by
  unfold updPool
  dsimp only
  repeat' first
    | with_reducible (first
      | exact wf | apply ite_tidy)
    | split
    | exact wf

theorem growChain_tidy (i : Nat) (st : BlkState) (n : Nat) (s : State) (h : s.tidy) : (growChain i st n s).2.tidy := by
  induction n generalizing s with
  | zero => exact h
  | succ n ih =>
    simp only [growChain]
    split
    · exact h
    · rename_i b u e
      exact ih _ (appendBlock_tidy _ _ _ (newBlock_tidy e h))

theorem routeLocal_tidy (i : Nat) (s : State) (wf : s.tidy) : (routeLocal i s).tidy := by
  unfold routeLocal
  try dsimp only
  repeat' first
    | with_reducible (first
      | assumption | apply bump_tidy | apply modSeat_tidy)
    | exact wf

theorem sendSplitOpened_tidy (peer : Nat) (reqid : Word) (seat gen self : Nat) (refused : Bool) (hits : Nat) (s : State) (wf : s.tidy) :
    (sendSplitOpened peer reqid seat gen self refused hits s).tidy := by
  unfold sendSplitOpened; exact sendN_tidy _ _ _ _ _ _ _ _ wf

theorem stretchFail_tidy (i : Nat) (s : State) (wf : s.tidy) : (stretchFail i s).tidy := by
  unfold stretchFail
  dsimp only
  repeat' first
    | with_reducible (first
      | exact wf | apply closeSeat_tidy | apply sendSplitOpened_tidy)
    | exact wf

theorem shipSeat_tidy (i : Nat) (s : State) (wf : s.tidy) : (shipSeat i s).tidy := by
  unfold shipSeat
  dsimp only
  repeat' first
    | with_reducible (first
      | assumption | apply ite_tidy | apply each_tidy | intro _ _ _ | intro _ _ | apply setFlag_tidy | apply bump_tidy
      | apply modSeat_tidy | apply modSide_tidy | apply modSess_tidy | apply putBlock_tidy | apply growChain_tidy
      | apply routeLocal_tidy | apply stretchFail_tidy)
    | split
    | exact wf

theorem routeSeat_tidy (i : Nat) (s : State) (wf : s.tidy) : (routeSeat i s).tidy := by
  unfold routeSeat
  dsimp only
  repeat' first
    | with_reducible (first
      | exact wf | apply ite_tidy | apply routeLocal_tidy | apply shipSeat_tidy)
    | split
    | exact wf

theorem shipFail_tidy (i : Nat) (s : State) (wf : s.tidy) : (shipFail i s).tidy := by
  unfold shipFail
  dsimp only
  repeat' first
    | with_reducible (first
      | exact wf | apply ite_tidy | apply setFlag_tidy | apply bump_tidy | apply closeSeat_tidy | apply stretchFail_tidy)
    | split
    | exact wf

theorem sendShip_tidy (i t : Nat) (s : State) (wf : s.tidy) : (sendShip i t s).tidy := by
  unfold sendShip
  dsimp only
  repeat' first
    | with_reducible (first
      | exact wf | apply bump_tidy | apply modSide_tidy | apply modKv_tidy | apply modSess_tidy | apply depart_tidy | apply freePagesOf_tidy)
    | split
    | exact wf

theorem mismatch_tidy (s : State) (wf : s.tidy) : (mismatch s).tidy := by
  unfold mismatch
  repeat' first
    | with_reducible (first
      | exact wf | apply setFlag_tidy | apply bump_tidy)
    | exact wf

theorem stretchOne_tidy (i : Nat) (s : State) (wf : s.tidy) : (stretchOne i s).2.tidy := by
  unfold stretchOne
  dsimp only
  repeat' first
    | with_reducible (first
      | exact wf | apply ite_tidy | apply modSide_tidy | apply stretchFail_tidy | apply mismatch_tidy)
    | split
    | exact wf

theorem stretchStep_tidy (i f : Nat) (s : State) (h : s.tidy) : (stretchStep i f s).tidy := by
  induction f generalizing s with
  | zero => exact h
  | succ f ih =>
    have k := stretchOne_tidy i s h
    simp only [stretchStep]
    split
    · exact k
    · split
      · exact modSeat_tidy _ _ _ k
      · exact ih _ k

theorem raiseShared_tidy (i : Nat) (run : List Nat) (s : State) (wf : s.tidy) : (raiseShared i run s).tidy := by
  unfold raiseShared
  try dsimp only
  repeat' first
    | with_reducible (first
      | assumption | apply ite_tidy | apply each_tidy | apply each2_tidy | intro _ _ _ | intro _ _ | apply modSeat_tidy)
    | split
    | exact wf

theorem linkRun_tidy (l : List Nat) (s : State) (h : s.tidy) : (linkRun l s).tidy := by
  induction l generalizing s with
  | nil => exact h
  | cons a r ih =>
    cases r with
    | nil => exact h
    | cons b r => simp only [linkRun]; exact ih _ (modBlk_tidy _ _ _ h)

theorem fillStretch_tidy (i : Nat) (s : State) (wf : s.tidy) : (fillStretch i s).tidy := by
  unfold fillStretch
  try dsimp only
  repeat' first
    | with_reducible (first
      | assumption | apply ite_tidy | apply each_tidy | apply each2_tidy | intro _ _ _ | intro _ _ | apply setFlag_tidy
      | apply bump_tidy | apply modSeat_tidy | apply modSide_tidy | apply modBlk_tidy | apply growChain_tidy
      | apply stretchFail_tidy | apply shipSeat_tidy)
    | split
    | exact wf

theorem recordLookup_tidy (i : Nat) (run : List Nat) (fetched why : Nat) (s : State) (wf : s.tidy) :
    (recordLookup i run fetched why s).tidy := by
  unfold recordLookup
  dsimp only
  repeat' first
    | with_reducible (first
      | exact wf | apply setReg_tidy | apply bumpN_tidy | apply bump_tidy | apply modSeat_tidy | apply raiseShared_tidy)
    | exact wf

theorem endFollowerLookup_tidy (i : Nat) (run : List Nat) (fetched why : Nat) (s : State) (wf : s.tidy) :
    (endFollowerLookup i run fetched why s).tidy := by
  unfold endFollowerLookup
  dsimp only
  repeat' first
    | with_reducible (first
      | exact wf | apply modSide_tidy | apply setChain_tidy | apply freePagesOf_tidy | apply sendSplitOpened_tidy
      | apply linkRun_tidy | apply fillStretch_tidy | apply recordLookup_tidy)
    | exact wf

theorem endLookup_tidy (i : Nat) (run : List Nat) (fetched why : Nat) (s : State) (wf : s.tidy) :
    (endLookup i run fetched why s).tidy := by
  unfold endLookup
  dsimp only
  repeat' first
    | with_reducible (first
      | exact wf | apply ite_tidy | apply modSeat_tidy | apply modSide_tidy | apply debit_tidy | apply setChain_tidy
      | apply freePagesOf_tidy | apply updHitFrac_tidy | apply routeSeat_tidy | apply linkRun_tidy | apply recordLookup_tidy
      | apply endFollowerLookup_tidy)
    | split
    | exact wf

theorem tryEndLookup_tidy (i : Nat) (s : State) (wf : s.tidy) : (tryEndLookup i s).tidy := by
  unfold tryEndLookup
  try dsimp only
  repeat' first
    | with_reducible (first
      | assumption | apply ite_tidy | apply endLookup_tidy)
    | split
    | exact wf

theorem modLookup_tidy (i : Nat) (f : Lookup → Lookup) (s : State) (wf : s.tidy) : (modLookup i f s).tidy := by
  unfold modLookup; exact modSide_tidy _ _ _ wf

theorem stopScan_tidy (i why : Nat) (s : State) (wf : s.tidy) : (stopScan i why s).tidy := by
  unfold stopScan; exact modLookup_tidy _ _ _ wf

theorem cutRun_tidy (i n why : Nat) (s : State) (wf : s.tidy) : (cutRun i n why s).tidy := by
  unfold cutRun
  dsimp only
  repeat' first
    | with_reducible (first
      | assumption | apply each_tidy | intro _ _ _ | intro _ _ | apply dropRef_tidy | apply modLookup_tidy)
    | split
    | exact wf

theorem issueOne_tidy (i j b : Nat) (s : State) (wf : s.tidy) : (issueOne i j b s).tidy := by
  unfold issueOne
  dsimp only
  repeat' first
    | with_reducible (first
      | exact wf | apply ite_tidy | apply modBlk_tidy | apply fetchHandle_tidy)
    | split
    | exact wf

theorem issueFetches_tidy (i : Nat) (s : State) (wf : s.tidy) : (issueFetches i s).tidy := by
  unfold issueFetches
  try dsimp only
  repeat' first
    | with_reducible (first
      | assumption | apply each_tidy | apply each2_tidy | intro _ _ _ | intro _ _ | apply issueOne_tidy)
    | split
    | exact wf

theorem issueOwed_tidy (i : Nat) (s : State) (wf : s.tidy) : (issueOwed i s).tidy := by
  unfold issueOwed
  dsimp only
  repeat' first
    | with_reducible (first
      | assumption | apply ite_tidy | apply each_tidy | intro _ _ _ | intro _ _ | apply fetchHandle_tidy)
    | split
    | exact wf

theorem fetchStep_tidy (s : State) (wf : s.tidy) : (fetchStep s).tidy := by
  unfold fetchStep
  dsimp only
  repeat' first
    | with_reducible (first
      | assumption | apply each_tidy | intro _ _ _ | intro _ _ | apply issueFetches_tidy | apply issueOwed_tidy)
    | exact wf

theorem linkHit_tidy (i n : Nat) (s : State) (wf : s.tidy) : (linkHit i n s).tidy := by
  unfold linkHit
  dsimp only
  repeat' first
    | with_reducible (first
      | exact wf | apply ite_tidy | apply setFlag_tidy | apply bump_tidy | apply modBlk_tidy | apply setIdx_tidy
      | apply stampIdx_tidy | exact newBlock_tidy (by assumption) (by assumption) | apply modLookup_tidy
      | apply stopScan_tidy)
    | split
    | exact wf

theorem closeScan_tidy (i : Nat) (s : State) (wf : s.tidy) : (closeScan i s).tidy := by
  unfold closeScan
  repeat' first
    | with_reducible (first
      | exact wf | apply ite_tidy | apply stopScan_tidy)
    | split
    | exact wf

theorem hotAdvance_tidy (i f : Nat) (s : State) (h : s.tidy) : (hotAdvance i f s).tidy := by
  induction f generalizing s with
  | zero => exact h
  | succ f ih =>
    unfold hotAdvance
    try dsimp only
    repeat' first
      | with_reducible assumption
      | with_reducible apply ite_tidy
      | with_reducible apply ih
      | with_reducible apply linkHit_tidy
      | with_reducible apply hotTouch_tidy
      | split

theorem advance_tidy (i : Nat) (s : State) (wf : s.tidy) : (advance i s).tidy := by
  unfold advance
  repeat' first
    | with_reducible (first
      | exact wf | apply tryEndLookup_tidy | apply closeScan_tidy | apply hotAdvance_tidy)
    | split
    | exact wf

theorem hashNext_tidy (i : Nat) (s : State) (wf : s.tidy) : (hashNext i s).tidy := by
  unfold hashNext
  dsimp only
  repeat' first
    | with_reducible (first
      | exact wf | apply ite_tidy | apply modLookup_tidy | apply advance_tidy)
    | split
    | exact wf

theorem probeDone_tidy (i : Nat) (s : State) (wf : s.tidy) : (probeDone i s).tidy := by
  unfold probeDone
  repeat' first
    | with_reducible (first
      | exact wf | apply ite_tidy | apply hotTouch_tidy | apply stopScan_tidy | apply linkHit_tidy | apply advance_tidy)
    | split
    | exact wf

theorem verifyOne_tidy (i k : Nat) (s : State) (wf : s.tidy) : (verifyOne i k s).tidy := by
  unfold verifyOne
  try dsimp only
  repeat' first
    | with_reducible (first
      | assumption | apply ite_tidy | apply mismatch_tidy | apply modLookup_tidy | apply cutRun_tidy)
    | split
    | exact wf

theorem verifyArrived_tidy (i f : Nat) (s : State) (h : s.tidy) : (verifyArrived i f s).tidy := by
  induction f generalizing s with
  | zero => exact h
  | succ f ih =>
    unfold verifyArrived
    try dsimp only
    repeat' first
      | with_reducible assumption
      | with_reducible apply ite_tidy
      | with_reducible apply ih
      | with_reducible apply verifyOne_tidy
      | split

theorem afterVerify_tidy (i : Nat) (s : State) (wf : s.tidy) : (afterVerify i s).tidy := by
  unfold afterVerify
  repeat' first
    | with_reducible (first
      | exact wf | apply tryEndLookup_tidy | apply verifyArrived_tidy)
    | split
    | exact wf

theorem residentVerified_tidy (i : Nat) (s : State) (wf : s.tidy) : (residentVerified i s).tidy := by
  unfold residentVerified
  repeat' first
    | with_reducible (first
      | exact wf | apply ite_tidy | apply verifyOne_tidy | apply afterVerify_tidy)
    | split
    | exact wf

theorem fetchFailed_tidy (b : Nat) (s : State) (wf : s.tidy) : (fetchFailed b s).tidy := by
  unfold fetchFailed
  dsimp only
  repeat' first
    | with_reducible (first
      | assumption | apply each_tidy | intro _ _ _ | intro _ _ | apply setFlag_tidy | apply bump_tidy | apply modBlk_tidy
      | apply clearLocal_tidy | apply cutRun_tidy | apply afterVerify_tidy)
    | split
    | exact wf

theorem traceFetchWait_tidy (b since i : Nat) (s : State) (wf : s.tidy) : (traceFetchWait b since i s).tidy := by
  unfold traceFetchWait
  try dsimp only
  repeat' first
    | with_reducible (first
      | assumption | apply traceWait_tidy)
    | split
    | exact wf

theorem fetchArrived_tidy (b since : Nat) (c : BlockTag) (s : State) (wf : s.tidy) : (fetchArrived b since c s).tidy := by
  unfold fetchArrived
  dsimp only
  repeat' first
    | with_reducible (first
      | assumption | apply each_tidy | intro _ _ _ | intro _ _ | apply bump_tidy | apply modBlk_tidy | apply afterVerify_tidy
      | apply traceFetchWait_tidy)
    | exact wf

theorem beginLookup_tidy (i : Nat) (s : State) (wf : s.tidy) : (beginLookup i s).tidy := by
  unfold beginLookup
  dsimp only
  repeat' first
    | with_reducible (first
      | exact wf | apply ite_tidy | apply dropRun_tidy | apply endLookup_tidy | apply advance_tidy)
    | split
    | exact wf

theorem startLookup_tidy (i : Nat) (s : State) (wf : s.tidy) : (startLookup i s).tidy := by
  unfold startLookup; exact modSide_tidy _ _ _ wf

theorem badPrompt_tidy (i : Nat) (s : State) (wf : s.tidy) : (badPrompt i s).tidy := by
  unfold badPrompt; exact closeSeat_tidy _ _ _ wf

theorem storeToks_tidy (i : Nat) (l : List (BitVec 20)) (s : State) (wf : s.tidy) : (storeToks i l s).tidy := by
  unfold storeToks; exact modSide_tidy _ _ _ wf

end Sys2Proof.Machine
end

