-- ==== Sys2Proof/Laws/TidyUnits.lean ====
section
/-! SUPPORT. Each shared operation keeps the indexed stores in their canonical form (`State.tidy`). The sequencer, admission, the steward, the Sieve and split seats. -/
namespace Sys2Proof.Machine

theorem modDesc_tidy (m v o : Nat) (f : Desc → Desc) (s : State) (wf : s.tidy) : (modDesc m v o f s).tidy := wf

theorem setReady_tidy (s : State) (wf : s.tidy) : (setReady s).tidy := wf

theorem admissionOpens_tidy (s : State) (wf : s.tidy) : (admissionOpens s).tidy := by
  unfold admissionOpens
  try dsimp only
  repeat' first
    | with_reducible (first
      | assumption | apply ite_tidy | apply setFld_tidy | apply modPwr_tidy)
    | split
    | exact wf

theorem objFetchSend_tidy (f : Fetch) (s : State) (wf : s.tidy) : (objFetchSend f s).tidy := by
  unfold objFetchSend
  dsimp only
  repeat' first
    | with_reducible (first
      | exact wf | apply ite_tidy | apply sendMsg_tidy | apply newTag_tidy)
    | split
    | exact wf

theorem failSeat_tidy (i reason : Nat) (s : State) (wf : s.tidy) : (failSeat i reason s).tidy := by
  unfold failSeat
  dsimp only
  repeat' first
    | with_reducible (first
      | exact wf | apply ite_tidy | apply modSide_tidy | apply closeSeat_tidy)
    | split
    | exact wf

theorem closeUsers_tidy (m v : Nat) (s : State) (wf : s.tidy) : (closeUsers m v s).tidy := by
  unfold closeUsers
  try dsimp only
  repeat' first
    | with_reducible (first
      | assumption | apply each_tidy | apply each2_tidy | intro _ _ _ | intro _ _ | apply failSeat_tidy)
    | exact wf

theorem poison_tidy (m v o : Nat) (s : State) (wf : s.tidy) : (poison m v o s).tidy := by
  unfold poison
  dsimp only
  repeat' first
    | with_reducible (first
      | exact wf | apply setReg_tidy | apply setFlag_tidy | apply bump_tidy | apply modModel_tidy | apply modDesc_tidy
      | apply closeUsers_tidy)
    | exact wf

theorem objError_tidy (f : Fetch) (s : State) (h : s.tidy) : (objError f s).1.tidy := by
  unfold objError
  split
  · exact objFetchSend_tidy _ _ h
  · exact poison_tidy _ _ _ _ h

theorem countRead_tidy (d : Desc) (s : State) (wf : s.tidy) : (countRead d s).tidy := by
  unfold countRead; exact bumpN_tidy _ _ _ wf

theorem hotEvict_tidy (k : Nat) (s : State) (wf : s.tidy) : (hotEvict k s).tidy := by
  unfold hotEvict
  try dsimp only
  repeat' first
    | with_reducible (first
      | assumption | apply bump_tidy | apply modModel_tidy)
    | exact wf

theorem hotStart_tidy (m v : Nat) (s : State) (wf : s.tidy) : (hotStart m v s).tidy := by
  unfold hotStart
  dsimp only
  repeat' first
    | with_reducible (first
      | assumption | apply ite_tidy | apply each_tidy | intro _ _ _ | intro _ _ | apply bump_tidy | apply modSeq_tidy
      | apply modModel_tidy | apply hotEvict_tidy)
    | split
    | exact wf

theorem hotRetry_tidy (s : State) (wf : s.tidy) : (hotRetry s).tidy := by
  unfold hotRetry
  try dsimp only
  repeat' first
    | with_reducible (first
      | assumption | apply each_tidy | apply each2_tidy | intro _ _ _ | intro _ _ | apply hotStart_tidy)
    | exact wf

theorem chipStart_tidy (m v epoch : Nat) (s : State) (wf : s.tidy) : (chipStart m v epoch s).tidy := by
  unfold chipStart
  dsimp only
  repeat' first
    | with_reducible (first
      | exact wf | apply ite_tidy | apply bump_tidy | apply modSeq_tidy | apply modModel_tidy)
    | split
    | exact wf

theorem chipFor_tidy (m v epoch : Nat) (s : State) (wf : s.tidy) : (chipFor m v epoch s).tidy := by
  unfold chipFor
  dsimp only
  repeat' first
    | with_reducible (first
      | exact wf | apply ite_tidy | apply modSeq_tidy | apply chipStart_tidy)
    | split
    | exact wf

theorem chipAtComplete_tidy (s : State) (wf : s.tidy) : (chipAtComplete s).tidy := by
  unfold chipAtComplete
  try dsimp only
  repeat' first
    | with_reducible (first
      | assumption | apply ite_tidy | apply modSeq_tidy | apply chipStart_tidy)
    | split
    | exact wf

theorem stageFor_tidy (m v epoch : Nat) (s : State) (wf : s.tidy) : (stageFor m v epoch s).tidy := by
  unfold stageFor
  dsimp only
  repeat' first
    | with_reducible (first
      | exact wf | apply ite_tidy | apply modSeq_tidy)
    | split
    | exact wf

theorem ringFree_tidy (epoch layer : Nat) (s : State) (wf : s.tidy) : (ringFree epoch layer s).tidy := wf

theorem ringDone_tidy (epoch : Nat) (s : State) (wf : s.tidy) : (ringDone epoch s).tidy := wf

theorem endHold_tidy (cut : Bool) (s : State) (wf : s.tidy) : (endHold cut s).tidy := by
  unfold endHold
  dsimp only
  repeat' first
    | with_reducible (first
      | exact wf | apply ite_tidy | apply bumpN_tidy | apply bump_tidy | apply modDeals_tidy | apply trace_tidy)
    | split
    | exact wf

theorem holdStep_tidy (s : State) (wf : s.tidy) : (holdStep s).tidy := by
  unfold holdStep
  try dsimp only
  repeat' first
    | with_reducible (first
      | assumption | apply ite_tidy | apply modDeals_tidy | apply endHold_tidy)
    | split
    | exact wf

theorem finishLoads_tidy (m v dst : Nat) (s : State) (wf : s.tidy) : (finishLoads m v dst s).tidy := by
  unfold finishLoads
  try dsimp only
  repeat' first
    | with_reducible (first
      | assumption | apply ite_tidy | apply setFld_tidy | apply modSeq_tidy | apply modModel_tidy | apply hotRetry_tidy)
    | split
    | exact wf

theorem objPlaced_tidy (f : Fetch) (s : State) (wf : s.tidy) : (objPlaced f s).tidy := by
  unfold objPlaced
  dsimp only
  repeat' first
    | with_reducible (first
      | exact wf | apply ite_tidy | apply modSeq_tidy | apply finishLoads_tidy)
    | split
    | exact wf

theorem issueNext_tidy (s : State) (wf : s.tidy) : (issueNext s).tidy := by
  unfold issueNext
  dsimp only
  repeat' first
    | with_reducible (first
      | exact wf | apply ite_tidy | apply setFlag_tidy | apply bump_tidy | apply modSeq_tidy | apply trace_tidy
      | apply sendMsg_tidy | apply objFetchSend_tidy | apply poison_tidy)
    | split
    | exact wf

theorem tdoneTaken_tidy (tag status : Nat) (s : State) (wf : s.tidy) : (tdoneTaken tag status s).tidy := by
  unfold tdoneTaken
  dsimp only
  repeat' first
    | with_reducible (first
      | exact wf | apply ite_tidy | apply modSeq_tidy | apply objError_tidy | apply countRead_tidy | apply finishLoads_tidy
      | apply objPlaced_tidy)
    | split
    | exact wf

theorem terrOne_tidy (x : Nat × Nat × Nat) (s : State) (wf : s.tidy) : (terrOne x s).tidy := by
  unfold terrOne
  dsimp only
  repeat' first
    | with_reducible (first
      | exact wf | apply ite_tidy | apply closeUsers_tidy | apply objError_tidy)
    | split
    | exact wf

theorem tiersChange_tidy (flashUp hbmUp : Bool) (s : State) (wf : s.tidy) : (tiersChange flashUp hbmUp s).tidy := by
  unfold tiersChange
  dsimp only
  repeat' first
    | with_reducible (first
      | exact wf | apply ite_tidy | apply setFlag_tidy | apply bump_tidy | apply modSeq_tidy | apply setReady_tidy
      | apply admissionOpens_tidy)
    | split
    | exact wf

theorem repairDone_tidy (m v o dst epoch : Nat) (ok : Bool) (s : State) (wf : s.tidy) :
    (repairDone m v o dst epoch ok s).tidy := by
  unfold repairDone
  dsimp only
  repeat' first
    | with_reducible (first
      | exact wf | apply ite_tidy | apply setFlag_tidy | apply bump_tidy | apply modDesc_tidy | apply poison_tidy
      | apply finishLoads_tidy | apply objPlaced_tidy)
    | split
    | exact wf

theorem objDataTaken_tidy (tag : Nat) (ok : Bool) (s : State) (wf : s.tidy) : (objDataTaken tag ok s).tidy := by
  unfold objDataTaken
  repeat' first
    | with_reducible (first
      | exact wf | apply endTag_tidy | apply repairDone_tidy)
    | split
    | exact wf

theorem objDataIn_tidy (tag : Nat) (ok : Bool) (s : State) (wf : s.tidy) : (objDataIn tag ok s).tidy := by
  unfold objDataIn
  repeat' first
    | with_reducible (first
      | exact wf | apply drain_tidy | apply idleActions_tidy | apply holdStep_tidy | apply objDataTaken_tidy)
    | exact wf

theorem objFetchTaken_tidy (peer tag : Nat) (handle : Word) (s : State) (wf : s.tidy) :
    (objFetchTaken peer tag handle s).tidy := by
  unfold objFetchTaken
  dsimp only
  repeat' first
    | with_reducible (first
      | exact wf | apply ite_tidy | apply sendN_tidy)
    | split
    | exact wf

theorem modResult_tidy (r : Nat) (s : State) (wf : s.tidy) : (modResult r s).tidy := by
  unfold modResult; exact setFld_tidy _ _ _ wf

theorem putDescs_tidy (n : Nat) (l : List Desc) (s : State) (h : s.tidy) : (putDescs n l s).tidy := by
  induction l generalizing n s with
  | nil => simpa only [putDescs] using h
  | cons a r ih =>
    unfold putDescs
    try dsimp only
    repeat' first
      | with_reducible assumption
      | with_reducible apply ite_tidy
      | with_reducible apply ih
      | with_reducible apply modSeq_tidy
      | split

theorem modRegisterStart_tidy (f : ModelFields) (ds : List Desc) (s : State) (wf : s.tidy) :
    (modRegisterStart f ds s).tidy := by
  unfold modRegisterStart
  dsimp only
  repeat' first
    | with_reducible (first
      | exact wf | apply ite_tidy | apply modSeq_tidy | apply modModel_tidy | apply modResult_tidy | apply putDescs_tidy)
    | split
    | exact wf

theorem uncurrentModel_tidy (m v : Nat) (s : State) (wf : s.tidy) : (uncurrentModel m v s).tidy := by
  unfold uncurrentModel
  try dsimp only
  repeat' first
    | with_reducible (first
      | assumption | apply modModel_tidy | apply retireModel_tidy)
    | exact wf

theorem modRegisterEnd_tidy (s : State) (wf : s.tidy) : (modRegisterEnd s).tidy := by
  unfold modRegisterEnd
  dsimp only
  repeat' first
    | with_reducible (first
      | exact wf | apply ite_tidy | apply bump_tidy | apply modSeq_tidy | apply modModel_tidy | apply admissionOpens_tidy
      | apply modResult_tidy | apply uncurrentModel_tidy)
    | split
    | exact wf

theorem modWithdraw_tidy (s : State) (wf : s.tidy) : (modWithdraw s).tidy := by
  unfold modWithdraw
  repeat' first
    | with_reducible (first
      | exact wf | apply modResult_tidy | apply uncurrentModel_tidy)
    | split
    | exact wf

theorem modReobj_tidy (fix : Option Desc) (s : State) (wf : s.tidy) : (modReobj fix s).tidy := by
  unfold modReobj
  dsimp only
  repeat' first
    | with_reducible (first
      | exact wf | apply ite_tidy | apply modModel_tidy | apply modDesc_tidy | apply admissionOpens_tidy
      | apply modResult_tidy)
    | split
    | exact wf

theorem modPop_tidy (s : State) (wf : s.tidy) : (modPop s).tidy := by
  unfold modPop
  try dsimp only
  repeat' first
    | with_reducible (first
      | assumption | apply modSeq_tidy | apply modModel_tidy)
    | split
    | exact wf

theorem putImage_tidy (i : Nat) (s : State) (wf : s.tidy) : (putImage i s).tidy := by
  unfold putImage
  dsimp only
  repeat' first
    | with_reducible (first
      | exact wf | apply sendMsg_tidy | apply newTag_tidy)
    | split
    | exact wf

theorem spillStep_tidy (i : Nat) (s : State) (wf : s.tidy) : (spillStep i s).tidy := by
  unfold spillStep
  repeat' first
    | with_reducible (first
      | exact wf | apply ite_tidy | apply putImage_tidy)
    | split
    | exact wf

theorem spillFail_tidy (i : Nat) (s : State) (wf : s.tidy) : (spillFail i s).tidy := by
  unfold spillFail
  try dsimp only
  repeat' first
    | with_reducible (first
      | assumption | apply setFlag_tidy | apply bump_tidy | apply modSide_tidy)
    | exact wf

theorem orderSpill_tidy (i : Nat) (s : State) (wf : s.tidy) : (orderSpill i s).tidy := by
  unfold orderSpill
  try dsimp only
  repeat' first
    | with_reducible (first
      | assumption | apply ite_tidy | apply each_tidy | apply each2_tidy | intro _ _ _ | intro _ _ | apply modSide_tidy
      | apply modBlk_tidy | apply cutChain_tidy | apply putBlock_tidy | apply spillStep_tidy | apply spillFail_tidy)
    | split
    | exact wf

theorem spillOne_tidy (epoch i : Nat) (s : State) (wf : s.tidy) : (spillOne epoch i s).tidy := by
  unfold spillOne
  dsimp only
  repeat' first
    | with_reducible (first
      | exact wf | apply ite_tidy | apply orderSpill_tidy)
    | split
    | exact wf

theorem spillOrders_tidy (epoch : Nat) (s : State) (wf : s.tidy) : (spillOrders epoch s).tidy := by
  unfold spillOrders
  repeat' first
    | with_reducible (first
      | assumption | apply each_tidy | intro _ _ _ | intro _ _ | apply spillOne_tidy)
    | exact wf

theorem lowStep_tidy (s : State) (wf : s.tidy) : (lowStep s).tidy := by
  unfold lowStep
  dsimp only
  repeat' first
    | with_reducible (first
      | exact wf | apply ite_tidy | apply modKv_tidy | apply spillOrders_tidy)
    | split
    | exact wf

theorem backDone_tidy (i : Nat) (s : State) (wf : s.tidy) : (backDone i s).tidy := by
  unfold backDone
  dsimp only
  repeat' first
    | with_reducible (first
      | exact wf | apply bump_tidy | apply modSeat_tidy | apply modSide_tidy | apply dropImage_tidy)
    | exact wf

theorem tryBackDone_tidy (i : Nat) (s : State) (wf : s.tidy) : (tryBackDone i s).tidy := by
  unfold tryBackDone
  repeat' first
    | with_reducible (first
      | exact wf | apply ite_tidy | apply backDone_tidy)
    | split
    | exact wf

theorem backBlock_tidy (i : Nat) (e : ImgBlock) (p : Bool × State) (wf : p.2.tidy) : (backBlock i e p).2.tidy := by
  unfold backBlock
  dsimp only
  repeat' first
    | with_reducible (first
      | exact wf | apply ite_tidy | apply modSide_tidy | apply modBlk_tidy | apply appendBlock_tidy
      | exact newBlock_tidy (by assumption) (by assumption))
    | split
    | exact wf

theorem startBack_tidy (i : Nat) (m : Image) (s : State) (wf : s.tidy) : (startBack i m s).tidy := by
  unfold startBack
  try dsimp only
  repeat' first
    | with_reducible (first
      | assumption | apply ite_tidy | apply each_tidy | apply each2_tidy | intro _ _ _ | intro _ _ | apply setFlag_tidy
      | apply bump_tidy | apply modSide_tidy | apply closeSeat_tidy | apply tryBackDone_tidy | apply backBlock_tidy)
    | split
    | exact wf

theorem orderBack_tidy (i : Nat) (s : State) (wf : s.tidy) : (orderBack i s).tidy := by
  unfold orderBack
  dsimp only
  repeat' first
    | with_reducible (first
      | exact wf | apply ite_tidy | apply setFlag_tidy | apply bump_tidy | apply modSide_tidy | apply fetchHandle_tidy
      | apply closeSeat_tidy | apply startBack_tidy)
    | split
    | exact wf

theorem resumeSeat_tidy (i : Nat) (s : State) (wf : s.tidy) : (resumeSeat i s).tidy := by
  unfold resumeSeat
  dsimp only
  repeat' first
    | with_reducible (first
      | exact wf | apply bump_tidy | apply modSeat_tidy | apply modSide_tidy | apply tellFollowers_tidy
      | apply orderBack_tidy)
    | split
    | exact wf

theorem clearPause_tidy (i : Nat) (why : BitVec 64) (s : State) (wf : s.tidy) : (clearPause i why s).tidy := by
  unfold clearPause
  dsimp only
  repeat' first
    | with_reducible (first
      | exact wf | apply ite_tidy | apply modSeat_tidy | apply resumeSeat_tidy)
    | split
    | exact wf

theorem ackBlock_tidy (b handle : Nat) (s : State) (wf : s.tidy) : (ackBlock b handle s).tidy := by
  unfold ackBlock
  dsimp only
  repeat' first
    | with_reducible (first
      | exact wf | apply ite_tidy | apply modBlk_tidy | apply setIdx_tidy)
    | split
    | exact wf

theorem declineBlock_tidy (b : Nat) (s : State) (wf : s.tidy) : (declineBlock b s).tidy := by
  unfold declineBlock
  dsimp only
  repeat' first
    | with_reducible (first
      | exact wf | apply ite_tidy | apply modBlk_tidy)
    | split
    | exact wf

theorem spillAck_tidy (i b handle : Nat) (s : State) (wf : s.tidy) : (spillAck i b handle s).tidy := by
  unfold spillAck
  dsimp only
  repeat' first
    | with_reducible (first
      | exact wf | apply modSide_tidy | apply spillStep_tidy)
    | split
    | exact wf

theorem spillDone_tidy (i handle : Nat) (s : State) (wf : s.tidy) : (spillDone i handle s).tidy := by
  unfold spillDone
  dsimp only
  repeat' first
    | with_reducible (first
      | exact wf | apply ite_tidy | apply bump_tidy | apply modSeat_tidy | apply modSide_tidy | apply sendFor_tidy
      | apply dropChain_tidy | apply resumeSeat_tidy)
    | split
    | exact wf

theorem putAgain_tidy (b : Nat) (s : State) (wf : s.tidy) : (putAgain b s).tidy := by
  unfold putAgain
  repeat' first
    | with_reducible (first
      | exact wf | apply putBlock_tidy)
    | split
    | exact wf

theorem putAnswered_tidy (tag : Nat) (handle : Option Nat) (s : State) (wf : s.tidy) : (putAnswered tag handle s).tidy := by
  unfold putAnswered
  dsimp only
  repeat' first
    | with_reducible (first
      | assumption | apply ite_tidy | apply each_tidy | intro _ _ _ | intro _ _ | apply endTag_tidy | apply dropImage_tidy
      | apply shipFail_tidy | apply spillFail_tidy | apply ackBlock_tidy | apply declineBlock_tidy | apply spillAck_tidy
      | apply spillDone_tidy | apply putAgain_tidy)
    | split
    | exact wf

theorem backArrived_tidy (i g b : Nat) (c : BlockTag) (s : State) (wf : s.tidy) : (backArrived i g b c s).tidy := by
  unfold backArrived
  dsimp only
  repeat' first
    | with_reducible (first
      | exact wf | apply ite_tidy | apply bump_tidy | apply modSide_tidy | apply modBlk_tidy | apply closeSeat_tidy
      | apply mismatch_tidy | apply tryBackDone_tidy)
    | split
    | exact wf

theorem backFailed_tidy (i g : Nat) (b : Option Nat) (s : State) (wf : s.tidy) : (backFailed i g b s).tidy := by
  unfold backFailed
  dsimp only
  repeat' first
    | with_reducible (first
      | exact wf | apply ite_tidy | apply setFlag_tidy | apply bump_tidy | apply modBlk_tidy | apply closeSeat_tidy)
    | split
    | exact wf

theorem refuse_tidy (i code : Nat) (s : State) (wf : s.tidy) : (refuse i code s).tidy := by
  unfold refuse
  dsimp only
  repeat' first
    | with_reducible (first
      | exact wf | apply bump_tidy | apply modSide_tidy | apply sendFor_tidy)
    | exact wf

theorem pinCurrent_tidy (i : Nat) (s : State) (wf : s.tidy) : (pinCurrent i s).tidy := by
  unfold pinCurrent; exact modSeat_tidy _ _ _ wf

theorem pinByVersion_tidy (i : Nat) (s : State) (wf : s.tidy) : (pinByVersion i s).tidy := by
  unfold pinByVersion; exact modSeat_tidy _ _ _ wf

theorem admitFields_tidy (i : Nat) (rseed : BitVec 32) (s : State) (wf : s.tidy) : (admitFields i rseed s).tidy := by
  unfold admitFields; exact modSeat_tidy _ _ _ wf

theorem sendAdmit_tidy (i : Nat) (s : State) (wf : s.tidy) : (sendAdmit i s).tidy := by
  unfold sendAdmit
  dsimp only
  repeat' first
    | with_reducible (first
      | exact wf | apply ite_tidy | apply bump_tidy | apply sendFor_tidy)
    | split
    | exact wf

theorem commitAdmit_tidy (i : Nat) (s : State) (wf : s.tidy) : (commitAdmit i s).tidy := by
  unfold commitAdmit
  dsimp only
  repeat' first
    | with_reducible (first
      | exact wf | apply modSide_tidy | apply modTenant_tidy | apply modCls_tidy | apply takePins_tidy
      | apply formContext_tidy | apply sendAdmit_tidy)
    | exact wf

theorem sendSplitOpen_tidy (i : Nat) (ms : List Member) (self : Nat) (p : Bool × State) (wf : p.2.tidy) :
    (sendSplitOpen i ms self p).2.tidy := by
  unfold sendSplitOpen
  dsimp only
  repeat' first
    | with_reducible (first
      | exact wf | apply modKv_tidy | apply sendN_tidy)
    | split
    | exact wf

theorem openSplit_tidy (i : Nat) (s : State) (wf : s.tidy) : (openSplit i s).tidy := by
  unfold openSplit
  try dsimp only
  repeat' first
    | with_reducible (first
      | assumption | apply ite_tidy | apply each_tidy | apply each2_tidy | intro _ _ _ | intro _ _ | apply modSeat_tidy
      | apply modSide_tidy | apply modDeals_tidy | apply closeSeat_tidy | apply sendSplitOpen_tidy)
    | split
    | exact wf

theorem endSplitLookup_tidy (i : Nat) (s : State) (wf : s.tidy) : (endSplitLookup i s).tidy := by
  unfold endSplitLookup
  dsimp only
  repeat' first
    | with_reducible (first
      | exact wf | apply ite_tidy | apply modSide_tidy | apply debit_tidy | apply updHitFrac_tidy | apply routeLocal_tidy
      | apply shipSeat_tidy)
    | split
    | exact wf

theorem afterAdmit_tidy (i : Nat) (s : State) (wf : s.tidy) : (afterAdmit i s).tidy := by
  unfold afterAdmit
  dsimp only
  repeat' first
    | with_reducible (first
      | exact wf | apply ite_tidy | apply bump_tidy | apply takeFree_tidy | apply modSeat_tidy | apply closeSeat_tidy
      | apply beginLookup_tidy | apply resumeSeat_tidy | apply openSplit_tidy)
    | split
    | exact wf

theorem decideOpen_tidy (i nstop : Nat) (rseed : BitVec 32) (s : State) (wf : s.tidy) :
    (decideOpen i nstop rseed s).tidy := by
  unfold decideOpen
  dsimp only
  repeat' first
    | with_reducible (first
      | exact wf | apply ite_tidy | apply modSeat_tidy | apply debit_tidy | apply returnOpenCredit_tidy | apply refuse_tidy
      | apply pinCurrent_tidy | apply pinByVersion_tidy | apply admitFields_tidy | apply commitAdmit_tidy
      | apply afterAdmit_tidy)
    | split
    | exact wf

theorem imageLost_tidy (i : Nat) (s : State) (wf : s.tidy) : (imageLost i s).tidy := by
  unfold imageLost
  dsimp only
  repeat' first
    | with_reducible (first
      | exact wf | apply modPorts_tidy | apply returnOpenCredit_tidy | apply refuse_tidy)
    | exact wf

theorem awaitImage_tidy (i : Nat) (s : State) (wf : s.tidy) : (awaitImage i s).tidy := by
  unfold awaitImage
  dsimp only
  repeat' first
    | with_reducible (first
      | exact wf | apply ite_tidy | apply modSide_tidy | apply returnOpenCredit_tidy | apply sendFor_tidy | apply newTag_tidy
      | apply refuse_tidy | apply imageLost_tidy)
    | split
    | exact wf

theorem imageArrived_tidy (i : Nat) (m : Image) (s : State) (wf : s.tidy) : (imageArrived i m s).tidy := by
  unfold imageArrived
  dsimp only
  repeat' first
    | with_reducible (first
      | exact wf | apply ite_tidy | apply modSeat_tidy | apply modSide_tidy | apply refuse_tidy | apply decideOpen_tidy)
    | split
    | exact wf

theorem takeOpen_tidy (i : Nat) (m : OpenMsg) (s : State) (wf : s.tidy) : (takeOpen i m s).tidy := by
  unfold takeOpen
  dsimp only
  repeat' first
    | with_reducible (first
      | exact wf | apply ite_tidy | apply modSeat_tidy | apply modSide_tidy | apply takeSeat_tidy | apply startLookup_tidy)
    | split
    | exact wf

theorem refuseBare_tidy (m : OpenMsg) (code : Nat) (s : State) (wf : s.tidy) : (refuseBare m code s).tidy := by
  unfold refuseBare
  dsimp only
  repeat' first
    | with_reducible (first
      | exact wf | apply ite_tidy | apply bump_tidy | apply returnOpenCredit_tidy | apply sendMsg_tidy)
    | split
    | exact wf

theorem openTaken_tidy (m : OpenMsg) (s : State) (wf : s.tidy) : (openTaken m s).tidy := by
  unfold openTaken
  dsimp only
  repeat' first
    | with_reducible (first
      | exact wf | apply ite_tidy | apply bump_tidy | apply freeSeat_tidy | apply takeSeat_tidy | apply decideOpen_tidy
      | apply awaitImage_tidy | apply takeOpen_tidy | apply refuseBare_tidy)
    | split
    | exact wf

theorem badLen_tidy (p : Port) (peer cls : Nat) (s : State) (wf : s.tidy) : (badLen p peer cls s).tidy := by
  unfold badLen
  dsimp only
  repeat' first
    | with_reducible (first
      | exact wf | apply ite_tidy | apply setFlag_tidy | apply bump_tidy | apply returnCredit_tidy
      | apply returnOpenCredit_tidy)
    | split
    | exact wf

theorem forwardPrompt_tidy (i : Nat) (m : PromptMsg) (s : State) (wf : s.tidy) : (forwardPrompt i m s).tidy := by
  unfold forwardPrompt
  dsimp only
  repeat' first
    | with_reducible (first
      | assumption | apply ite_tidy | apply each_tidy | intro _ _ _ | intro _ _ | apply sendN_tidy)
    | split
    | exact wf

theorem promptTokens_tidy (i : Nat) (m : PromptMsg) (s : State) (wf : s.tidy) : (promptTokens i m s).tidy := by
  unfold promptTokens
  dsimp only
  repeat' first
    | with_reducible (first
      | exact wf | apply ite_tidy | apply stretchStep_tidy | apply storeToks_tidy | apply forwardPrompt_tidy)
    | split
    | exact wf

theorem promptTaken_tidy (p : Port) (peer : Nat) (m : PromptMsg) (s : State) (wf : s.tidy) :
    (promptTaken p peer m s).tidy := by
  unfold promptTaken
  dsimp only
  repeat' first
    | with_reducible (first
      | exact wf | apply ite_tidy | apply setFlag_tidy | apply bump_tidy | apply modKv_tidy | apply returnCredit_tidy
      | apply badPrompt_tidy | apply promptTokens_tidy)
    | split
    | exact wf

theorem retryHeld_tidy (f : Nat) (s : State) (h : s.tidy) : (retryHeld f s).tidy := by
  induction f generalizing s with
  | zero => exact h
  | succ f ih =>
    unfold retryHeld
    try dsimp only
    repeat' first
      | with_reducible assumption
      | with_reducible apply ite_tidy
      | with_reducible apply ih
      | with_reducible apply promptTaken_tidy
      | with_reducible apply modKv_tidy
      | split

theorem finish_tidy (s : State) (wf : s.tidy) : (finish s).tidy := by
  unfold finish
  repeat' first
    | with_reducible (first
      | exact wf | apply drain_tidy | apply idleActions_tidy | apply fetchStep_tidy | apply hotRetry_tidy
      | apply holdStep_tidy | apply lowStep_tidy | apply retryHeld_tidy)
    | exact wf

theorem promptGo_tidy (p : Port) (peer : Nat) (m : PromptMsg) (s : State) (wf : s.tidy) : (promptGo p peer m s).tidy := by
  unfold promptGo
  try dsimp only
  repeat' first
    | with_reducible (first
      | assumption | apply ite_tidy | apply setFlag_tidy | apply bump_tidy | apply modKv_tidy | apply badLen_tidy
      | apply promptTaken_tidy | apply finish_tidy)
    | split
    | exact wf

theorem handlePrompt_tidy (p : Port) (peer : Nat) (m : PromptMsg) (s : State) (h : s.tidy) : (handlePrompt p peer m s).tidy := by
  have k := arrive_tidy p peer (if p = .N then 0 else 1) 0x11 m.reqid 0 s h
  unfold handlePrompt
  split <;> rename_i e <;> rw [e] at k
  · exact k
  · exact promptGo_tidy _ _ _ _ k

theorem cancelQueued_tidy (i : Nat) (s : State) (wf : s.tidy) : (cancelQueued i s).tidy := by
  unfold cancelQueued
  dsimp only
  repeat' first
    | with_reducible (first
      | exact wf | apply ite_tidy | apply modSeat_tidy | apply modPorts_tidy)
    | split
    | exact wf

theorem cancelSeat_tidy (i : Nat) (s : State) (wf : s.tidy) : (cancelSeat i s).tidy := by
  unfold cancelSeat
  dsimp only
  repeat' first
    | with_reducible (first
      | exact wf | apply ite_tidy | apply bump_tidy | apply modSeat_tidy | apply closeSeat_tidy | apply atOnceSeat_tidy
      | apply cancelQueued_tidy)
    | split
    | exact wf

theorem cancelTaken_tidy (reqid : Word) (s : State) (wf : s.tidy) : (cancelTaken reqid s).tidy := by
  unfold cancelTaken
  dsimp only
  repeat' first
    | with_reducible (first
      | exact wf | apply bump_tidy | apply finish_tidy | apply cancelSeat_tidy)
    | split
    | exact wf

theorem cancelGo_tidy (reqid : Word) (s : State) (wf : s.tidy) : (cancelGo reqid s).tidy := by
  unfold cancelGo
  repeat' first
    | with_reducible (first
      | exact wf | apply returnCredit_tidy | apply cancelTaken_tidy)
    | exact wf

theorem handleCancel_tidy (r : Word) (s : State) (h : s.tidy) : (handleCancel r s).tidy := by
  have k := arrive_tidy .G 0 2 0x16 r 0 s h
  unfold handleCancel
  split <;> rename_i e <;> rw [e] at k
  · exact k
  · exact cancelGo_tidy _ _ k

theorem splitOpenTaken_tidy (peer : Nat) (m : SplitOpenMsg) (s : State) (wf : s.tidy) : (splitOpenTaken peer m s).tidy := by
  unfold splitOpenTaken
  dsimp only
  repeat' first
    | with_reducible (first
      | exact wf | apply ite_tidy | apply modSeat_tidy | apply modSide_tidy | apply modDeals_tidy | apply takePins_tidy
      | apply freeSeat_tidy | apply formContext_tidy | apply takeSeat_tidy | apply sendSplitOpened_tidy
      | apply fillStretch_tidy | apply beginLookup_tidy | apply startLookup_tidy | apply pinByVersion_tidy)
    | split
    | exact wf

theorem shipComplete_tidy (i : Nat) (s : State) (wf : s.tidy) : (shipComplete i s).tidy := by
  unfold shipComplete
  dsimp only
  repeat' first
    | with_reducible (first
      | exact wf | apply ite_tidy | apply modSeat_tidy | apply modSide_tidy | apply updPool_tidy)
    | split
    | exact wf

theorem prefillKvIn_tidy (i gen block tag : Nat) (c : BlockTag) (s : State) (wf : s.tidy) :
    (prefillKvIn i gen block tag c s).tidy := by
  unfold prefillKvIn
  dsimp only
  repeat' first
    | with_reducible (first
      | exact wf | apply ite_tidy | apply bump_tidy | apply modSide_tidy | apply modBlk_tidy | apply shipFail_tidy
      | apply mismatch_tidy | apply finish_tidy | apply shipComplete_tidy)
    | split
    | exact wf

theorem discardFetch_tidy (b : Nat) (s : State) (wf : s.tidy) : (discardFetch b s).tidy := by
  unfold discardFetch
  try dsimp only
  repeat' first
    | with_reducible (first
      | assumption | apply modBlk_tidy | apply clearLocal_tidy)
    | exact wf

theorem fetchData_tidy (tag : Nat) (c : BlockTag) (s : State) (wf : s.tidy) : (fetchData tag c s).tidy := by
  unfold fetchData
  dsimp only
  repeat' first
    | with_reducible (first
      | exact wf | apply ite_tidy | apply bump_tidy | apply modBlk_tidy | apply endTag_tidy | apply stretchStep_tidy
      | apply fetchArrived_tidy | apply backArrived_tidy | apply discardFetch_tidy)
    | split
    | exact wf

theorem kvDataIn_tidy (tag : Nat) (c : BlockTag) (s : State) (wf : s.tidy) : (kvDataIn tag c s).tidy := by
  unfold kvDataIn
  repeat' first
    | with_reducible (first
      | exact wf | apply finish_tidy | apply fetchData_tidy)
    | exact wf

theorem fetchMissed_tidy (tag : Nat) (s : State) (wf : s.tidy) : (fetchMissed tag s).tidy := by
  unfold fetchMissed
  dsimp only
  repeat' first
    | with_reducible (first
      | exact wf | apply ite_tidy | apply setFlag_tidy | apply bump_tidy | apply endTag_tidy | apply stretchFail_tidy
      | apply fetchFailed_tidy | apply backFailed_tidy | apply imageLost_tidy | apply awaitImage_tidy
      | apply discardFetch_tidy)
    | split
    | exact wf

theorem imageData_tidy (tag : Nat) (m : Image) (s : State) (wf : s.tidy) : (imageData tag m s).tidy := by
  unfold imageData
  dsimp only
  repeat' first
    | with_reducible (first
      | exact wf | apply ite_tidy | apply endTag_tidy | apply startBack_tidy | apply awaitImage_tidy
      | apply imageArrived_tidy)
    | split
    | exact wf

theorem imageDataIn_tidy (tag : Nat) (m : Image) (s : State) (wf : s.tidy) : (imageDataIn tag m s).tidy := by
  unfold imageDataIn
  repeat' first
    | with_reducible (first
      | exact wf | apply finish_tidy | apply imageData_tidy)
    | exact wf

theorem dirTaken_tidy {op n : Nat} {f : State → State} {s : State} (hf : ∀ s, s.tidy → (f s).tidy) (h : s.tidy) :
    (dirTaken op n f s).tidy :=
  taking_tidy (fun _ h => ite_tidy (hf _ h) (setFlag_tidy _ _ (bump_tidy _ _ h))) h

theorem dropDir_tidy (e : DirEntry) (s : State) (wf : s.tidy) : (dropDir e s).tidy := by
  unfold dropDir
  dsimp only
  repeat' first
    | with_reducible (first
      | exact wf | apply ite_tidy | apply modBlk_tidy | apply setIdx_tidy)
    | split
    | exact wf

theorem objResult_tidy (r : Nat) (s : State) (wf : s.tidy) : (objResult r s).tidy := by
  unfold objResult; exact setFld_tidy _ _ _ wf

theorem uncurrentObj_tidy (kind id slot : Nat) (s : State) (wf : s.tidy) : (uncurrentObj kind id slot s).tidy := by
  unfold uncurrentObj
  try dsimp only
  repeat' first
    | with_reducible (first
      | assumption | apply modObj_tidy | apply retireObj_tidy)
    | exact wf

theorem registerObj_tidy (s : State) (wf : s.tidy) : (registerObj s).tidy := by
  unfold registerObj
  dsimp only
  repeat' first
    | with_reducible (first
      | exact wf | apply ite_tidy | apply setFld_tidy | apply bump_tidy | apply modObj_tidy | apply objResult_tidy
      | apply uncurrentObj_tidy)
    | split
    | exact wf

theorem withdrawObj_tidy (s : State) (wf : s.tidy) : (withdrawObj s).tidy := by
  unfold withdrawObj
  try dsimp only
  repeat' first
    | with_reducible (first
      | assumption | apply objResult_tidy | apply uncurrentObj_tidy)
    | split
    | exact wf

theorem popObj_tidy (s : State) (wf : s.tidy) : (popObj s).tidy := by
  unfold popObj
  dsimp only
  repeat' first
    | with_reducible (first
      | exact wf | apply modKv_tidy | apply modObj_tidy)
    | split
    | exact wf

theorem putRow_tidy (r : Row) (s : State) (wf : s.tidy) : (putRow r s).tidy := wf

theorem errRow_tidy (r : Row) (kind : Nat) (s : State) (wf : s.tidy) : (errRow r kind s).tidy := by
  unfold errRow
  repeat' first
    | with_reducible (first
      | exact wf | apply setReg_tidy)
    | exact wf

theorem countSel_tidy (r : Row) (x : SelRec) (s : State) (wf : s.tidy) : (countSel r x s).tidy := by
  unfold countSel
  dsimp only
  repeat' first
    | with_reducible (first
      | exact wf | apply ite_tidy | apply setFlag_tidy | apply bump_tidy | apply errRow_tidy)
    | split
    | exact wf

theorem sendRefill_tidy (r : Row) (shards : List Nat) (sampling : Bool) (s : State) (wf : s.tidy) :
    (sendRefill r shards sampling s).tidy := by
  unfold sendRefill
  dsimp only
  repeat' first
    | with_reducible (first
      | exact wf | apply ite_tidy | apply bump_tidy | apply modSieve_tidy | apply sendF_tidy | apply putRow_tidy)
    | split
    | exact wf

theorem limitRow_tidy (r : Row) (s : State) (wf : s.tidy) : (limitRow r s).2.tidy := by
  unfold limitRow
  dsimp only
  repeat' first
    | with_reducible (first
      | exact wf | apply setFlag_tidy | apply bump_tidy | apply putRow_tidy | apply errRow_tidy)
    | exact wf

theorem askRefill_tidy (r : Row) (shards : List Nat) (sampling : Bool) (s : State) (wf : s.tidy) :
    (askRefill r shards sampling s).2.tidy := by
  unfold askRefill
  dsimp only
  repeat' first
    | with_reducible (first
      | exact wf | apply ite_tidy | apply setFlag_tidy | apply bump_tidy | apply putRow_tidy | apply sendRefill_tidy
      | apply limitRow_tidy)
    | split
    | exact wf

theorem mergeList_tidy (r : Row) (m : CandMsg) (s : State) (wf : s.tidy) : (mergeList r m s).2.tidy := by
  unfold mergeList
  dsimp only
  repeat' first
    | with_reducible (first
      | exact wf | apply ite_tidy | apply setFlag_tidy | apply bumpN_tidy | apply bump_tidy | apply putRow_tidy
      | apply errRow_tidy)
    | split
    | exact wf

theorem evalRow_tidy (r : Row) (s : State) (wf : s.tidy) : (evalRow r s).tidy := by
  unfold evalRow
  dsimp only
  repeat' first
    | with_reducible (first
      | exact wf | apply ite_tidy | apply putRow_tidy | apply countSel_tidy | apply limitRow_tidy | apply askRefill_tidy)
    | split
    | exact wf

theorem modRun_tidy (seat : Nat) (f : SeatRun → SeatRun) (s : State) (wf : s.tidy) : (modRun seat f s).tidy := wf

theorem finalRow_tidy (r : Row) (approx : Bool) (s : State) (wf : s.tidy) : (finalRow r approx s).tidy := by
  unfold finalRow
  dsimp only
  repeat' first
    | with_reducible (first
      | exact wf | apply ite_tidy | apply setFlag_tidy | apply bump_tidy | apply modSieve_tidy)
    | split
    | exact wf

theorem digest_tidy (r : Row) (x : SelRec) (tok : Option Nat) (s : State) (wf : s.tidy) : (digest r x tok s).tidy := by
  unfold digest
  dsimp only
  repeat' first
    | with_reducible (first
      | exact wf | apply ite_tidy | apply bump_tidy | apply trace_tidy)
    | split
    | exact wf

theorem useRow_tidy (r : Row) (x : SelRec) (approx : Bool) (tok : Option Nat) (s : State) (wf : s.tidy) :
    (useRow r x approx tok s).tidy := by
  unfold useRow
  dsimp only
  repeat' first
    | with_reducible (first
      | exact wf | apply modRun_tidy | apply finalRow_tidy | apply digest_tidy)
    | exact wf

theorem emitTok_tidy (seat tok : Nat) (acc last : Bool) (s : State) (wf : s.tidy) : (emitTok seat tok acc last s).tidy := by
  unfold emitTok
  dsimp only
  repeat' first
    | with_reducible (first
      | exact wf | apply modRun_tidy)
    | split
    | exact wf

theorem closeRow_tidy (r : Row) (s : State) (wf : s.tidy) : (closeRow r s).tidy := by
  unfold closeRow
  dsimp only
  repeat' first
    | with_reducible (first
      | exact wf | apply ite_tidy | apply putRow_tidy | apply countSel_tidy | apply finalRow_tidy)
    | split
    | exact wf

theorem closeRows_tidy (seat : Nat) (s : State) (wf : s.tidy) : (closeRows seat s).tidy := by
  unfold closeRows
  try dsimp only
  repeat' first
    | with_reducible (first
      | assumption | apply ite_tidy | apply each_tidy | apply each2_tidy | intro _ _ _ | intro _ _ | apply closeRow_tidy)
    | split
    | exact wf

theorem writeResult_tidy (seat : Nat) (s : State) (wf : s.tidy) : (writeResult seat s).tidy := by
  unfold writeResult
  dsimp only
  repeat' first
    | with_reducible (first
      | exact wf | apply ite_tidy | apply setFlag_tidy | apply bump_tidy | apply modSieve_tidy)
    | split
    | exact wf

theorem refillFor_tidy (r : Row) (shards : List Nat) (sampling : Bool) (s : State) (wf : s.tidy) :
    (refillFor r shards sampling s).2.tidy := by
  unfold refillFor
  dsimp only
  repeat' first
    | with_reducible (first
      | exact wf | apply ite_tidy | apply putRow_tidy | apply limitRow_tidy | apply askRefill_tidy)
    | split
    | exact wf

theorem drawRow_tidy (r : Row) (x : SelRec) (d : Dist) (ap : Bool) (skip : Option Nat) (may : Bool) (s : State) (wf : s.tidy) :
    (drawRow r x d ap skip may s).2.tidy := by
  unfold drawRow
  dsimp only
  repeat' first
    | with_reducible (first
      | exact wf | apply modRun_tidy | apply useRow_tidy | apply emitTok_tidy | apply refillFor_tidy)
    | split
    | exact wf

theorem undefRow_tidy (r : Row) (x : SelRec) (draft : Option Nat) (s : State) (wf : s.tidy) :
    (undefRow r x draft s).2.tidy := by
  unfold undefRow
  dsimp only
  repeat' first
    | with_reducible (first
      | exact wf | apply ite_tidy | apply takeFree_tidy | apply useRow_tidy | apply emitTok_tidy)
    | split
    | exact wf

theorem decideRow_tidy (q : SeatRun) (s : State) (wf : s.tidy) : (decideRow q s).2.tidy := by
  unfold decideRow
  dsimp only
  repeat' first
    | with_reducible (first
      | exact wf | apply ite_tidy | apply modRun_tidy | apply useRow_tidy | apply emitTok_tidy | apply refillFor_tidy
      | apply drawRow_tidy | apply undefRow_tidy)
    | split
    | exact wf

theorem pumpRun_tidy (i f : Nat) (s : State) (h : s.tidy) : (pumpRun i f s).tidy := by
  induction f generalizing s with
  | zero => exact h
  | succ f ih =>
    unfold pumpRun
    try dsimp only
    repeat' first
      | with_reducible assumption
      | with_reducible apply ite_tidy
      | with_reducible apply ih
      | with_reducible apply writeResult_tidy
      | with_reducible apply closeRows_tidy
      | with_reducible apply decideRow_tidy
      | split

theorem sievePump_tidy (s : State) (wf : s.tidy) : (sievePump s).tidy := by
  unfold sievePump
  try dsimp only
  repeat' first
    | with_reducible (first
      | assumption | apply each_tidy | apply each2_tidy | intro _ _ _ | intro _ _ | apply pumpRun_tidy)
    | exact wf

theorem stray_tidy (c : Nat) (s : State) (wf : s.tidy) : (stray c s).tidy := by
  unfold stray
  repeat' first
    | with_reducible (first
      | exact wf | apply setFlag_tidy | apply bump_tidy)
    | exact wf

theorem roundDone_tidy (r : Row) (s : State) (wf : s.tidy) : (roundDone r s).tidy := by
  unfold roundDone
  dsimp only
  repeat' first
    | with_reducible (first
      | exact wf | apply ite_tidy | apply evalRow_tidy | apply pumpRun_tidy)
    | split
    | exact wf

theorem candTaken_tidy (m : CandMsg) (s : State) (wf : s.tidy) : (candTaken m s).tidy := by
  unfold candTaken
  dsimp only
  repeat' first
    | with_reducible (first
      | exact wf | apply ite_tidy | apply mergeList_tidy | apply stray_tidy | apply roundDone_tidy)
    | split
    | exact wf

theorem candIn_tidy (m : CandMsg) (s : State) (wf : s.tidy) : (candIn m s).tidy := by
  unfold candIn
  try dsimp only
  repeat' first
    | with_reducible (first
      | assumption | apply ite_tidy | apply modSieve_tidy | apply candTaken_tidy)
    | split
    | exact wf

theorem candBack_tidy (s : State) (wf : s.tidy) : (candBack s).tidy := by
  unfold candBack
  try dsimp only
  repeat' first
    | with_reducible (first
      | assumption | apply each_tidy | apply each2_tidy | intro _ _ _ | intro _ _ | apply modSieve_tidy | apply candIn_tidy)
    | exact wf

theorem serveWaiting_tidy (l : List Row) (s : State) (h : s.tidy) : (serveWaiting l s).tidy := by
  induction l generalizing s with
  | nil => simpa only [serveWaiting] using h
  | cons a r ih =>
    unfold serveWaiting
    try dsimp only
    repeat' first
      | with_reducible assumption
      | with_reducible apply ite_tidy
      | with_reducible apply ih
      | with_reducible apply sendRefill_tidy
      | split

theorem draftsLate_tidy (ok : Bool) (m : DraftsMsg) (s : State) (wf : s.tidy) : (draftsLate ok m s).tidy := by
  unfold draftsLate
  dsimp only
  repeat' first
    | with_reducible (first
      | exact wf | apply ite_tidy | apply modSieve_tidy | apply stray_tidy)
    | split
    | exact wf

theorem modSplit_tidy (i : Nat) (f : SplitEnt → SplitEnt) (s : State) (wf : s.tidy) : (modSplit i f s).tidy := wf

theorem heard_tidy (peer : Nat) (s : State) (wf : s.tidy) : (heard peer s).tidy := wf

theorem lend_tidy (peer el : Nat) (s : State) (wf : s.tidy) : (lend peer el s).tidy := by
  unfold lend
  dsimp only
  repeat' first
    | with_reducible (first
      | exact wf | apply ite_tidy | apply bump_tidy | apply modDeals_tidy | apply sendN_tidy)
    | split
    | exact wf

theorem drawLent_tidy (peer el beats : Nat) (s : State) (wf : s.tidy) : (drawLent peer el beats s).tidy := wf

theorem underLease_tidy (peer el beats : Nat) (s : State) (wf : s.tidy) : (underLease peer el beats s).2.tidy := by
  unfold underLease
  repeat' first
    | with_reducible (first
      | exact wf | apply ite_tidy | apply bump_tidy | apply drawLent_tidy)
    | split
    | exact wf

theorem fromPeer_tidy {peer cls op : Nat} {word1 : Word} {beats : Nat} {f : State → State} {s : State}
    (hf : ∀ s, s.tidy → (f s).tidy) (h : s.tidy) : (fromPeer peer cls op word1 beats f s).tidy :=
  finish_tidy _ (taking_tidy hf (heard_tidy _ _ h))

theorem fromPeerLeased_tidy {x : Gated} {op el : Nat} {word1 : Word} {f : State → State} {s : State}
    (hf : ∀ s, s.tidy → (f s).tidy) (h : s.tidy) : (fromPeerLeased x op el word1 f s).tidy := by
  have k := portCnt_tidy .N 0 1 _ (heard_tidy x.peer _ h)
  have u := underLease_tidy x.peer el x.beats _ k
  unfold fromPeerLeased
  dsimp only
  split
  · exact setFlag_tidy _ _ (bump_tidy _ _ k)
  · split
    · exact sendNotReady_tidy _ _ _ _ _ k
    · apply finish_tidy
      split
      · exact gatedIn_tidy hf u
      · exact u

theorem fromPeerJoint_tidy {peer op el : Nat} {word1 : Word} {f : State → State} {s : State}
    (hf : ∀ s, s.tidy → (f s).tidy) (h : s.tidy) : (fromPeerJoint peer op el word1 f s).tidy :=
  ite_tidy (finish_tidy _ (hf _ (drawLent_tidy _ _ _ _ (portCnt_tidy _ _ _ _ (heard_tidy _ _ h))))) (fromPeer_tidy hf h)

theorem sendJoint_tidy (peer op : Nat) (w0 : List (Nat × Nat)) (rest : List Word) (s : State) (wf : s.tidy) :
    (sendJoint peer op w0 rest s).tidy := by
  unfold sendJoint; exact sendMsg_tidy _ _ _ wf

theorem leaseTaken_tidy (peer el len msgs beats : Nat) (s : State) (wf : s.tidy) :
    (leaseTaken peer el len msgs beats s).tidy := by
  unfold leaseTaken
  try dsimp only
  repeat' first
    | with_reducible (first
      | assumption | apply ite_tidy | apply modDeals_tidy)
    | split
    | exact wf

theorem splitOpenedTaken_tidy (peer : Nat) (reqid : Word) (seat gen self : Nat) (refused : Bool) (hits : Nat) (s : State) (wf : s.tidy) :
    (splitOpenedTaken peer reqid seat gen self refused hits s).tidy := by
  unfold splitOpenedTaken
  dsimp only
  repeat' first
    | with_reducible (first
      | exact wf | apply ite_tidy | apply modSide_tidy | apply sendN_tidy | apply closeSeat_tidy | apply endSplitLookup_tidy
      | apply modSplit_tidy)
    | split
    | exact wf

theorem endBindings_tidy (gone : Nat → Bool) (s : State) (wf : s.tidy) : (endBindings gone s).tidy := wf

theorem unbind_tidy (i : Nat) (s : State) (wf : s.tidy) : (unbind i s).tidy := wf

theorem sendBind_tidy (peer el lseat lgen : Nat) (refused : Bool) (ef : Nat) (s : State) (wf : s.tidy) :
    (sendBind peer el lseat lgen refused ef s).tidy := by
  unfold sendBind; exact sendN_tidy _ _ _ _ _ _ _ _ wf

theorem offerTaken_tidy (peer el seat gen rows : Nat) (s : State) (wf : s.tidy) :
    (offerTaken peer el seat gen rows s).tidy := by
  unfold offerTaken
  dsimp only
  repeat' first
    | with_reducible (first
      | exact wf | apply ite_tidy | apply takeFree_tidy | apply modDeals_tidy | apply lend_tidy | apply sendBind_tidy)
    | split
    | exact wf

theorem bindTaken_tidy (el seat gen : Nat) (refused : Bool) (s : State) (wf : s.tidy) :
    (bindTaken el seat gen refused s).tidy := by
  unfold bindTaken
  try dsimp only
  repeat' first
    | with_reducible (first
      | assumption | apply ite_tidy | apply bump_tidy | apply failSeat_tidy | apply modSplit_tidy)
    | split
    | exact wf

theorem followerReady_tidy (seat : Nat) (s : State) (wf : s.tidy) : (followerReady seat s).tidy := by
  unfold followerReady
  dsimp only
  repeat' first
    | with_reducible (first
      | exact wf | apply ite_tidy | apply modSeat_tidy)
    | split
    | exact wf

theorem goTaken_tidy (peer el seat gen live : Nat) (toks : List (BitVec 20)) (s : State) (wf : s.tidy) :
    (goTaken peer el seat gen live toks s).tidy := by
  unfold goTaken
  dsimp only
  repeat' first
    | with_reducible (first
      | exact wf | apply ite_tidy | apply bump_tidy | apply modSide_tidy | apply modDeals_tidy | apply modSplit_tidy
      | apply lend_tidy | apply followerReady_tidy)
    | split
    | exact wf

theorem offerSeat_tidy (epoch : Nat) (x : DealSeat) (s : State) (wf : s.tidy) : (offerSeat epoch x s).tidy := by
  unfold offerSeat
  try dsimp only
  repeat' first
    | with_reducible (first
      | assumption | apply ite_tidy | apply each_tidy | apply each2_tidy | intro _ _ _ | intro _ _ | apply lend_tidy
      | apply sendJoint_tidy)
    | split
    | exact wf

theorem goSeat_tidy (epoch live : Nat) (x : DealSeat) (toks : List Nat) (s : State) (wf : s.tidy) :
    (goSeat epoch live x toks s).tidy := by
  unfold goSeat
  dsimp only
  repeat' first
    | with_reducible (first
      | assumption | apply ite_tidy | apply each_tidy | intro _ _ _ | intro _ _ | apply lend_tidy | apply sendJoint_tidy)
    | split
    | exact wf

theorem queryTaken_tidy (el layer rows seat gen : Nat) (p : Payload) (s : State) (wf : s.tidy) :
    (queryTaken el layer rows seat gen p s).tidy := by
  unfold queryTaken
  dsimp only
  repeat' first
    | with_reducible (first
      | exact wf | apply ite_tidy | apply bump_tidy | apply modDeals_tidy | apply sendF_tidy)
    | split
    | exact wf

theorem partialTaken_tidy (el layer seat gen self : Nat) (p : Payload) (s : State) (wf : s.tidy) :
    (partialTaken el layer seat gen self p s).tidy := by
  unfold partialTaken
  dsimp only
  repeat' first
    | with_reducible (first
      | exact wf | apply ite_tidy | apply bump_tidy | apply modDeals_tidy | apply sendF_tidy)
    | split
    | exact wf

theorem payTag_tidy (s : State) (wf : s.tidy) : (payTag s).2.tidy := wf

theorem sendExchange_tidy (peer op i kind ntok bytes : Nat) (pay : List Word) (rest : List Word) (s : State) (wf : s.tidy) :
    (sendExchange peer op i kind ntok bytes pay rest s).tidy := by
  unfold sendExchange
  dsimp only
  repeat' first
    | with_reducible (first
      | exact wf | apply sendFor_tidy | apply payTag_tidy)
    | exact wf

theorem queryOut_tidy (seat el layer rows bytes : Nat) (pay : List Word) (s : State) (wf : s.tidy) :
    (queryOut seat el layer rows bytes pay s).tidy := by
  unfold queryOut
  dsimp only
  repeat' first
    | with_reducible (first
      | assumption | apply each_tidy | intro _ _ _ | intro _ _ | apply modDeals_tidy | apply sendExchange_tidy)
    | split
    | exact wf

theorem partialOut_tidy (seat el layer bytes : Nat) (pay : List Word) (s : State) (wf : s.tidy) :
    (partialOut seat el layer bytes pay s).tidy := by
  unfold partialOut; exact sendExchange_tidy _ _ _ _ _ _ _ _ _ wf

theorem exchangeOut_tidy (isQuery : Bool) (seat gen el layer rows bytes : Nat) (pay : List Word) (s : State) (wf : s.tidy) :
    (exchangeOut isQuery seat gen el layer rows bytes pay s).tidy := by
  unfold exchangeOut
  repeat' first
    | with_reducible (first
      | exact wf | apply ite_tidy | apply bump_tidy | apply queryOut_tidy | apply partialOut_tidy)
    | split
    | exact wf

theorem voidRun_tidy (i : Nat) (s : State) (wf : s.tidy) : (voidRun i s).tidy := wf

end Sys2Proof.Machine
end

