-- ==== Sys2Proof/Laws/TidyDeals.lean ====
section
/-! SUPPORT. Each shared operation keeps the indexed stores in their canonical form (`State.tidy`). The Dealer, the gates, observation, policies, boundaries and the Herald. -/
namespace Sys2Proof.Machine

theorem askHot_tidy (m v : Nat) (s : State) (wf : s.tidy) : (askHot m v s).tidy := by
  unfold askHot
  repeat' first
    | with_reducible (first
      | exact wf | apply setFlag_tidy | apply hotStart_tidy)
    | exact wf

theorem askHots_tidy (l : List Nat) (s : State) (wf : s.tidy) : (askHots l s).tidy := by
  unfold askHots
  try dsimp only
  repeat' first
    | with_reducible (first
      | assumption | apply each_tidy | apply each2_tidy | intro _ _ _ | intro _ _ | apply askHot_tidy)
    | split
    | exact wf

theorem passHot_tidy (i : Nat) (s : State) (wf : s.tidy) : (passHot i s).tidy := by
  unfold passHot
  try dsimp only
  repeat' first
    | with_reducible (first
      | assumption | apply bump_tidy | apply trace_tidy | apply askHot_tidy)
    | split
    | exact wf

theorem markDealable_tidy (s : State) (wf : s.tidy) : (markDealable s).tidy := by
  unfold markDealable
  dsimp only
  repeat' first
    | with_reducible (first
      | assumption | apply ite_tidy | apply each_tidy | intro _ _ _ | intro _ _ | apply modSide_tidy)
    | split
    | exact wf

theorem tagPrompt_tidy (i : Nat) (blocks : List Nat) (first : Nat) (s : State) (wf : s.tidy) :
    (tagPrompt i blocks first s).tidy := by
  unfold tagPrompt
  try dsimp only
  repeat' first
    | with_reducible (first
      | assumption | apply each_tidy | apply each2_tidy | intro _ _ _ | intro _ _ | apply modBlk_tidy
      | apply freePagesOf_tidy)
    | exact wf

theorem linkTo_tidy {i last n : Nat} {s t : State} (h : linkTo i last s = some (n, t)) (hs : s.tidy) : t.tidy := by
  unfold linkTo at h
  dsimp only at h
  split at h
  · cases h; exact hs
  · split at h
    · cases h
    · cases h; exact tagPrompt_tidy _ _ _ _ (growChain_tidy _ _ _ _ hs)

theorem linkEntry_tidy {x : DealSeat} {n : Nat} {s t : State} (h : linkEntry x s = some (n, t)) (hs : s.tidy) : t.tidy := by
  unfold linkEntry at h
  split at h
  · cases h; exact hs
  · split at h <;> exact linkTo_tidy h hs

theorem linkSeats_tidy (l : List DealSeat) (s : State) (h : s.tidy) : (linkSeats l s).2.2.tidy := by
  induction l generalizing s with
  | nil => exact h
  | cons x r ih =>
    unfold linkSeats
    split
    · exact setFlag_tidy _ _ (bump_tidy _ _ h)
    · rename_i e
      exact ih _ (linkEntry_tidy e h)

theorem compCycles_tidy (m n c : Nat) (s : State) (wf : s.tidy) : (compCycles m n c s).tidy := by
  unfold compCycles
  dsimp only
  repeat' first
    | with_reducible (first
      | exact wf | apply setFld_tidy | apply takeFree_tidy)
    | exact wf

theorem setPassed_tidy (l : List Nat) (s : State) (wf : s.tidy) : (setPassed l s).tidy := by
  unfold setPassed
  try dsimp only
  repeat' first
    | with_reducible (first
      | assumption | apply each_tidy | apply each2_tidy | intro _ _ _ | intro _ _ | apply modSide_tidy)
    | exact wf

theorem bindSeat_tidy (ef : Nat) (x : DealSeat) (s : State) (wf : s.tidy) : (bindSeat ef x s).tidy := by
  unfold bindSeat
  dsimp only
  repeat' first
    | with_reducible (first
      | exact wf | apply ite_tidy | apply modDeals_tidy | apply modSplit_tidy | apply sendBind_tidy)
    | split
    | exact wf

theorem composeFor_tidy (mv : Nat × Nat) (idle : Bool) (s : State) (wf : s.tidy) : (composeFor mv idle s).tidy := by
  unfold composeFor
  dsimp only
  repeat' first
    | with_reducible (first
      | assumption | apply ite_tidy | apply each_tidy | intro _ _ _ | intro _ _ | apply setFld_tidy | apply bumpN_tidy
      | apply modSide_tidy | apply modDeals_tidy | apply chipFor_tidy | apply stageFor_tidy | apply passHot_tidy
      | apply linkSeats_tidy | apply compCycles_tidy | apply setPassed_tidy | apply bindSeat_tidy)
    | split
    | exact wf

theorem compose_tidy (idle : Bool) (s : State) (wf : s.tidy) : (compose idle s).tidy := by
  unfold compose
  dsimp only
  repeat' first
    | with_reducible (first
      | assumption | apply each_tidy | intro _ _ _ | intro _ _ | apply setFld_tidy | apply bumpN_tidy | apply passHot_tidy
      | apply markDealable_tidy | apply setPassed_tidy | apply composeFor_tidy)
    | split
    | exact wf

theorem roundKeys_tidy (s₀ : State) (e : Nat) (l : List (List DealSeat)) (s : State) (h : s.tidy) : (roundKeys s₀ e l s).tidy := by
  induction l generalizing s with
  | nil => simpa only [roundKeys] using h
  | cons a r ih =>
    unfold roundKeys
    try dsimp only
    repeat' first
      | with_reducible assumption
      | with_reducible apply ite_tidy
      | with_reducible apply ih
      | with_reducible apply bumpN_tidy
      | with_reducible apply sendF_tidy
      | split

theorem biasMsgs_tidy (x : DealSeat) (e : Nat) (d : Bool) (l : List (List (Nat × Nat))) (s : State) (h : s.tidy) : (biasMsgs x e d l s).tidy := by
  induction l generalizing s with
  | nil => simpa only [biasMsgs] using h
  | cons a r ih =>
    unfold biasMsgs
    try dsimp only
    repeat' first
      | with_reducible assumption
      | with_reducible apply ite_tidy
      | with_reducible apply ih
      | with_reducible apply bumpN_tidy
      | with_reducible apply sendF_tidy
      | split

theorem fullBias_tidy (d : Deal) (x : DealSeat) (s : State) (wf : s.tidy) : (fullBias d x s).tidy := by
  unfold fullBias
  repeat' first
    | with_reducible (first
      | exact wf | apply ite_tidy | apply biasMsgs_tidy)
    | split
    | exact wf

theorem deltaBias_tidy (d : Deal) (x : DealSeat) (s : State) (wf : s.tidy) : (deltaBias d x s).tidy := by
  unfold deltaBias
  dsimp only
  repeat' first
    | with_reducible (first
      | exact wf | apply ite_tidy | apply biasMsgs_tidy)
    | split
    | exact wf

theorem feedMsgs_tidy (e p : Nat) (l : List (List FeedEnt)) (s : State) (h : s.tidy) : (feedMsgs e p l s).tidy := by
  induction l generalizing s with
  | nil => simpa only [feedMsgs] using h
  | cons a r ih =>
    unfold feedMsgs
    try dsimp only
    repeat' first
      | with_reducible assumption
      | with_reducible apply ite_tidy
      | with_reducible apply ih
      | with_reducible apply sendF_tidy
      | split

theorem sendKeys_tidy (d : Deal) (s : State) (wf : s.tidy) : (sendKeys d s).tidy := by
  unfold sendKeys
  dsimp only
  repeat' first
    | with_reducible (first
      | exact wf | apply ite_tidy | apply modDeals_tidy | apply roundKeys_tidy)
    | split
    | exact wf

theorem candCfg_tidy (epoch : Nat) (s : State) (wf : s.tidy) : (candCfg epoch s).tidy := by
  unfold candCfg
  try dsimp only
  repeat' first
    | with_reducible (first
      | assumption | apply ite_tidy | apply modSieve_tidy | apply sendF_tidy)
    | split
    | exact wf

theorem sendFeed_tidy (s : State) (wf : s.tidy) : (sendFeed s).tidy := by
  unfold sendFeed
  dsimp only
  repeat' first
    | with_reducible (first
      | assumption | apply ite_tidy | apply each_tidy | intro _ _ _ | intro _ _ | apply modDeals_tidy | apply deltaBias_tidy
      | apply feedMsgs_tidy | apply sendKeys_tidy)
    | split
    | exact wf

theorem recordHandOff_tidy (d : Deal) (s : State) (wf : s.tidy) : (recordHandOff d s).tidy := by
  unfold recordHandOff
  dsimp only
  repeat' first
    | with_reducible (first
      | exact wf | apply ite_tidy | apply setReg_tidy | apply setFld_tidy | apply bumpN_tidy | apply bump_tidy)
    | split
    | exact wf

theorem sendDeal_tidy (d : Deal) (s : State) (wf : s.tidy) : (sendDeal d s).tidy := by
  unfold sendDeal
  dsimp only
  repeat' first
    | with_reducible (first
      | assumption | apply each_tidy | intro _ _ _ | intro _ _ | apply sendF_tidy | apply fullBias_tidy | apply sendKeys_tidy)
    | exact wf

theorem lateHandOff_tidy (s : State) (wf : s.tidy) : (lateHandOff s).tidy := by
  unfold lateHandOff
  repeat' first
    | with_reducible (first
      | exact wf | apply trace_tidy)
    | split
    | exact wf

theorem handOff_tidy (s : State) (wf : s.tidy) : (handOff s).tidy := by
  unfold handOff
  dsimp only
  repeat' first
    | with_reducible (first
      | assumption | apply ite_tidy | apply each_tidy | intro _ _ _ | intro _ _ | apply modDeals_tidy | apply offerSeat_tidy
      | apply sendFeed_tidy | apply recordHandOff_tidy | apply sendDeal_tidy | apply lateHandOff_tidy)
    | split
    | exact wf

theorem endBoundary_tidy (s : State) (wf : s.tidy) : (endBoundary s).tidy := by
  unfold endBoundary
  try dsimp only
  repeat' first
    | with_reducible (first
      | assumption | apply ite_tidy | apply modDeals_tidy)
    | split
    | exact wf

theorem composeNext_tidy (s : State) (wf : s.tidy) : (composeNext s).tidy := by
  unfold composeNext
  dsimp only
  repeat' first
    | with_reducible (first
      | exact wf | apply ite_tidy | apply bump_tidy | apply compose_tidy | apply endBoundary_tidy)
    | split
    | exact wf

theorem fillCounters_tidy (g : Nat) (s : State) (wf : s.tidy) : (fillCounters g s).tidy := by
  unfold fillCounters; exact modGate_tidy _ _ _ wf

theorem moveBeats_tidy (g p moved : Nat) (s : State) (wf : s.tidy) : (moveBeats g p moved s).tidy := by
  unfold moveBeats
  dsimp only
  repeat' first
    | with_reducible (first
      | exact wf | apply ite_tidy | apply bumpN_tidy | apply modGate_tidy | apply modPath_tidy | apply modReq_tidy)
    | split
    | exact wf

theorem freeBeats_tidy (g p : Nat) (s : State) (wf : s.tidy) : (freeBeats g p s).tidy := by
  unfold freeBeats
  dsimp only
  repeat' first
    | with_reducible (first
      | exact wf | apply ite_tidy | apply takeFree_tidy | apply moveBeats_tidy)
    | split
    | exact wf

theorem otherBeats_tidy (g p : Nat) (s : State) (wf : s.tidy) : (otherBeats g p s).tidy := by
  unfold otherBeats
  repeat' first
    | with_reducible (first
      | exact wf | apply ite_tidy | apply freeBeats_tidy)
    | split
    | exact wf

theorem gateSync_tidy (g : Nat) (s : State) (wf : s.tidy) : (gateSync g s).tidy := by
  unfold gateSync
  repeat' first
    | with_reducible (first
      | assumption | apply each_tidy | intro _ _ _ | intro _ _ | apply freeBeats_tidy)
    | exact wf

theorem syncAll_tidy (s : State) (wf : s.tidy) : (syncAll s).tidy := by
  unfold syncAll
  repeat' first
    | with_reducible (first
      | assumption | apply each_tidy | intro _ _ _ | intro _ _ | apply gateSync_tidy)
    | exact wf

theorem waiterWinner_tidy (g p : Nat) (l : List Nat) (s : State) (wf : s.tidy) : (waiterWinner g p l s).2.tidy := by
  unfold waiterWinner
  dsimp only
  repeat' first
    | with_reducible (first
      | exact wf | apply takeFree_tidy)
    | split
    | exact wf

theorem contestFor_tidy (g p : Nat) (waiter : Bool) (s : State) (wf : s.tidy) : (contestFor g p waiter s).2.tidy := by
  unfold contestFor
  repeat' first
    | with_reducible (first
      | exact wf | apply ite_tidy | apply waiterWinner_tidy)
    | split
    | exact wf

theorem contest_tidy (g p : Nat) (prev : Nat) (byPrio : Bool) (s : State) (wf : s.tidy) :
    (contest g p prev byPrio s).tidy := by
  unfold contest
  dsimp only
  repeat' first
    | with_reducible (first
      | exact wf | apply ite_tidy | apply bump_tidy | apply traceWait_tidy | apply modPath_tidy | apply otherBeats_tidy
      | apply contestFor_tidy)
    | split
    | exact wf

theorem unbump_tidy (c : Nat) (s : State) (h : s.tidy) : (unbump c s).tidy := by
  obtain ⟨h1, h2, h3, h4, h5, h6, h7, h8, h9⟩ := h
  unfold unbump
  split
  · exact ⟨h1, h2, h3, h4, h5, h6, h7, h8, h9⟩
  · exact ⟨h1, h2, h3, h4, h5, h6, h7, twf_tput _ _ h8, h9⟩

theorem rejoin_tidy (g p : Nat) (s : State) (wf : s.tidy) : (rejoin g p s).tidy := by
  unfold rejoin
  dsimp only
  repeat' first
    | with_reducible (first
      | exact wf | apply ite_tidy | apply bump_tidy | apply modPath_tidy | apply contestFor_tidy | apply unbump_tidy)
    | split
    | exact wf

theorem returnKept_tidy (g tag : Nat) (s : State) (wf : s.tidy) : (returnKept g tag s).tidy := by
  unfold returnKept
  try dsimp only
  repeat' first
    | with_reducible (first
      | assumption | apply ite_tidy | apply modSide_tidy | apply giveBack_tidy)
    | split
    | exact wf

theorem endGrant_tidy (g p : Nat) (s : State) (wf : s.tidy) : (endGrant g p s).tidy := by
  unfold endGrant
  dsimp only
  repeat' first
    | with_reducible (first
      | exact wf | apply ite_tidy | apply modPath_tidy | apply modReq_tidy | apply returnKept_tidy)
    | split
    | exact wf

theorem revokeGrant_tidy (g p : Nat) (s : State) (wf : s.tidy) : (revokeGrant g p s).tidy := by
  unfold revokeGrant
  dsimp only
  repeat' first
    | with_reducible (first
      | exact wf | apply setFld_tidy | apply bump_tidy | apply endGrant_tidy)
    | split
    | exact wf

theorem markFrozen_tidy (g : Nat) (s : State) (wf : s.tidy) : (markFrozen g s).tidy := by
  unfold markFrozen
  dsimp only
  repeat' first
    | with_reducible (first
      | exact wf | apply ite_tidy | apply setFlag_tidy)
    | split
    | exact wf

theorem preempt_tidy (g p : Nat) (s : State) (wf : s.tidy) : (preempt g p s).tidy := by
  unfold preempt
  dsimp only
  repeat' first
    | with_reducible (first
      | exact wf | apply ite_tidy | apply contest_tidy | apply revokeGrant_tidy)
    | split
    | exact wf

theorem gateClock_tidy (g : Nat) (s : State) (wf : s.tidy) : (gateClock g s).tidy := by
  unfold gateClock
  try dsimp only
  repeat' first
    | with_reducible (first
      | assumption | apply ite_tidy | apply modGate_tidy)
    | split
    | exact wf

theorem settlePath_tidy (g p : Nat) (s : State) (wf : s.tidy) : (settlePath g p s).tidy := by
  unfold settlePath
  dsimp only
  repeat' first
    | with_reducible (first
      | exact wf | apply ite_tidy | apply contest_tidy | apply endGrant_tidy | apply revokeGrant_tidy | apply preempt_tidy)
    | split
    | exact wf

theorem leaveStart_tidy (g : Nat) (s : State) (wf : s.tidy) : (leaveStart g s).tidy := by
  unfold leaveStart
  try dsimp only
  repeat' first
    | with_reducible (first
      | assumption | apply ite_tidy | apply modGate_tidy | apply fillCounters_tidy)
    | split
    | exact wf

theorem gateThaw_tidy (g : Nat) (s : State) (wf : s.tidy) : (gateThaw g s).tidy := by
  unfold gateThaw
  repeat' first
    | with_reducible (first
      | assumption | apply each_tidy | intro _ _ _ | intro _ _ | apply gateClock_tidy | apply settlePath_tidy
      | apply leaveStart_tidy)
    | exact wf

theorem gateWritten_tidy (g : Nat) (was : Bool) (s : State) (wf : s.tidy) : (gateWritten g was s).tidy := by
  unfold gateWritten
  dsimp only
  repeat' first
    | with_reducible (first
      | assumption | apply ite_tidy | apply each_tidy | intro _ _ _ | intro _ _ | apply modGate_tidy | apply markFrozen_tidy
      | apply gateThaw_tidy)
    | split
    | exact wf

theorem freezeGates_tidy (s : State) (wf : s.tidy) : (freezeGates s).tidy := by
  unfold freezeGates
  try dsimp only
  repeat' first
    | with_reducible (first
      | assumption | apply each_tidy | apply each2_tidy | intro _ _ _ | intro _ _ | apply modGate_tidy
      | apply markFrozen_tidy | apply gateClock_tidy)
    | exact wf

theorem thawGates_tidy (s : State) (wf : s.tidy) : (thawGates s).tidy := by
  unfold thawGates
  try dsimp only
  repeat' first
    | with_reducible (first
      | assumption | apply each_tidy | apply each2_tidy | intro _ _ _ | intro _ _ | apply modGate_tidy | apply gateThaw_tidy)
    | exact wf

theorem softFreeze_tidy (g : Nat) (s : State) (wf : s.tidy) : (softFreeze g s).tidy := by
  unfold softFreeze
  repeat' first
    | with_reducible (first
      | exact wf | apply setFld_tidy | apply markFrozen_tidy | apply gateClock_tidy)
    | exact wf

theorem revokeAll_tidy (s : State) (wf : s.tidy) : (revokeAll s).tidy := by
  unfold revokeAll
  try dsimp only
  repeat' first
    | with_reducible (first
      | assumption | apply each_tidy | apply each2_tidy | intro _ _ _ | intro _ _ | apply freeBeats_tidy
      | apply revokeGrant_tidy | apply markFrozen_tidy)
    | exact wf

theorem payloadIn_tidy (c : Instr) (s : State) (wf : s.tidy) : (payloadIn c s).tidy := by
  unfold payloadIn
  repeat' first
    | with_reducible (first
      | exact wf | apply objDataIn_tidy | apply prefillKvIn_tidy | apply kvDataIn_tidy | apply imageData_tidy
      | apply imageDataIn_tidy | apply queryTaken_tidy | apply partialTaken_tidy)
    | split
    | exact wf

theorem releaseGated_tidy (s : State) (wf : s.tidy) : (releaseGated s).tidy := by
  unfold releaseGated
  try dsimp only
  repeat' first
    | with_reducible (first
      | assumption | apply each_tidy | apply each2_tidy | intro _ _ _ | intro _ _ | apply modPorts_tidy | apply gatedIn_tidy
      | apply payloadIn_tidy)
    | exact wf

theorem gateDone_tidy (s : State) (wf : s.tidy) : (gateDone s).tidy := by
  unfold gateDone
  repeat' first
    | with_reducible (first
      | exact wf | apply finish_tidy | apply releaseGated_tidy)
    | exact wf

theorem gateRequest_tidy (g p r tag moved : Nat) (s : State) (wf : s.tidy) : (gateRequest g p r tag moved s).tidy := by
  unfold gateRequest
  dsimp only
  repeat' first
    | with_reducible (first
      | exact wf | apply ite_tidy | apply takeFree_tidy | apply modPath_tidy | apply modReq_tidy | apply moveBeats_tidy
      | apply contest_tidy | apply rejoin_tidy | apply markFrozen_tidy | apply preempt_tidy)
    | split
    | exact wf

theorem gateDrop_tidy (g p r moved : Nat) (lapsed : Bool) (s : State) (wf : s.tidy) :
    (gateDrop g p r moved lapsed s).tidy := by
  unfold gateDrop
  dsimp only
  repeat' first
    | with_reducible (first
      | exact wf | apply ite_tidy | apply modReq_tidy | apply moveBeats_tidy | apply contest_tidy | apply endGrant_tidy)
    | split
    | exact wf

theorem gateBurst_tidy (g p : Nat) (s : State) (wf : s.tidy) : (gateBurst g p s).tidy := by
  unfold gateBurst
  repeat' first
    | with_reducible (first
      | exact wf | apply moveBeats_tidy | apply contest_tidy | apply endGrant_tidy | apply markFrozen_tidy)
    | split
    | exact wf

theorem gateEdge_tidy (g m0 m1 : Nat) (s : State) (wf : s.tidy) : (gateEdge g m0 m1 s).tidy := by
  unfold gateEdge
  dsimp only
  repeat' first
    | with_reducible (first
      | exact wf | apply ite_tidy | apply modGate_tidy | apply fillCounters_tidy | apply moveBeats_tidy)
    | split
    | exact wf

theorem refetch_tidy (tag : Nat) (s : State) (wf : s.tidy) : (refetch tag s).tidy := by
  unfold refetch
  dsimp only
  repeat' first
    | with_reducible (first
      | exact wf | apply ite_tidy | apply modSeq_tidy | apply issueNext_tidy)
    | split
    | exact wf

theorem refundOut_tidy (g r tag : Nat) (s : State) (wf : s.tidy) : (refundOut g r tag s).tidy := by
  unfold refundOut
  try dsimp only
  repeat' first
    | with_reducible (first
      | assumption | apply ite_tidy | apply modDeals_tidy | apply modSess_tidy)
    | split
    | exact wf

theorem dropTransfer_tidy (g r tag : Nat) (s : State) (wf : s.tidy) : (dropTransfer g r tag s).tidy := by
  unfold dropTransfer
  dsimp only
  repeat' first
    | with_reducible (first
      | assumption | apply ite_tidy | apply each_tidy | intro _ _ _ | intro _ _ | apply modPorts_tidy | apply freeGated_tidy
      | apply refundOut_tidy)
    | split
    | exact wf

theorem shipTagFails_tidy (tag : Nat) (s : State) (wf : s.tidy) : (shipTagFails tag s).tidy := by
  unfold shipTagFails
  try dsimp only
  repeat' first
    | with_reducible (first
      | assumption | apply shipFail_tidy)
    | split
    | exact wf

theorem transferFailed_tidy (g r tag : Nat) (s : State) (wf : s.tidy) : (transferFailed g r tag s).tidy := by
  unfold transferFailed
  repeat' first
    | with_reducible (first
      | exact wf | apply ite_tidy | apply bump_tidy | apply endTag_tidy | apply shipFail_tidy | apply objDataTaken_tidy
      | apply putAnswered_tidy | apply fetchMissed_tidy | apply refetch_tidy | apply shipTagFails_tidy)
    | split
    | exact wf

theorem watchdog_tidy (g p moved : Nat) (s : State) (wf : s.tidy) : (watchdog g p moved s).tidy := by
  unfold watchdog
  dsimp only
  repeat' first
    | with_reducible (first
      | exact wf | apply ite_tidy | apply setReg_tidy | apply setFld_tidy | apply setFlag_tidy | apply bump_tidy
      | apply trace_tidy | apply modReq_tidy | apply moveBeats_tidy | apply contest_tidy | apply revokeGrant_tidy
      | apply dropTransfer_tidy | apply transferFailed_tidy)
    | split
    | exact wf

theorem gateRevoke_tidy (g m0 m1 : Nat) (s : State) (wf : s.tidy) : (gateRevoke g m0 m1 s).tidy := by
  unfold gateRevoke
  dsimp only
  repeat' first
    | with_reducible (first
      | assumption | apply ite_tidy | apply each_tidy | intro _ _ _ | intro _ _ | apply takeFree_tidy | apply moveBeats_tidy
      | apply contest_tidy | apply revokeGrant_tidy | apply markFrozen_tidy | apply watchdog_tidy)
    | split
    | exact wf

theorem revokeWrite_tidy (g : Nat) (s : State) (wf : s.tidy) : (revokeWrite g s).tidy := by
  unfold revokeWrite
  repeat' first
    | with_reducible (first
      | exact wf | apply gateSync_tidy | apply releaseGated_tidy | apply gateRevoke_tidy)
    | exact wf

theorem takeSnap_tidy (s : State) (wf : s.tidy) : (takeSnap s).tidy := by
  unfold takeSnap
  dsimp only
  repeat' first
    | with_reducible (first
      | exact wf | exact rfl | apply modObs_tidy | apply syncAll_tidy)
    | exact wf

theorem armSnap_tidy (s : State) (wf : s.tidy) : (armSnap s).tidy := wf

theorem clearCounters_tidy (s : State) (h : s.tidy) : (clearCounters s).tidy := by
  have k := syncAll_tidy s h
  unfold clearCounters
  generalize syncAll s = u at k ⊢
  obtain ⟨h1, h2, h3, h4, h5, h6, h7, _, h9⟩ := k
  exact ⟨h1, h2, h3, h4, h5, h6, h7, rfl, h9⟩

theorem clearKeep_tidy (s : State) (h : s.tidy) : (clearKeep s).tidy := by
  obtain ⟨h1, h2, h3, h4, h5, h6, h7, h8, _⟩ := h
  exact ⟨h1, h2, h3, h4, h5, h6, h7, h8, rfl⟩

theorem addOps_tidy (d : Deal) (r : OpsRec) (s : State) (wf : s.tidy) : (addOps d r s).tidy := wf

theorem addAll_tidy (d : Deal) (l : List OpsRec) (s : State) (wf : s.tidy) : (addAll d l s).tidy := by
  unfold addAll
  repeat' first
    | with_reducible (first
      | assumption | apply each_tidy | intro _ _ _ | intro _ _ | apply addOps_tidy)
    | exact wf

theorem applyOps_tidy (s : State) (wf : s.tidy) : (applyOps s).tidy := by
  unfold applyOps
  dsimp only
  repeat' first
    | with_reducible (first
      | exact wf | exact rfl | apply modObs_tidy | apply addAll_tidy)
    | split
    | exact wf

theorem takeDone_tidy (s : State) (wf : s.tidy) : (takeDone s).tidy := wf

theorem queueOps_tidy (epoch : Nat) (recs : List OpsRec) (s : State) (wf : s.tidy) : (queueOps epoch recs s).tidy := by
  unfold queueOps
  dsimp only
  repeat' first
    | with_reducible (first
      | exact wf | exact rfl | apply ite_tidy | apply modObs_tidy | apply takeDone_tidy)
    | split
    | exact wf

theorem opsRoom_tidy (s : State) (wf : s.tidy) : (opsRoom s).tidy := by
  unfold opsRoom
  dsimp only
  repeat' first
    | with_reducible (first
      | exact wf | exact rfl | apply modObs_tidy | apply trace_tidy | apply addAll_tidy | apply applyOps_tidy
      | apply takeDone_tidy)
    | split
    | exact wf

theorem armTrace_tidy (s : State) (wf : s.tidy) : (armTrace s).tidy := wf

theorem fireNow_tidy (s : State) (h : s.tidy) : (fireNow s).tidy := by
  unfold fireNow
  dsimp only
  repeat' first
    | with_reducible exact h
    | with_reducible apply ite_tidy
    | with_reducible exact rfl
    | with_reducible apply obs_tidy
    | with_reducible refine (fireTrace_cnt ..).trans ?_
    | with_reducible refine (freezeTrace_cnt ..).trans ?_
    | with_reducible exact gapPlaced_cnt _
    | split

theorem drainStaging_tidy (s : State) (wf : s.tidy) : (drainStaging s).tidy := by
  unfold drainStaging
  try dsimp only
  repeat' first
    | with_reducible (first
      | assumption | exact rfl | apply modObs_tidy)
    | split
    | exact wf

theorem exhaustSeat_tidy (i : Nat) (s : State) (wf : s.tidy) : (exhaustSeat i s).tidy := by
  unfold exhaustSeat
  dsimp only
  repeat' first
    | with_reducible (first
      | exact wf | apply ite_tidy | apply bump_tidy | apply requestPause_tidy | apply failSeat_tidy)
    | split
    | exact wf

theorem exhaustSeats_tidy (ts : List Nat) (s : State) (wf : s.tidy) : (exhaustSeats ts s).tidy := by
  unfold exhaustSeats
  try dsimp only
  repeat' first
    | with_reducible (first
      | assumption | apply each_tidy | apply each2_tidy | intro _ _ _ | intro _ _ | apply exhaustSeat_tidy)
    | exact wf

theorem dropCheck_tidy (s : State) (wf : s.tidy) : (dropCheck s).tidy := by
  unfold dropCheck
  try dsimp only
  repeat' first
    | with_reducible (first
      | assumption | apply ite_tidy | apply each_tidy | apply each2_tidy | intro _ _ _ | intro _ _ | apply closeSeat_tidy)
    | split
    | exact wf

theorem updStep_tidy (d : Deal) (t : Nat) (s : State) (wf : s.tidy) : (updStep d t s).tidy := by
  unfold updStep
  dsimp only
  repeat' first
    | with_reducible (first
      | exact wf | apply ite_tidy)
    | split
    | exact wf

theorem updTpd_tidy (c n k : Nat) (s : State) (wf : s.tidy) : (updTpd c n k s).tidy := by
  unfold updTpd
  dsimp only
  repeat' first
    | with_reducible (first
      | exact wf | apply ite_tidy | apply modCls_tidy)
    | split
    | exact wf

theorem updTpds_tidy (r : Running) (s : State) (wf : s.tidy) : (updTpds r s).tidy := by
  unfold updTpds
  dsimp only
  repeat' first
    | with_reducible (first
      | assumption | apply ite_tidy | apply each_tidy | intro _ _ _ | intro _ _ | apply updTpd_tidy)
    | split
    | exact wf

theorem observe_tidy (s : State) (wf : s.tidy) : (observe s).tidy := wf

theorem updEstimators_tidy (r : Running) (s : State) (wf : s.tidy) : (updEstimators r s).tidy := by
  unfold updEstimators
  repeat' first
    | with_reducible (first
      | exact wf | apply updStep_tidy | apply updTpds_tidy | apply observe_tidy)
    | exact wf

theorem loadPause_tidy (c n : Nat) (l : List Nat) (s : State) (h : s.tidy) : (loadPause c n l s).tidy := by
  induction l generalizing n s with
  | nil => cases n <;> exact h
  | cons i r ih =>
    cases n with
    | zero => exact h
    | succ n =>
      simp only [loadPause]
      split
      · exact ih _ _ (bump_tidy _ _ (requestPause_tidy _ _ _ h))
      · exact h

theorem loadResume_tidy (n rows : Nat) (l : List Nat) (s : State) (h : s.tidy) : (loadResume n rows l s).tidy := by
  induction l generalizing n rows s with
  | nil => cases n <;> exact h
  | cons i r ih =>
    cases n with
    | zero => exact h
    | succ n =>
      unfold loadResume
      dsimp only
      repeat' first
        | with_reducible assumption
        | with_reducible apply ite_tidy
        | with_reducible apply ih
        | with_reducible apply bump_tidy
        | with_reducible apply clearPause_tidy

theorem loadEval_tidy (s : State) (wf : s.tidy) : (loadEval s).tidy := by
  unfold loadEval
  dsimp only
  repeat' first
    | with_reducible (first
      | exact wf | apply ite_tidy | apply loadPause_tidy | apply loadResume_tidy)
    | split
    | exact wf

theorem refillPots_tidy (s : State) (h : s.tidy) : (refillPots s).tidy := by
  obtain ⟨h1, h2, h3, h4, h5, h6, h7, h8, h9⟩ := h
  exact ⟨h1, h2, h3, h4, twf_tmap h5, h6, h7, h8, h9⟩

theorem attain_tidy (s : State) (wf : s.tidy) : (attain s).tidy := by
  unfold attain
  try dsimp only
  repeat' first
    | with_reducible (first
      | assumption | apply each_tidy | apply each2_tidy | intro _ _ _ | intro _ _ | apply modCls_tidy)
    | exact wf

theorem budgetResume_tidy (s : State) (wf : s.tidy) : (budgetResume s).tidy := by
  unfold budgetResume
  dsimp only
  repeat' first
    | with_reducible (first
      | assumption | apply each_tidy | intro _ _ _ | intro _ _ | apply clearPause_tidy)
    | exact wf

theorem budgetEdge_tidy (i : Nat) (s : State) (wf : s.tidy) : (budgetEdge i s).tidy := by
  unfold budgetEdge
  dsimp only
  repeat' first
    | with_reducible (first
      | exact wf | apply ite_tidy | apply modSide_tidy | apply closeSeat_tidy)
    | split
    | exact wf

theorem setChunkDef_tidy (c v : Nat) (s : State) (wf : s.tidy) : (setChunkDef c v s).tidy := by
  unfold setChunkDef
  dsimp only
  repeat' first
    | with_reducible (first
      | exact wf | apply ite_tidy | apply setFld_tidy | apply bump_tidy)
    | split
    | exact wf

theorem tuneChunks_tidy (s : State) (wf : s.tidy) : (tuneChunks s).tidy := by
  unfold tuneChunks
  dsimp only
  repeat' first
    | with_reducible (first
      | assumption | apply ite_tidy | apply each_tidy | intro _ _ _ | intro _ _ | apply setChunkDef_tidy)
    | split
    | exact wf

theorem windowEdge_tidy (s : State) (wf : s.tidy) : (windowEdge s).tidy := by
  unfold windowEdge
  dsimp only
  repeat' first
    | with_reducible (first
      | assumption | apply each_tidy | intro _ _ _ | intro _ _ | apply bump_tidy | apply exhaustSeats_tidy
      | apply refillPots_tidy | apply attain_tidy | apply budgetResume_tidy | apply budgetEdge_tidy | apply tuneChunks_tidy)
    | exact wf

theorem herWord_tidy (kind epoch through : Nat) (s : State) (wf : s.tidy) : (herWord kind epoch through s).tidy := wf

theorem countToks_tidy (i : Nat) (toks : List Nat) (s : State) (wf : s.tidy) : (countToks i toks s).tidy := by
  unfold countToks
  dsimp only
  repeat' first
    | with_reducible (first
      | assumption | apply ite_tidy | apply each_tidy | intro _ _ _ | intro _ _ | apply setFlag_tidy | apply bump_tidy
      | apply modSeat_tidy | apply modSide_tidy | apply modSieve_tidy)
    | split
    | exact wf

theorem afterTrick_tidy (i : Nat) (r : Result) (s : State) (wf : s.tidy) : (afterTrick i r s).tidy := by
  unfold afterTrick
  dsimp only
  repeat' first
    | with_reducible (first
      | exact wf | apply ite_tidy | apply bump_tidy | apply modSeat_tidy)
    | split
    | exact wf

theorem afterPlain_tidy (i : Nat) (s : State) (wf : s.tidy) : (afterPlain i s).tidy := by
  unfold afterPlain
  dsimp only
  repeat' first
    | with_reducible (first
      | exact wf | apply ite_tidy | apply bump_tidy | apply modSeat_tidy)
    | split
    | exact wf

theorem updDraft_tidy (i : Nat) (r : Result) (s : State) (wf : s.tidy) : (updDraft i r s).tidy := by
  unfold updDraft
  dsimp only
  repeat' first
    | with_reducible (first
      | exact wf | apply ite_tidy | apply afterTrick_tidy | apply afterPlain_tidy)
    | split
    | exact wf

theorem debitToks_tidy (i n : Nat) (s : State) (wf : s.tidy) : (debitToks i n s).tidy := by
  unfold debitToks
  dsimp only
  repeat' first
    | with_reducible (first
      | exact wf | apply ite_tidy | apply debit_tidy)
    | split
    | exact wf

theorem takeToks_tidy (i : Nat) (toks : List Nat) (s : State) (wf : s.tidy) : (takeToks i toks s).tidy := by
  unfold takeToks
  dsimp only
  repeat' first
    | with_reducible (first
      | exact wf | apply ite_tidy | apply bumpN_tidy | apply modSeat_tidy | apply modSide_tidy | apply modDeals_tidy
      | apply modSplit_tidy | apply countToks_tidy | apply debitToks_tidy)
    | split
    | exact wf

theorem resultState_tidy (i : Nat) (r : Result) (s : State) (wf : s.tidy) : (resultState i r s).tidy := by
  unfold resultState
  dsimp only
  repeat' first
    | with_reducible (first
      | exact wf | apply ite_tidy | apply modSeat_tidy | apply modSide_tidy)
    | split
    | exact wf

theorem writeSeat_tidy (r : Result) (s : State) (wf : s.tidy) : (writeSeat r s).tidy := by
  unfold writeSeat
  dsimp only
  repeat' first
    | with_reducible (first
      | exact wf | apply ite_tidy | apply bumpN_tidy | apply bump_tidy | apply updDraft_tidy | apply takeToks_tidy
      | apply resultState_tidy)
    | split
    | exact wf

theorem writeBack_tidy (x : DealSeat) (s : State) (wf : s.tidy) : (writeBack x s).tidy := by
  unfold writeBack
  dsimp only
  repeat' first
    | with_reducible (first
      | exact wf | apply ite_tidy | apply modSeat_tidy | apply writeSeat_tidy)
    | split
    | exact wf

theorem completeBlocks_tidy (i : Nat) (s : State) (wf : s.tidy) : (completeBlocks i s).tidy := by
  unfold completeBlocks
  dsimp only
  repeat' first
    | with_reducible (first
      | assumption | apply ite_tidy | apply each_tidy | intro _ _ _ | intro _ _ | apply modSide_tidy
      | apply completeBlock_tidy)
    | split
    | exact wf

theorem recordResults_tidy (r : Running) (done : Nat) (s : State) (wf : s.tidy) : (recordResults r done s).tidy := by
  unfold recordResults
  dsimp only
  repeat' first
    | with_reducible (first
      | exact wf | apply ite_tidy | apply setReg_tidy | apply trace_tidy)
    | split
    | exact wf

theorem sendTokens_tidy (r : Result) (s : State) (wf : s.tidy) : (sendTokens r s).tidy := by
  unfold sendTokens
  dsimp only
  repeat' first
    | with_reducible (first
      | exact wf | apply ite_tidy | apply modSide_tidy | apply leave_tidy | apply sendFor_tidy)
    | split
    | exact wf

theorem finalReason_tidy (i : Nat) (s : State) (wf : s.tidy) : (finalReason i s).tidy := by
  unfold finalReason
  try dsimp only
  repeat' first
    | with_reducible (first
      | assumption | apply ite_tidy | apply modSide_tidy | apply closeOut_tidy | apply enterDraining_tidy)
    | split
    | exact wf

theorem boundaryCloses_tidy (s : State) (wf : s.tidy) : (boundaryCloses s).tidy := by
  unfold boundaryCloses
  repeat' first
    | with_reducible (first
      | assumption | apply each_tidy | intro _ _ _ | intro _ _ | apply finalReason_tidy)
    | exact wf

theorem lapseOwner_tidy (g : Nat) (s : State) (wf : s.tidy) : (lapseOwner g s).tidy := by
  unfold lapseOwner
  try dsimp only
  repeat' first
    | with_reducible (first
      | assumption | apply ite_tidy | apply modReq_tidy)
    | split
    | exact wf

theorem lapseLeases_tidy (s : State) (wf : s.tidy) : (lapseLeases s).tidy := by
  unfold lapseLeases
  dsimp only
  repeat' first
    | with_reducible (first
      | assumption | apply ite_tidy | apply each_tidy | intro _ _ _ | intro _ _ | apply modSide_tidy | apply modPorts_tidy
      | apply giveBack_tidy | apply lapseOwner_tidy)
    | split
    | exact wf

theorem boundaryPauses_tidy (epoch : Nat) (s : State) (wf : s.tidy) : (boundaryPauses epoch s).tidy := by
  unfold boundaryPauses
  try dsimp only
  repeat' first
    | with_reducible (first
      | assumption | apply each_tidy | apply each2_tidy | intro _ _ _ | intro _ _ | apply pauseSeat_tidy
      | apply lapseLeases_tidy)
    | exact wf

theorem undeal_tidy (s : State) (wf : s.tidy) : (undeal s).tidy := by
  unfold undeal
  try dsimp only
  repeat' first
    | with_reducible (first
      | assumption | apply ite_tidy | apply each_tidy | apply each2_tidy | intro _ _ _ | intro _ _ | apply modSeat_tidy)
    | split
    | exact wf

theorem swapBanks_tidy (s : State) (wf : s.tidy) : (swapBanks s).tidy := by
  unfold swapBanks
  try dsimp only
  repeat' first
    | with_reducible (first
      | assumption | apply ite_tidy | apply setFld_tidy | apply modDeals_tidy)
    | split
    | exact wf

theorem traceMarker_tidy (epoch : Nat) (s : State) (wf : s.tidy) : (traceMarker epoch s).tidy := by
  unfold traceMarker
  dsimp only
  repeat' first
    | with_reducible (first
      | exact wf | apply ite_tidy | apply trace_tidy)
    | split
    | exact wf

theorem applyDeferred_tidy (s : State) (h : s.tidy) : (applyDeferred s).tidy := by
  obtain ⟨h1, h2, h3, h4, h5, h6, h7, h8, h9⟩ := h
  have k : ∀ x : State, x.tidy → (if x.portOpen .F then candCfg x.epochNext x else x).tidy :=
    fun x h => ite_tidy (candCfg_tidy _ _ h) h
  unfold applyDeferred
  refine k _ ?_
  dsimp only
  split
  · exact ⟨h1, h1, h3, h4, h5, h6, h7, h8, h9⟩
  · exact ⟨h1, h1, h3, h4, h5, h6, h7, h8, h9⟩

theorem snapDue_tidy (s : State) (wf : s.tidy) : (snapDue s).tidy := by
  unfold snapDue
  try dsimp only
  repeat' first
    | with_reducible (first
      | assumption | exact rfl | apply ite_tidy | apply modObs_tidy | apply takeSnap_tidy)
    | split
    | exact wf

theorem boundaryWrites_tidy (epoch : Nat) (s : State) (wf : s.tidy) : (boundaryWrites epoch s).tidy := by
  unfold boundaryWrites
  dsimp only
  repeat' first
    | with_reducible (first
      | exact wf | apply setFld_tidy | apply swapBanks_tidy | apply traceMarker_tidy | apply applyDeferred_tidy
      | apply snapDue_tidy)
    | exact wf

theorem discardHanded_tidy (s : State) (wf : s.tidy) : (discardHanded s).2.tidy := by
  unfold discardHanded
  dsimp only
  repeat' first
    | with_reducible (first
      | exact wf | apply bump_tidy | apply modDeals_tidy | apply modPorts_tidy | apply endBindings_tidy | apply herWord_tidy)
    | split
    | exact wf

theorem cutDealerWait_tidy (s : State) (wf : s.tidy) : (cutDealerWait s).tidy := by
  unfold cutDealerWait
  repeat' first
    | with_reducible (first
      | exact wf | apply ite_tidy | apply trace_tidy)
    | split
    | exact wf

theorem setStopped_tidy (mode discarded : Nat) (s : State) (wf : s.tidy) : (setStopped mode discarded s).tidy := by
  unfold setStopped
  dsimp only
  repeat' first
    | with_reducible (first
      | exact wf | apply ite_tidy | apply setFld_tidy | apply bump_tidy | apply modDeals_tidy | apply trace_tidy
      | apply idleActions_tidy)
    | split
    | exact wf

theorem pauseSplits_tidy (epoch : Nat) (s : State) (wf : s.tidy) : (pauseSplits epoch s).tidy := by
  unfold pauseSplits
  dsimp only
  repeat' first
    | with_reducible (first
      | assumption | apply each_tidy | intro _ _ _ | intro _ _ | apply tellFollowers_tidy)
    | exact wf

theorem haltCut_tidy (mode : Nat) (s : State) (wf : s.tidy) : (haltCut mode s).tidy := by
  unfold haltCut
  dsimp only
  repeat' first
    | with_reducible (first
      | assumption | apply ite_tidy | apply each_tidy | intro _ _ _ | intro _ _ | apply setReg_tidy | apply setFld_tidy
      | apply modSeat_tidy | apply modDeals_tidy | apply endHold_tidy | apply freezeGates_tidy | apply discardHanded_tidy
      | apply cutDealerWait_tidy | apply setStopped_tidy | apply pauseSplits_tidy)
    | split
    | exact wf

theorem completeDeal_tidy (r : Running) (done : Nat) (s : State) (wf : s.tidy) : (completeDeal r done s).tidy := by
  unfold completeDeal
  dsimp only
  repeat' first
    | with_reducible (first
      | exact wf | apply setFld_tidy | apply modDeals_tidy | apply hotRetry_tidy | apply chipAtComplete_tidy
      | apply ringDone_tidy | apply endHold_tidy | apply applyOps_tidy | apply herWord_tidy | apply recordResults_tidy)
    | exact wf

theorem stepTwo_tidy (r : Running) (s : State) (wf : s.tidy) : (stepTwo r s).tidy := by
  unfold stepTwo
  dsimp only
  repeat' first
    | with_reducible (first
      | assumption | apply each_tidy | intro _ _ _ | intro _ _ | apply updEstimators_tidy | apply writeBack_tidy
      | apply completeBlocks_tidy)
    | exact wf

theorem stepsThreeToSeven_tidy (r : Running) (s : State) (wf : s.tidy) : (stepsThreeToSeven r s).tidy := by
  unfold stepsThreeToSeven
  dsimp only
  repeat' first
    | with_reducible (first
      | assumption | apply each_tidy | intro _ _ _ | intro _ _ | apply finishDraining_tidy | apply endBindings_tidy
      | apply exhaustSeats_tidy | apply dropCheck_tidy | apply loadEval_tidy | apply sendTokens_tidy
      | apply boundaryCloses_tidy | apply boundaryPauses_tidy | apply undeal_tidy)
    | exact wf

theorem afterBoundary_tidy (epoch : Nat) (s : State) (wf : s.tidy) : (afterBoundary epoch s).tidy := by
  unfold afterBoundary
  dsimp only
  repeat' first
    | with_reducible (first
      | exact wf | apply ite_tidy | apply setFlag_tidy | apply bump_tidy | apply sendFeed_tidy | apply endBoundary_tidy
      | apply haltCut_tidy)
    | split
    | exact wf

theorem dealComplete_tidy (r : Running) (done : Nat) (s : State) (wf : s.tidy) : (dealComplete r done s).tidy := by
  unfold dealComplete
  dsimp only
  repeat' first
    | with_reducible (first
      | exact wf | apply modSieve_tidy | apply spillOrders_tidy | apply boundaryWrites_tidy | apply completeDeal_tidy
      | apply stepTwo_tidy | apply stepsThreeToSeven_tidy | apply afterBoundary_tidy)
    | exact wf

theorem openRows_tidy (feed : List FeedEnt) (voided : List Nat) (seats : List DealSeat) (s : State) (wf : s.tidy) :
    (openRows feed voided seats s).tidy := wf

theorem dealSeat_tidy (epoch : Nat) (x : DealSeat) (s : State) (wf : s.tidy) : (dealSeat epoch x s).tidy := by
  unfold dealSeat
  try dsimp only
  repeat' first
    | with_reducible (first
      | assumption | apply ite_tidy | apply modSeat_tidy)
    | split
    | exact wf

theorem giveLease_tidy (x : DealSeat) (s : State) (wf : s.tidy) : (giveLease x s).tidy := by
  unfold giveLease
  dsimp only
  repeat' first
    | with_reducible (first
      | exact wf | apply ite_tidy | apply modSide_tidy | apply modPorts_tidy)
    | split
    | exact wf

theorem setAside_tidy (p : Port) (n : Nat) (s : State) (wf : s.tidy) : (setAside p n s).tidy := by
  unfold setAside
  try dsimp only
  repeat' first
    | with_reducible (first
      | assumption | apply ite_tidy | apply modSess_tidy)
    | split
    | exact wf

theorem giveLeases_tidy (d : Deal) (s : State) (wf : s.tidy) : (giveLeases d s).tidy := by
  unfold giveLeases
  dsimp only
  repeat' first
    | with_reducible (first
      | assumption | apply each_tidy | intro _ _ _ | intro _ _ | apply takeFree_tidy | apply modPorts_tidy
      | apply giveLease_tidy | apply setAside_tidy)
    | exact wf

theorem stampUse_tidy (d : Deal) (s : State) (wf : s.tidy) : (stampUse d s).tidy := by
  unfold stampUse
  dsimp only
  repeat' first
    | with_reducible (first
      | assumption | apply ite_tidy | apply each_tidy | intro _ _ _ | intro _ _ | apply modModel_tidy | apply modBlk_tidy)
    | split
    | exact wf

theorem countLaunch_tidy (d : Deal) (feed : List FeedEnt) (voided : List Nat) (s : State) (wf : s.tidy) :
    (countLaunch d feed voided s).tidy := by
  unfold countLaunch
  dsimp only
  repeat' first
    | with_reducible (first
      | assumption | apply ite_tidy | apply each_tidy | intro _ _ _ | intro _ _ | apply setFld_tidy | apply bumpN_tidy
      | apply bump_tidy)
    | split
    | exact wf

theorem followSeat_tidy (epoch : Nat) (voided : List Nat) (x : DealSeat) (s : State) (wf : s.tidy) :
    (followSeat epoch voided x s).tidy := by
  unfold followSeat
  try dsimp only
  repeat' first
    | with_reducible (first
      | assumption | apply ite_tidy | apply modDeals_tidy)
    | split
    | exact wf

theorem goEntry_tidy (d : Deal) (feed : List FeedEnt) (voided : List Nat) (x : DealSeat) (s : State) (wf : s.tidy) :
    (goEntry d feed voided x s).tidy := by
  unfold goEntry
  repeat' first
    | with_reducible (first
      | exact wf | apply ite_tidy | apply goSeat_tidy)
    | split
    | exact wf

theorem launchDeal_tidy (d : Deal) (s : State) (wf : s.tidy) : (launchDeal d s).tidy := by
  unfold launchDeal
  dsimp only
  repeat' first
    | with_reducible (first
      | assumption | apply ite_tidy | apply each_tidy | intro _ _ _ | intro _ _ | apply modDeals_tidy | apply closeUsers_tidy
      | apply endHold_tidy | apply sievePump_tidy | apply herWord_tidy | apply openRows_tidy | apply dealSeat_tidy
      | apply giveLeases_tidy | apply stampUse_tidy | apply countLaunch_tidy | apply followSeat_tidy | apply goEntry_tidy)
    | split
    | exact wf

theorem releaseLayers_tidy (r : Running) (s : State) (wf : s.tidy) : (releaseLayers r s).tidy := by
  unfold releaseLayers
  dsimp only
  repeat' first
    | with_reducible (first
      | exact wf | apply ite_tidy | apply modDeals_tidy | apply endHold_tidy | apply herWord_tidy)
    | split
    | exact wf

theorem layerDone_tidy (r : Running) (layer : Nat) (s : State) (wf : s.tidy) : (layerDone r layer s).tidy := wf

theorem stopAck_tidy (r : Running) (ahead : Nat) (recs : List OpsRec) (s : State) (wf : s.tidy) :
    (stopAck r ahead recs s).tidy := by
  unfold stopAck
  dsimp only
  repeat' first
    | with_reducible (first
      | assumption | apply ite_tidy | apply each_tidy | intro _ _ _ | intro _ _ | apply setReg_tidy | apply setFld_tidy
      | apply modSide_tidy | apply modDeals_tidy | apply closeSeat_tidy | apply hotRetry_tidy | apply chipAtComplete_tidy
      | apply ringDone_tidy | apply addAll_tidy | apply applyOps_tidy | apply setStopped_tidy)
    | split
    | exact wf

theorem traceCut_tidy (kind epoch waitFor waiter layer start detail : Nat) (s : State) (wf : s.tidy) :
    (traceCut kind epoch waitFor waiter layer start detail s).tidy := by
  unfold traceCut
  dsimp only
  repeat' first
    | with_reducible (first
      | exact wf | apply ite_tidy | apply trace_tidy)
    | split
    | exact wf

theorem cutOpen_tidy (s : State) (wf : s.tidy) : (cutOpen s).tidy := by
  unfold cutOpen
  dsimp only
  repeat' first
    | with_reducible (first
      | assumption | apply ite_tidy | apply each_tidy | intro _ _ _ | intro _ _ | apply trace_tidy | apply traceCut_tidy)
    | split
    | exact wf

theorem cutWaits_tidy (r : Running) (s : State) (wf : s.tidy) : (cutWaits r s).tidy := by
  unfold cutWaits
  dsimp only
  repeat' first
    | with_reducible (first
      | exact wf | apply trace_tidy | apply endHold_tidy | apply cutOpen_tidy | apply epochDone_tidy)
    | split
    | exact wf

theorem recordLanes_tidy (epoch : Nat) (s : State) (wf : s.tidy) : (recordLanes epoch s).tidy := by
  unfold recordLanes
  dsimp only
  repeat' first
    | with_reducible (first
      | exact wf | apply ite_tidy | apply setReg_tidy | apply setFld_tidy)
    | split
    | exact wf

theorem dropRows_tidy (s : State) (wf : s.tidy) : (dropRows s).tidy := wf

theorem unlock_tidy (s : State) (wf : s.tidy) : (unlock s).tidy := wf

theorem stopRunning_tidy (r : Running) (s : State) (wf : s.tidy) : (stopRunning r s).tidy := by
  unfold stopRunning
  dsimp only
  repeat' first
    | with_reducible (first
      | exact wf | exact rfl | apply ite_tidy | apply setFld_tidy | apply modDeals_tidy | apply modObs_tidy
      | apply candBack_tidy | apply endBindings_tidy | apply freezeGates_tidy | apply revokeAll_tidy | apply herWord_tidy
      | apply lapseLeases_tidy | apply discardHanded_tidy | apply pauseSplits_tidy | apply stopAck_tidy | apply cutWaits_tidy
      | apply recordLanes_tidy | apply dropRows_tidy | apply unlock_tidy | apply epochDone_tidy)
    | split
    | exact wf

theorem immediateStop_tidy (s : State) (wf : s.tidy) : (immediateStop s).tidy := by
  unfold immediateStop
  repeat' first
    | with_reducible (first
      | exact wf | apply ite_tidy | apply bump_tidy | apply haltCut_tidy | apply cutOpen_tidy | apply unlock_tidy
      | apply stopRunning_tidy)
    | split
    | exact wf

theorem boundaryStop_tidy (es : Nat) (s : State) (wf : s.tidy) : (boundaryStop es s).tidy := by
  unfold boundaryStop
  dsimp only
  repeat' first
    | with_reducible (first
      | exact wf | apply ite_tidy | apply bump_tidy | apply modDeals_tidy | apply haltCut_tidy)
    | split
    | exact wf

theorem resumeSplits_tidy (s : State) (wf : s.tidy) : (resumeSplits s).tidy := by
  unfold resumeSplits
  dsimp only
  repeat' first
    | with_reducible (first
      | assumption | apply each_tidy | intro _ _ _ | intro _ _ | apply tellFollowers_tidy)
    | exact wf

theorem goNode_tidy (s : State) (wf : s.tidy) : (goNode s).tidy := by
  unfold goNode
  dsimp only
  repeat' first
    | with_reducible (first
      | assumption | apply ite_tidy | apply each_tidy | intro _ _ _ | intro _ _ | apply bump_tidy | apply modSeat_tidy
      | apply modDeals_tidy | apply thawGates_tidy | apply releaseGated_tidy | apply resumeSplits_tidy)
    | split
    | exact wf

theorem epochDone_tidy (epoch ahead : Nat) (abandoned : Bool) (recs : List OpsRec) (s : State) (wf : s.tidy) :
    (epochDone epoch ahead abandoned recs s).tidy := by
  unfold epochDone
  repeat' first
    | with_reducible (first
      | exact wf | apply ite_tidy | apply queueOps_tidy | apply stopAck_tidy)
    | split
    | exact wf

theorem epochSignal_tidy (epoch ahead : Nat) (abandoned : Bool) (recs : List OpsRec) (s : State) (wf : s.tidy) :
    (epochSignal epoch ahead abandoned recs s).tidy := by
  unfold epochSignal
  dsimp only
  repeat' first
    | with_reducible (first
      | exact wf | apply ite_tidy | apply modPwr_tidy | apply epochDone_tidy)
    | split
    | exact wf

theorem releaseLock_tidy (s : State) (wf : s.tidy) : (releaseLock s).tidy := by
  unfold releaseLock
  repeat' first
    | with_reducible (first
      | exact wf | apply unlock_tidy | apply epochDone_tidy)
    | split
    | exact wf

theorem acquireLock_tidy (s : State) (wf : s.tidy) : (acquireLock s).tidy := by
  unfold acquireLock
  try dsimp only
  repeat' first
    | with_reducible (first
      | assumption | apply ite_tidy | apply modPwr_tidy)
    | split
    | exact wf

theorem loseWord_tidy (i w : Nat) (s : State) (h : s.tidy) : (loseWord i w s).tidy := by
  unfold loseWord
  dsimp only
  repeat' first
    | with_reducible exact h
    | with_reducible apply failSeat_tidy
    | with_reducible apply setFlag_tidy
    | with_reducible apply setFld_tidy
    | with_reducible apply bump_tidy
    | with_reducible apply modSeat_tidy
    | with_reducible apply ite_tidy
    | with_reducible exact rfl
    | with_reducible apply modLed_tidy

theorem loseEntry_tidy (i : Nat) (s : State) (h : s.tidy) : (loseEntry i s).tidy := by
  have k := setFlag_tidy F.STAT_LEDGERECC_UE _ (setFld_tidy F.STAT_LEDGERECC_LASTSEAT i _ (bump_tidy 0x09 s h))
  unfold loseEntry
  exact ite_tidy k (modLed_tidy rfl rfl k)

theorem correctedWord_tidy (s : State) (wf : s.tidy) : (correctedWord s).tidy := by
  unfold correctedWord
  repeat' first
    | with_reducible (first
      | exact wf | apply setFld_tidy | apply setFlag_tidy | apply bump_tidy)
    | exact wf

theorem keptEcc_tidy (fixed : Bool) (s : State) (wf : s.tidy) : (keptEcc fixed s).tidy := by
  unfold keptEcc
  repeat' first
    | with_reducible (first
      | exact wf | apply ite_tidy | apply setFlag_tidy | apply bump_tidy)
    | split
    | exact wf

theorem loseContext_tidy (i : Nat) (s : State) (wf : s.tidy) : (loseContext i s).tidy := by
  unfold loseContext
  dsimp only
  repeat' first
    | with_reducible (first
      | exact wf | apply ite_tidy | apply modSide_tidy | apply failSeat_tidy)
    | split
    | exact wf

theorem dropHot_tidy (n : Nat) (s : State) (wf : s.tidy) : (dropHot n s).tidy := wf

theorem scrubSeat_tidy (found : Ecc) (s : State) (h : s.tidy) : (scrubSeat found s).tidy := by
  unfold scrubSeat
  dsimp only
  split
  · exact modLed_tidy rfl rfl h
  · exact correctedWord_tidy _ (modLed_tidy rfl rfl h)
  · exact loseWord_tidy _ _ _ (bump_tidy _ _ (ite_tidy (bump_tidy _ _ (modLed_tidy rfl rfl h)) (modLed_tidy rfl rfl h)))
  · exact modLed_tidy rfl rfl h

theorem scrubWord_tidy (found : Ecc) (s : State) (wf : s.tidy) : (scrubWord found s).tidy := by
  unfold scrubWord
  dsimp only
  repeat' first
    | with_reducible (first
      | exact wf | apply ite_tidy | apply loseEntry_tidy | apply correctedWord_tidy | apply keptEcc_tidy
      | apply loseContext_tidy | apply dropHot_tidy | apply scrubSeat_tidy)
    | split
    | exact wf

end Sys2Proof.Machine
end

