-- ==== Sys2Proof/Laws/TidyPorts.lean ====
section
/-! SUPPORT. Each shared operation keeps the indexed stores in their canonical form (`State.tidy`). Sessions, register writes and power. -/
namespace Sys2Proof.Machine

theorem loseRequest_tidy (ph : Phase) (i : Nat) (s : State) (wf : s.tidy) : (loseRequest ph i s).tidy := by
  unfold loseRequest
  dsimp only
  repeat' first
    | with_reducible (first
      | exact wf | apply ite_tidy | apply bump_tidy | apply modSeat_tidy | apply modSide_tidy | apply settle_tidy
      | apply releaseIndex_tidy | apply closeSeat_tidy | apply atOnceSeat_tidy)
    | split
    | exact wf

theorem loseSeat_tidy (i : Nat) (s : State) (wf : s.tidy) : (loseSeat i s).tidy := by
  unfold loseSeat
  dsimp only
  repeat' first
    | with_reducible (first
      | exact wf | apply ite_tidy | apply freeSeat_tidy | apply dropRun_tidy | apply awaitImage_tidy | apply loseRequest_tidy)
    | split
    | exact wf

theorem lostG_tidy (s : State) (wf : s.tidy) : (lostG s).tidy := by
  unfold lostG
  dsimp only
  repeat' first
    | with_reducible (first
      | assumption | apply each_tidy | intro _ _ _ | intro _ _ | apply modSide_tidy | apply modKv_tidy | apply modPorts_tidy
      | apply modPwr_tidy | apply loseSeat_tidy)
    | exact wf

theorem loseRouted_tidy (i : Nat) (s : State) (wf : s.tidy) : (loseRouted i s).tidy := by
  unfold loseRouted
  repeat' first
    | with_reducible (first
      | exact wf | apply ite_tidy | apply closeSeat_tidy | apply stretchFail_tidy | apply shipFail_tidy)
    | split
    | exact wf

theorem lostP_tidy (s : State) (wf : s.tidy) : (lostP s).tidy := by
  unfold lostP
  repeat' first
    | with_reducible (first
      | assumption | apply each_tidy | intro _ _ _ | intro _ _ | apply loseRouted_tidy)
    | exact wf

theorem lostTag_tidy (e : Nat × TagUse) (s : State) (wf : s.tidy) : (lostTag e s).tidy := by
  unfold lostTag
  try dsimp only
  repeat' first
    | with_reducible (first
      | assumption | apply ite_tidy | apply objDataTaken_tidy | apply putAnswered_tidy | apply fetchMissed_tidy)
    | split
    | exact wf

theorem clearPool_tidy (s : State) (wf : s.tidy) : (clearPool s).tidy := by
  unfold clearPool
  dsimp only
  repeat' first
    | with_reducible (first
      | assumption | apply each_tidy | intro _ _ _ | intro _ _ | apply modKv_tidy | apply setIdx_tidy)
    | exact wf

theorem lostC_tidy (s : State) (wf : s.tidy) : (lostC s).tidy := by
  unfold lostC
  dsimp only
  repeat' first
    | with_reducible (first
      | assumption | apply each_tidy | intro _ _ _ | intro _ _ | apply modSide_tidy | apply modPorts_tidy | apply modPwr_tidy
      | apply lostTag_tidy | apply clearPool_tidy)
    | exact wf

theorem loseSplit_tidy (i : Nat) (s : State) (wf : s.tidy) : (loseSplit i s).tidy := by
  unfold loseSplit
  dsimp only
  repeat' first
    | with_reducible (first
      | exact wf | apply ite_tidy | apply modDeals_tidy | apply failSeat_tidy | apply modSplit_tidy | apply unbind_tidy
      | apply voidRun_tidy)
    | split
    | exact wf

theorem lostN_tidy (peer node : Nat) (s : State) (wf : s.tidy) : (lostN peer node s).tidy := by
  unfold lostN
  dsimp only
  repeat' first
    | with_reducible (first
      | assumption | apply ite_tidy | apply each_tidy | intro _ _ _ | intro _ _ | apply modDeals_tidy
      | apply objDataTaken_tidy | apply loseSplit_tidy)
    | split
    | exact wf

theorem lostT_tidy (s : State) (wf : s.tidy) : (lostT s).tidy := by
  unfold lostT
  dsimp only
  repeat' first
    | with_reducible (first
      | assumption | apply ite_tidy | apply each_tidy | intro _ _ _ | intro _ _ | apply modSeq_tidy | apply tiersChange_tidy)
    | split
    | exact wf

theorem endSession_tidy (p : Port) (peer : Nat) (s : State) (wf : s.tidy) : (endSession p peer s).tidy := by
  unfold endSession
  dsimp only
  repeat' first
    | with_reducible (first
      | exact wf | apply setFlag_tidy | apply bump_tidy | apply modSess_tidy | apply dropQueue_tidy | apply lostG_tidy
      | apply lostP_tidy | apply lostC_tidy | apply lostN_tidy | apply lostT_tidy)
    | split
    | exact wf

theorem dropSession_tidy (p : Port) (peer : Nat) (s : State) (wf : s.tidy) : (dropSession p peer s).tidy := by
  unfold dropSession
  repeat' first
    | with_reducible (first
      | exact wf | apply ite_tidy | apply endSession_tidy)
    | split
    | exact wf

theorem dropPort_tidy (p : Port) (s : State) (wf : s.tidy) : (dropPort p s).tidy := by
  unfold dropPort
  repeat' first
    | with_reducible (first
      | assumption | apply each_tidy | intro _ _ _ | intro _ _ | apply dropSession_tidy)
    | exact wf

theorem sendParts_tidy (l : List (List SagSeat)) (s : State) (h : s.tidy) : (sendParts l s).tidy := by
  induction l generalizing s with
  | nil => simpa only [sendParts] using h
  | cons a r ih =>
    unfold sendParts
    try dsimp only
    repeat' first
      | with_reducible assumption
      | with_reducible apply ite_tidy
      | with_reducible apply ih
      | with_reducible apply send_tidy
      | split

theorem sagReplay_tidy (s : State) (wf : s.tidy) : (sagReplay s).tidy := by
  unfold sagReplay
  repeat' first
    | with_reducible (first
      | exact wf | apply ite_tidy | apply sendParts_tidy)
    | split
    | exact wf

theorem linkRaise_tidy (p : Port) (peer : Nat) (s : State) (wf : s.tidy) : (linkRaise p peer s).tidy := by
  unfold linkRaise
  dsimp only
  repeat' first
    | with_reducible (first
      | exact wf | apply ite_tidy | apply modSess_tidy | apply sendHello_tidy)
    | split
    | exact wf

theorem linkDrop_tidy (p : Port) (peer : Nat) (s : State) (wf : s.tidy) : (linkDrop p peer s).tidy := by
  unfold linkDrop
  dsimp only
  repeat' first
    | with_reducible (first
      | exact wf | apply modSess_tidy | apply dropSession_tidy)
    | exact wf

theorem beginSession_tidy (p : Port) (peer node era : Nat) (opened : Bool) (s : State) (wf : s.tidy) :
    (beginSession p peer node era opened s).tidy := by
  unfold beginSession
  dsimp only
  repeat' first
    | with_reducible (first
      | exact wf | apply ite_tidy | apply modPorts_tidy | apply modPwr_tidy | apply modSess_tidy | apply sendHello_tidy
      | apply takeFull_tidy | apply grantFull_tidy | apply sagReplay_tidy)
    | split
    | exact wf

theorem helloTaken_tidy (p : Port) (peer node era : Nat) (opened : Bool) (s : State) (wf : s.tidy) :
    (helloTaken p peer node era opened s).tidy := by
  unfold helloTaken
  dsimp only
  repeat' first
    | with_reducible (first
      | exact wf | apply ite_tidy | apply setFlag_tidy | apply bump_tidy | apply portCnt_tidy | apply endSession_tidy
      | apply beginSession_tidy)
    | split
    | exact wf

theorem creditTaken_tidy (p : Port) (peer : Nat) (opened : Bool) (beats : Nat) (es : List (BitVec 4 × BitVec 20)) (s : State) (wf : s.tidy) :
    (creditTaken p peer opened beats es s).tidy := by
  unfold creditTaken
  dsimp only
  repeat' first
    | with_reducible (first
      | assumption | apply ite_tidy | apply each_tidy | intro _ _ _ | intro _ _ | apply setFlag_tidy | apply bump_tidy
      | apply modSess_tidy | apply portCnt_tidy)
    | split
    | exact wf

theorem unknownTaken_tidy (p : Port) (peer : Nat) (badLen : Bool) (op : Nat) (word1 : Word) (s : State) (wf : s.tidy) :
    (unknownTaken p peer badLen op word1 s).tidy := by
  unfold unknownTaken
  dsimp only
  repeat' first
    | with_reducible (first
      | exact wf | apply ite_tidy | apply setFlag_tidy | apply bump_tidy | apply modSess_tidy | apply portCnt_tidy
      | apply sendNotReady_tidy | apply badLen_tidy)
    | split
    | exact wf

theorem openPort_tidy (p : Port) (s : State) (wf : s.tidy) : (openPort p s).tidy := by
  unfold openPort
  dsimp only
  repeat' first
    | with_reducible (first
      | assumption | apply ite_tidy | apply each_tidy | intro _ _ _ | intro _ _ | apply setFld_tidy | apply modSieve_tidy
      | apply modPorts_tidy | apply modPwr_tidy | apply grantFull_tidy | apply admissionOpens_tidy | apply candCfg_tidy
      | apply gateThaw_tidy | apply releaseGated_tidy | apply sagReplay_tidy)
    | split
    | exact wf

theorem portOpenWrite_tidy (p : Port) (s : State) (wf : s.tidy) : (portOpenWrite p s).tidy := by
  unfold portOpenWrite
  repeat' first
    | with_reducible (first
      | exact wf | apply ite_tidy | apply openPort_tidy)
    | split
    | exact wf

theorem portDropWrite_tidy (p : Port) (s : State) (wf : s.tidy) : (portDropWrite p s).tidy := by
  unfold portDropWrite
  repeat' first
    | with_reducible (first
      | exact wf | apply ite_tidy | apply dropPort_tidy)
    | split
    | exact wf

theorem gateStore_tidy (off : Nat) (w : Word) (s : State) (wf : s.tidy) : (gateStore off w s).tidy := by
  unfold gateStore
  dsimp only
  repeat' first
    | with_reducible (first
      | exact wf | apply ite_tidy | apply setReg_tidy | apply gateSync_tidy | apply gateWritten_tidy
      | apply releaseGated_tidy)
    | split
    | exact wf

theorem openEffect_tidy (off : Nat) (v : Word) (s : State) (wf : s.tidy) : (openEffect off v s).tidy := by
  unfold openEffect
  repeat' first
    | with_reducible (first
      | exact wf | apply ite_tidy | apply portOpenWrite_tidy)
    | split
    | exact wf

theorem admitNoted_tidy (off : Nat) (s : State) (wf : s.tidy) : (admitNoted off s).tidy := by
  unfold admitNoted
  try dsimp only
  repeat' first
    | with_reducible (first
      | assumption | apply ite_tidy | apply modPwr_tidy)
    | split
    | exact wf

theorem laneWrite_tidy (v : Word) (s : State) (wf : s.tidy) : (laneWrite v s).tidy := by
  unfold laneWrite
  dsimp only
  repeat' first
    | with_reducible (first
      | exact wf | apply ite_tidy | apply setReg_tidy)
    | split
    | exact wf

theorem startEst_tidy (s : State) (wf : s.tidy) : (startEst s).tidy := by
  unfold startEst
  dsimp only
  repeat' first
    | with_reducible (first
      | assumption | apply each_tidy | intro _ _ _ | intro _ _ | apply modCls_tidy)
    | exact wf

theorem greetLinks_tidy (s : State) (wf : s.tidy) : (greetLinks s).tidy := by
  unfold greetLinks
  try dsimp only
  repeat' first
    | with_reducible (first
      | assumption | apply ite_tidy | apply each_tidy | apply each2_tidy | intro _ _ _ | intro _ _ | apply sendHello_tidy)
    | split
    | exact wf

theorem bedrockNext_tidy (s : State) (wf : s.tidy) : (bedrockNext s).tidy := wf

theorem bootClear_tidy (s : State) (wf : s.tidy) : (bootClear s).tidy := wf

theorem fallowEntry_tidy (s : State) (wf : s.tidy) : (fallowEntry s).tidy := by
  unfold fallowEntry
  dsimp only
  repeat' first
    | with_reducible (first
      | assumption | apply ite_tidy | apply each_tidy | intro _ _ _ | intro _ _ | apply modPwr_tidy | apply softFreeze_tidy
      | apply boundaryStop_tidy | apply dropPort_tidy)
    | split
    | exact wf

theorem fallowAbandon_tidy (s : State) (wf : s.tidy) : (fallowAbandon s).tidy := by
  unfold fallowAbandon
  dsimp only
  repeat' first
    | with_reducible (first
      | exact wf | apply modDeals_tidy | apply modPorts_tidy | apply modPwr_tidy | apply greetLinks_tidy)
    | exact wf

theorem wakeGo_tidy (s : State) (wf : s.tidy) : (wakeGo s).tidy := by
  unfold wakeGo
  repeat' first
    | with_reducible (first
      | exact wf | apply ite_tidy | apply finish_tidy | apply goNode_tidy)
    | split
    | exact wf

theorem sagSettle_tidy (i : Nat) (s : State) (wf : s.tidy) : (sagSettle i s).tidy := by
  unfold sagSettle
  dsimp only
  repeat' first
    | with_reducible (first
      | exact wf | apply ite_tidy | apply modTenant_tidy)
    | split
    | exact wf

theorem whenCmd_tidy {f : State → State} {s : State} (hf : ∀ s, s.tidy → (f s).tidy) (h : s.tidy) : (whenCmd f s).tidy := by
  unfold whenCmd
  exact ite_tidy (hf _ h) h

theorem stopBits_tidy (v : Word) (s : State) (wf : s.tidy) : (stopBits v s).tidy := by
  unfold stopBits
  dsimp only
  repeat' first
    | with_reducible (first
      | exact wf | apply ite_tidy | apply bump_tidy | apply immediateStop_tidy | apply boundaryStop_tidy | apply goNode_tidy)
    | split
    | exact wf

theorem modBit_tidy (i : Nat) (s : State) (wf : s.tidy) : (modBit i s).tidy := by
  unfold modBit
  try dsimp only
  repeat' first
    | with_reducible (first
      | assumption | apply hotStart_tidy | apply modRegisterStart_tidy | apply modWithdraw_tidy | apply modReobj_tidy)
    | split
    | exact wf

theorem obsBit_tidy (i : Nat) (s : State) (wf : s.tidy) : (obsBit i s).tidy := by
  unfold obsBit
  repeat' first
    | with_reducible (first
      | assumption | intro _ _ _ | intro _ _ | apply takeSnap_tidy | apply armSnap_tidy | apply clearCounters_tidy
      | apply clearKeep_tidy | apply whenCmd_tidy)
    | split
    | exact wf

end Sys2Proof.Machine
end

