-- ==== Sys2Proof/Laws/Power.lean ====
section
/-! SUPPORT. What the power events, the configuration and the register writes keep: the queue, the part, soundness, the values in
force, and the canonical form of the indexed stores. -/
namespace Sys2Proof.Machine

/-- From `s` to `u` the queue and the part stay, soundness stays, and with `b` the values in force stay. -/
structure Kept (b : Bool) (s u : State) : Prop where
  pending : u.pending = s.pending
  grade : u.grade = s.grade
  sound : s.sound → u.sound
  force : b = true → u.force = s.force

theorem Kept.refl (b : Bool) (s : State) : Kept b s s := ⟨rfl, rfl, id, fun _ => rfl⟩

theorem Kept.trans {b : Bool} {s u v : State} (h : Kept b s u) (k : Kept b u v) : Kept b s v :=
  ⟨k.pending.trans h.pending, k.grade.trans h.grade, fun x => k.sound (h.sound x), fun x => (k.force x).trans (h.force x)⟩

theorem Kept.weak {b : Bool} {s u : State} (h : Kept true s u) : Kept b s u := ⟨h.pending, h.grade, h.sound, fun _ => h.force rfl⟩

theorem sound_of_core {s u : State} (h : u.core = s.core) (k : s.sound) : u.sound := by
  simp only [State.core, Core.mk.injEq] at h
  obtain ⟨-, -, -, h1, h2, h3, -, h4, h5, h6, h7, h8, h9, -⟩ := h
  unfold State.sound at k ⊢
  rw [h1, h2, h3, h4, h5, h6, h7, h8, h9]
  exact k

/-- What leaves the core but for the values in force. -/
theorem Kept.of_core_force {s u : State} (h : u.core = { s.core with force := u.force }) : Kept false s u := by
  refine ⟨congrArg Core.pending h, congrArg Core.grade h, fun k => ?_, fun x => by cases x⟩
  have e : ({ s with force := u.force } : State).core = u.core := h.symm
  exact sound_of_core e.symm k

theorem Kept.of_core {b : Bool} {s u : State} (h : u.core = s.core) : Kept b s u :=
  ⟨congrArg Core.pending h, congrArg Core.grade h, sound_of_core h, fun _ => congrArg Core.force h⟩

/-- STATE moves to 1, 2 or 4, with or without the main domain. -/
theorem Kept.of_state {b : Bool} {s u : State} (n : Nat) (h : u.core = { s.core with state := n }) (k : n = 1 ∨ n = 2 ∨ n = 4) :
    Kept b s u := by
  simp only [State.core, Core.mk.injEq] at h
  obtain ⟨a1, a2, a3, h1, h2, h3, -, h4, h5, h6, h7, h8, h9, -⟩ := h
  refine ⟨a1, a2, fun w => ?_, fun _ => a3⟩
  unfold State.sound at w ⊢
  rw [h1, h2, h3, h4, h5, h6, h7, h8, h9]
  obtain ⟨w1, -, w3, w4, w5⟩ := w
  exact ⟨w1, by omega, w3, fun x => ⟨(w4 x).1, by omega, by omega⟩, w5⟩

/-! The clock. -/

theorem tick_counter (t : BitVec 64) (s : State) (h : s.counter.toNat % 16 = 0) : (tick t s).counter.toNat % 16 = 0 := by
  unfold tick
  dsimp only
  split
  · rw [BitVec.toNat_ofNat]; omega
  · exact h

theorem tick_core (t : BitVec 64) (s : State) : (tick t s).core = { s.core with counter := (tick t s).counter } := by
  unfold tick
  dsimp only
  split <;> rfl

theorem tick_kept (t : BitVec 64) (s : State) : Kept true s (tick t s) := by
  have h := tick_core t s
  simp only [State.core, Core.mk.injEq] at h
  obtain ⟨a1, a2, a3, -, h2, h3, -, h4, h5, h6, h7, h8, h9, -⟩ := h
  refine ⟨a1, a2, fun w => ?_, fun _ => a3⟩
  unfold State.sound at w ⊢
  rw [h2, h3, h4, h5, h6, h7, h8, h9]
  exact ⟨tick_counter t s w.1, w.2⟩

theorem idleStep_kept (s : State) : Kept true s (idleStep s) := by
  unfold idleStep
  split
  · refine ⟨rfl, rfl, fun w => ?_, fun _ => rfl⟩
    unfold State.sound at w ⊢
    refine ⟨?_, w.2⟩
    have := w.1
    rw [show (s.counter + 16).toNat = (s.counter.toNat + 16) % 2 ^ 64 from BitVec.toNat_add ..]
    omega
  · exact Kept.refl ..

/-! Sequences of actions that may stop. -/

theorem andThen_next {o : Host.Outcome State Fault Refusal} {f : State → Host.Outcome State Fault Refusal} {u : State}
    (h : andThen o f = .next u) : ∃ v, o = .next v ∧ f v = .next u := by
  cases o with
  | next v => exact ⟨v, rfl, h⟩
  | fault r => cases h
  | refused r => cases h

theorem ite_next {c : Prop} [Decidable c] {r : Fault} {o : Host.Outcome State Fault Refusal} {u : State}
    (h : (if c then .fault r else o) = .next u) : o = .next u := by
  split at h
  · cases h
  · exact h

theorem eachDo_keeps {α : Type} {f : α → State → Host.Outcome State Fault Refusal} {P : State → State → Prop}
    (refl : ∀ s, P s s) (trans : ∀ s u v, P s u → P u v → P s v) (h : ∀ a s u, f a s = .next u → P s u) (l : List α) :
    ∀ s u, eachDo f l s = .next u → P s u := by
  induction l with
  | nil => intro s u k; cases k; exact refl s
  | cons a l ih =>
    intro s u k
    obtain ⟨v, hv, k⟩ := andThen_next k
    exact trans _ _ _ (h _ _ _ hv) (ih _ _ k)

theorem eachDo_kept {α : Type} {b : Bool} {f : α → State → Host.Outcome State Fault Refusal}
    (h : ∀ a s u, f a s = .next u → Kept b s u) {l : List α} {s u : State} (k : eachDo f l s = .next u) : Kept b s u :=
  eachDo_keeps (Kept.refl b) (fun _ _ _ => Kept.trans) h l s u k

theorem eachDo_tidy {α : Type} {f : α → State → Host.Outcome State Fault Refusal}
    (h : ∀ a s u, f a s = .next u → s.tidy → u.tidy) {l : List α} {s u : State} (k : eachDo f l s = .next u) (wf : s.tidy) : u.tidy :=
  eachDo_keeps (P := fun s u => s.tidy → u.tidy) (fun _ x => x) (fun _ _ _ p q x => q (p x)) h l s u k wf

/-! Register writes. -/

theorem tenantWrite_next {i : Nat} {v : Word} {s u : State} (h : tenantWrite i v s = .next u) :
    u = modTenant (s.fld F.ADM_TSEL_TENANT) (tenantWord i v) s := by
  unfold tenantWrite at h
  split at h
  · cases h
  · cases h; rfl

theorem slotWrite_next {v : Word} {s u : State} (h : slotWrite v s = .next u) : ∃ f, u = modDeals f s := by
  unfold slotWrite at h
  dsimp only at h
  split at h
  · cases h
  split at h
  · cases h
  · cases h; exact ⟨_, rfl⟩

theorem splitWrite_next {v : Word} {s u : State} (h : splitWrite v s = .next u) : u = s ∨ ∃ f, u = modDeals f s := by
  unfold splitWrite at h
  dsimp only at h
  split at h
  · cases h; exact .inl rfl
  split at h
  · cases h
  · cases h; exact .inr ⟨_, rfl⟩

theorem digWrite_next {v : Word} {s u : State} (h : digWrite v s = .next u) : u = s ∨ ∃ d, u = modObs (fun o => { o with dig := d }) s := by
  unfold digWrite at h
  repeat' split at h
  all_goals first
    | cases h; done
    | (cases h; exact .inl rfl)
    | (cases h; exact .inr ⟨_, rfl⟩)

theorem nextEpochWrite_next {img : Bool} {v : Word} {s u : State} (h : nextEpochWrite img v s = .next u) : ∃ f, u = modDeals f s := by
  unfold nextEpochWrite at h
  dsimp only at h
  split at h
  · cases h
  split at h
  · cases h
  · cases h; exact ⟨_, rfl⟩

theorem portOpenWrite_kept {b : Bool} (p : Port) (s : State) : Kept b s (portOpenWrite p s) := by
  have h := portOpenWrite_core p s
  split at h
  · exact Kept.of_state 1 h (.inl rfl)
  · exact Kept.of_core h

theorem openEffect_kept {b : Bool} (off : Nat) (v : Word) (s : State) : Kept b s (openEffect off v s) := by
  rcases openEffect_core off v s with h | ⟨-, h⟩
  · exact Kept.of_core h
  · exact Kept.of_state 1 h (.inl rfl)

theorem fieldWrite_kept {b img : Bool} {r : RegDef} {v : Word} {s u : State} (h : fieldWrite img r v s = .next u) : Kept b s u := by
  unfold fieldWrite at h
  dsimp only at h
  repeat' split at h
  all_goals first
    | cases h; done
    | (obtain ⟨f, rfl⟩ := nextEpochWrite_next h; exact Kept.of_core (modDeals_core ..))
    | (cases h; exact Kept.of_core (laneWrite_core ..))
    | (cases h; exact Kept.of_core (setReg_core ..))
    | (cases h
       exact ((Kept.of_core (gateStore_core ..)).trans (openEffect_kept ..)).trans (Kept.of_core (admitNoted_core ..)))

theorem storeWrite_kept {b img : Bool} {off : Nat} {v : Word} {s u : State} (h : storeWrite img off v s = .next u) : Kept b s u := by
  unfold storeWrite at h
  split at h
  · rw [tenantWrite_next h]; exact Kept.of_core (modTenant_core ..)
  split at h
  · obtain ⟨f, rfl⟩ := slotWrite_next h; exact Kept.of_core (modDeals_core ..)
  split at h
  · rcases splitWrite_next h with rfl | ⟨f, rfl⟩
    · exact Kept.refl ..
    · exact Kept.of_core (modDeals_core ..)
  split at h
  · rcases digWrite_next h with rfl | ⟨f, rfl⟩
    · exact Kept.refl ..
    · exact Kept.of_core (modObs_core ..)
  split at h
  · cases h; exact Kept.refl ..
  split at h
  · cases h
  split at h
  · exact fieldWrite_kept h
  · cases h; exact Kept.refl ..

theorem fieldWrite_tidy {img : Bool} {r : RegDef} {v : Word} {s u : State} (h : fieldWrite img r v s = .next u) (wf : s.tidy) : u.tidy := by
  unfold fieldWrite at h
  dsimp only at h
  repeat' split at h
  all_goals first
    | cases h; done
    | (obtain ⟨f, rfl⟩ := nextEpochWrite_next h; with_reducible exact modDeals_tidy _ _ wf)
    | (cases h; with_reducible exact laneWrite_tidy _ _ wf)
    | (cases h; with_reducible exact setReg_tidy _ _ _ wf)
    | (cases h
       with_reducible exact admitNoted_tidy _ _ (openEffect_tidy _ _ _ (gateStore_tidy _ _ _ wf)))

theorem storeWrite_tidy {img : Bool} {off : Nat} {v : Word} {s u : State} (h : storeWrite img off v s = .next u) (wf : s.tidy) : u.tidy := by
  unfold storeWrite at h
  split at h
  · rw [tenantWrite_next h]; exact modTenant_tidy _ _ _ wf
  split at h
  · obtain ⟨f, rfl⟩ := slotWrite_next h; exact modDeals_tidy _ _ wf
  split at h
  · rcases splitWrite_next h with rfl | ⟨f, rfl⟩
    · exact wf
    · exact modDeals_tidy _ _ wf
  split at h
  · rcases digWrite_next h with rfl | ⟨f, rfl⟩
    · exact wf
    · exact wf
  split at h
  · cases h; exact wf
  split at h
  · cases h
  split at h
  · exact fieldWrite_tidy h wf
  · cases h; exact wf

/-! Starts and the configuration. -/

theorem bootClear_kept {b : Bool} (s : State) : Kept b s (bootClear s) := by
  refine ⟨rfl, rfl, fun w => ?_, fun _ => rfl⟩
  unfold State.sound at w ⊢
  exact ⟨w.1, w.2.1, w.2.2.1, w.2.2.2.1, by simp [bootClear], w.2.2.2.2.2⟩

theorem bedrockNext_kept {b : Bool} (s : State) : Kept b s (bedrockNext s) := by
  refine ⟨rfl, rfl, fun w => ?_, fun _ => rfl⟩
  unfold State.sound at w ⊢
  exact ⟨w.1, w.2.1, w.2.2.1, w.2.2.2.1, by simp [bedrockNext], w.2.2.2.2.2⟩

theorem startWake_core (s : State) : (startWake s).core = { s.core with state := 4 } := by
  have h : ∀ (x : State) (e : Est), ({ x with est := e } : State).core = x.core := fun _ _ => rfl
  have k : ∀ n, (bump 0xF5 (bumpN 0xF6 n (modPwr (fun p => { p with state := 4, wakeAt := s.now }) s))).core
      = { s.core with state := 4 } := fun n => by rw [bump_core, bumpN_core]; rfl
  unfold startWake
  dsimp only
  split
  · exact k _
  · exact (h _ _).trans (k _)

theorem wakeWrite_kept {b : Bool} (s : State) : Kept b s (wakeWrite s) := by
  unfold wakeWrite
  split
  · exact Kept.of_state 4 (startWake_core s) (by decide)
  · exact Kept.refl ..

theorem cmdBit_kept {b : Bool} {off i : Nat} {s u : State} (h : cmdBit off i s = .next u) : Kept b s u := by
  unfold cmdBit at h
  split at h
  all_goals first
    | (cases h
       first
       | exact Kept.of_core (whenCmd_core acquireLock_core rfl) | exact Kept.of_core (releaseLock_core ..)
       | exact bootClear_kept _ | exact bedrockNext_kept _
       | exact Kept.of_core (whenCmd_core registerObj_core rfl) | exact Kept.of_core (whenCmd_core withdrawObj_core rfl)
       | exact Kept.of_core (whenCmd_core popObj_core rfl) | exact Kept.of_core (whenCmd_core (modBit_core _) rfl)
       | exact Kept.of_core (whenCmd_core modPop_core rfl) | exact Kept.of_core (obsBit_core ..)
       | exact Kept.of_core (whenCmd_core fireNow_core rfl) | exact wakeWrite_kept _ | exact Kept.refl ..)
    | (split at h
       all_goals (cases h
                  try first
                  | exact Kept.of_core (whenCmd_core armTrace_core rfl)
                  | exact Kept.of_core (whenCmd_core (revokeWrite_core _) rfl)
                  | exact Kept.of_core (portDropWrite_core ..) | exact Kept.refl ..))

theorem commands_kept {b : Bool} {off : Nat} {v : Word} {s u : State} (h : commands off v s = .next u) : Kept b s u := by
  unfold commands at h
  split at h
  · cases h; exact Kept.refl ..
  · dsimp only at h
    split at h
    · cases h
    split at h
    · cases h; exact Kept.refl ..
    split at h
    · cases h; exact Kept.of_core (whenCmd_core (stopBits_core _) rfl)
    · exact eachDo_kept (fun _ _ _ => cmdBit_kept) h

theorem registerWrite_kept {b : Bool} {off : Nat} {v : Word} {s u : State} (h : registerWrite off v s = .next u) : Kept b s u := by
  unfold registerWrite at h
  split at h
  · cases h
  · obtain ⟨x, hx, h⟩ := andThen_next h
    obtain ⟨y, hy, hx⟩ := andThen_next hx
    cases h
    exact ((storeWrite_kept hy).trans (commands_kept hx)).trans (Kept.of_core (finish_core ..))

theorem wakeWrite_tidy (s : State) (wf : s.tidy) : (wakeWrite s).tidy := by
  unfold wakeWrite
  split
  · have k : ∀ n, (bump 0xF5 (bumpN 0xF6 n (modPwr (fun p => { p with state := 4, wakeAt := s.now }) s))).tidy :=
      fun n => bump_tidy _ _ (bumpN_tidy _ _ _ (modPwr_tidy _ _ wf))
    unfold startWake
    dsimp only
    split <;> exact k _
  · exact wf

theorem cmdBit_tidy {off i : Nat} {s u : State} (h : cmdBit off i s = .next u) (wf : s.tidy) : u.tidy := by
  unfold cmdBit at h
  split at h
  all_goals first
    | (cases h
       with_reducible first
       | exact whenCmd_tidy acquireLock_tidy wf | exact releaseLock_tidy _ wf
       | exact bootClear_tidy _ wf | exact bedrockNext_tidy _ wf
       | exact whenCmd_tidy registerObj_tidy wf | exact whenCmd_tidy withdrawObj_tidy wf
       | exact whenCmd_tidy popObj_tidy wf | exact whenCmd_tidy (modBit_tidy _) wf
       | exact whenCmd_tidy modPop_tidy wf | exact obsBit_tidy _ _ wf
       | exact whenCmd_tidy fireNow_tidy wf | exact wakeWrite_tidy _ wf | exact wf)
    | (split at h
       all_goals (cases h
                  try with_reducible first
                  | exact whenCmd_tidy armTrace_tidy wf
                  | exact whenCmd_tidy (revokeWrite_tidy _) wf
                  | exact portDropWrite_tidy _ _ wf | exact wf))

theorem registerWrite_tidy {off : Nat} {v : Word} {s u : State} (h : registerWrite off v s = .next u) (wf : s.tidy) : u.tidy := by
  unfold registerWrite at h
  split at h
  · cases h
  · obtain ⟨x, hx, h⟩ := andThen_next h
    obtain ⟨y, hy, hx⟩ := andThen_next hx
    cases h
    refine finish_tidy _ ?_
    have k := storeWrite_tidy hy wf
    unfold commands at hx
    split at hx
    · cases hx; exact k
    · dsimp only at hx
      split at hx
      · cases hx
      split at hx
      · cases hx; exact k
      split at hx
      · cases hx; exact whenCmd_tidy (stopBits_tidy _) k
      · exact eachDo_tidy (fun _ _ _ => cmdBit_tidy) hx k

theorem tableOf_above {α : Type} [DecidableEq α] {d : Nat → α} (l : List α) : ∀ m n, m < n → tabove m (tableOf d n l) = true := by
  induction l with
  | nil => intro m n _; rfl
  | cons a l ih =>
    intro m n h
    unfold tableOf
    split
    · exact ih m (n + 1) (by omega)
    · simp only [tabove, Bool.and_eq_true, decide_eq_true_eq]; exact ⟨h, ih m (n + 1) (by omega)⟩

/-- A table built from a list is in canonical form. -/
theorem twf_tableOf {α : Type} [DecidableEq α] {d : Nat → α} (l : List α) : ∀ n, twf d (tableOf d n l) = true := by
  induction l with
  | nil => intro n; rfl
  | cons a l ih =>
    intro n
    unfold tableOf
    split
    · exact ih (n + 1)
    · rename_i h
      simp only [twf, Bool.and_eq_true, decide_eq_true_eq]
      exact ⟨⟨h, tableOf_above l n (n + 1) (by omega)⟩, ih (n + 1)⟩

theorem imageEntry_next {e : Nat × Word} {s u : State} (h : imageEntry e s = .next u) : storeWrite true e.1 e.2 s = .next u := by
  unfold imageEntry at h
  exact ite_next (ite_next h)

theorem applySection_kept {b : Bool} {x : Section} {s u : State} (h : applySection x s = .next u) : Kept b s u := by
  unfold applySection at h
  split at h
  · cases h; exact Kept.of_core (modPwr_core rfl)
  · refine eachDo_kept (fun e s u k => ?_) h
    exact storeWrite_kept (imageEntry_next k)
  · cases h; exact Kept.of_core rfl
  · cases h; exact Kept.of_core (modDeals_core ..)

theorem applySection_tidy {x : Section} {s u : State} (h : applySection x s = .next u) (wf : s.tidy) : u.tidy := by
  unfold applySection at h
  split at h
  · cases h; exact wf
  · refine eachDo_tidy (fun e s u k => ?_) h wf
    exact storeWrite_tidy (imageEntry_next k)
  · cases h
    obtain ⟨a, b, c, d, -, e⟩ := wf
    exact ⟨a, b, c, d, twf_tableOf _ 0, e⟩
  · cases h; exact modDeals_tidy _ _ wf

theorem force_bump {c : Prop} [Decidable c] {n : Nat} {q : State} {k : Core}
    (h : q.core = { k with force := q.force, applied := true }) :
    (if c then bump n q else q).core = { k with force := (if c then bump n q else q).force, applied := true } := by
  split
  · rw [bump_core, show (bump n q).force = q.force from congrArg Core.force (bump_core ..)]; exact h
  · exact h

theorem configDone_core (p : Pending) (s : State) :
    (configDone p s).core = { s.core with force := (configDone p s).force, applied := true } := by
  have hx : (startEst (startTenants s)).core = s.core := (startEst_core ..).trans (startTenants_core ..)
  unfold configDone
  generalize startEst (startTenants s) = x at hx
  dsimp only
  rw [← hx]
  exact force_bump rfl

theorem configDone_kept (p : Pending) (s : State) : Kept false s (configDone p s) := by
  have h := configDone_core p s
  simp only [State.core, Core.mk.injEq] at h
  obtain ⟨a1, a2, -, h1, h2, h3, -, h4, h5, h6, h7, h8, h9, -⟩ := h
  refine ⟨a1, a2, fun w => ?_, fun x => by cases x⟩
  unfold State.sound at w ⊢
  rw [h1, h2, h3, h4, h5, h6, h7, h8, h9]
  exact w

theorem applyConfig_kept {s u : State} (h : applyConfig s = .next u) : Kept false s u := by
  unfold applyConfig at h
  split at h
  · cases h; exact Kept.refl ..
  split at h
  · cases h; exact (Kept.of_core (applyDefaults_core s)).trans (configDone_kept ..)
  · obtain ⟨v, hv, h⟩ := andThen_next h
    cases h
    exact (eachDo_kept (fun _ _ _ => applySection_kept) hv).trans (configDone_kept ..)

theorem configDone_tidy (p : Pending) (s : State) (wf : s.tidy) : (configDone p s).tidy := by
  have k : (startTenants s).tidy := by
    obtain ⟨a, b, c, d, -, e⟩ := wf
    unfold State.tidy startTenants
    dsimp only
    exact ⟨a, b, c, d, twf_tableOf _ 0, e⟩
  have k := startEst_tidy _ k
  generalize hx : startEst (startTenants s) = x at k
  have k2 : ({ x with force := x.regs, obs := { x.obs with digForce := x.obs.dig } } : State).tidy := by
    obtain ⟨a, -, c⟩ := k
    exact ⟨a, a, c⟩
  unfold configDone
  rw [hx]
  dsimp only
  split
  · exact bump_tidy _ _ (modPwr_tidy _ _ k2)
  · exact modPwr_tidy _ _ k2

theorem twf_resetFields {g : Grade} {l : List (Nat × Word)} (h : twf (regDefault g) l = true) :
    twf (regDefault g) ((l.map fun e => (e.1, resetFields g e)).filter fun e => e.2 != regDefault g e.1) = true := by
  have ab : ∀ (l : List (Nat × Word)) (m : Nat), tabove m l = true →
      tabove m ((l.map fun e => (e.1, resetFields g e)).filter fun e => e.2 != regDefault g e.1) = true := by
    intro l m k
    refine tabove_filter ?_
    induction l with
    | nil => rfl
    | cons e l ih =>
      simp only [tabove, Bool.and_eq_true, decide_eq_true_eq, List.map_cons] at k ⊢
      exact ⟨k.1, ih k.2⟩
  induction l with
  | nil => rfl
  | cons e l ih =>
    simp only [twf, Bool.and_eq_true, decide_eq_true_eq] at h
    rw [List.map_cons, List.filter_cons]
    split
    · rename_i x
      simp only [twf, Bool.and_eq_true, decide_eq_true_eq]
      refine ⟨⟨?_, ab _ _ h.1.2⟩, ih h.2⟩
      simpa using x
    · exact ih h.2

theorem applyDefaults_tidy (s : State) (wf : s.tidy) : (applyDefaults s).tidy := by
  obtain ⟨a, b, c, d, -, e⟩ := wf
  unfold State.tidy applyDefaults modObs modDeals
  dsimp only
  exact ⟨twf_resetFields a, b, c, d, twf_tableOf _ 0, e⟩

theorem applyConfig_tidy {s u : State} (h : applyConfig s = .next u) (wf : s.tidy) : u.tidy := by
  unfold applyConfig at h
  split at h
  · cases h; exact wf
  split at h
  · cases h; exact configDone_tidy _ _ (applyDefaults_tidy _ wf)
  · obtain ⟨v, hv, h⟩ := andThen_next h
    cases h
    exact configDone_tidy _ _ (eachDo_tidy (fun _ _ _ => applySection_tidy) hv wf)

/-! Port G and the deliveries. -/

theorem openGo_core (m : OpenMsg) (s : State) : (openGo m s).core = s.core :=
  ite_core (badLen_core ..) ((drain_core ..).trans (openTaken_core ..))

theorem openGo_tidy (m : OpenMsg) (s : State) (wf : s.tidy) : (openGo m s).tidy :=
  ite_tidy (badLen_tidy _ _ _ _ wf) (drain_tidy _ (openTaken_tidy _ _ wf))

theorem handleOpen_core (m : OpenMsg) (s : State) : (handleOpen m s).core = s.core := by
  have a := arrive_core .G 0 0 0x10 m.reqid 0 s
  unfold handleOpen
  split <;> rename_i e <;> rw [e] at a
  · exact a
  · exact (openGo_core ..).trans a

theorem handleOpen_tidy (m : OpenMsg) (s : State) (wf : s.tidy) : (handleOpen m s).tidy := by
  have a := arrive_tidy .G 0 0 0x10 m.reqid 0 s wf
  unfold handleOpen
  split <;> rename_i e <;> rw [e] at a
  · exact a
  · exact openGo_tidy _ _ a

theorem deliverOne_core (c : Instr) (s : State) : (deliverOne c s).core = s.core := by
  unfold deliverOne
  split
  · exact openGo_core ..
  · exact promptGo_core ..
  · exact (sievePump_core ..).trans (cancelGo_core ..)
  · rfl

theorem deliverOne_tidy (c : Instr) (s : State) (wf : s.tidy) : (deliverOne c s).tidy := by
  unfold deliverOne
  split
  · exact openGo_tidy _ _ wf
  · exact promptGo_tidy _ _ _ _ wf
  · exact sievePump_tidy _ (cancelGo_tidy _ _ wf)
  · exact wf

theorem deliverHold_core (s : State) : (deliverHold s).core = { s.core with state := 1 } :=
  (wakeGo_core _).trans (each_core deliverOne_core rfl)

theorem deliverHold_tidy (s : State) (wf : s.tidy) : (deliverHold s).tidy :=
  wakeGo_tidy _ (each_tidy deliverOne_tidy (modPwr_tidy _ _ wf))

theorem dropPorts_core (l : List Port) (s : State) : (each dropPort l s).core = s.core := each_core dropPort_core rfl

theorem fallowEntry_core (s : State) : (fallowEntry s).core = { s.core with state := 2 } := by
  unfold fallowEntry
  dsimp only
  rw [dropPorts_core, each_core (x := (modPwr (fun p => { p with state := 2 }) s).core) softFreeze_core]
  · rfl
  · split
    · rfl
    · exact boundaryStop_core ..

theorem fallowAbandon_core (s : State) : (fallowAbandon s).core = { s.core with state := 4 } := by
  unfold fallowAbandon
  dsimp only
  rw [greetLinks_core, modPorts_core, modDeals_core]
  rfl

theorem holdMsg_kept {b : Bool} (c : Instr) (cls op : Nat) (word1 : Word) (o : Bool) (s : State) :
    Kept b s (holdMsg c cls op word1 o s) := by
  have a := arrive_core .G 0 cls op word1 0 s
  unfold holdMsg
  split <;> rename_i e <;> rw [e] at a
  · exact Kept.of_core a
  · rename_i x
    have k : Kept b s (modPwr (fun p => { p with hold := p.hold ++ [c] }) x) := Kept.of_core ((modPwr_core rfl).trans a)
    dsimp only
    split
    · exact k.trans (Kept.of_state 4 (fallowAbandon_core _) (by decide))
    split
    · exact k.trans (Kept.of_state 4 (startWake_core _) (by decide))
    · exact k

theorem holdMsg_tidy (c : Instr) (cls op : Nat) (word1 : Word) (o : Bool) (s : State) (wf : s.tidy) :
    (holdMsg c cls op word1 o s).tidy := by
  have a := arrive_tidy .G 0 cls op word1 0 s wf
  unfold holdMsg
  split <;> rename_i e <;> rw [e] at a
  · exact a
  · have k := modPwr_tidy (fun p => { p with hold := p.hold ++ [c] }) _ a
    dsimp only
    split
    · exact fallowAbandon_tidy _ k
    split
    · rename_i h
      have w := wakeWrite_tidy _ k
      unfold wakeWrite at w
      rw [if_pos h.1] at w
      exact w
    · exact k

/-! Starts, fallow's end and the sag. -/

theorem startState_tidy (k : KeepMram) (p : Power) (s : State) (h : twf (fun _ => 0) k.cnt = true) : (startState k p s).tidy :=
  ⟨rfl, rfl, rfl, rfl, rfl, rfl, rfl, rfl, h⟩

theorem mainOff_tidy (s : State) (wf : s.tidy) : (mainOff s).tidy := by
  unfold mainOff
  dsimp only
  refine setReg_tidy _ _ _ (modSieve_tidy _ _ ?_)
  have h : ∀ (x y : State) (f : Ports → Ports) (g : Obs → Obs), (g (modPorts f y).obs).cnt = [] → x.tidy →
      twf (fun _ => GateSt.empty) y.gates = true → y = { x with gates := y.gates } → (modObs g (modPorts f y)).tidy := by
    intro x y f g h1 wf h2 h3
    obtain ⟨a, b, c, d, e, f, -, -, i⟩ := wf
    rw [h3] at h1 ⊢
    refine ⟨a, b, c, d, e, f, h2, ?_, i⟩
    exact (congrArg (fun l => twf (fun _ => 0) l) h1).trans rfl
  refine h _ _ _ _ rfl (modSeq_tidy _ _ (modKv_tidy _ _ wf)) ?_ rfl
  exact twf_tput _ _ (twf_tput _ _ (twf_tput _ _ rfl))

theorem mainOff_core (s : State) : (mainOff s).core = s.core := by
  unfold mainOff
  dsimp only
  rw [setReg_core, modSieve_core, modObs_core, modPorts_core]
  have h : ∀ (x : State) (l : List (Nat × GateSt)), ({ x with gates := l } : State).core = x.core := fun _ _ => rfl
  exact (h _ _).trans ((modSeq_core ..).trans (modKv_core ..))

end Sys2Proof.Machine
end

