-- ==== Sys2Proof/Laws/Tick.lean ====
section
/-! SUPPORT. The instant that a command carries moves the local counter and nothing else: every other view of the state is as it was. -/
namespace Sys2Proof.Machine

/-- The clock moves the counter and nothing else. -/
theorem tick_eq (t : BitVec 64) (s : State) : tick t s = { s with counter := (tick t s).counter } := by
  unfold tick; dsimp only; split <;> rfl

@[simp] theorem tick_pending (t : BitVec 64) (s : State) : (tick t s).pending = s.pending := by rw [tick_eq]
@[simp] theorem tick_grade (t : BitVec 64) (s : State) : (tick t s).grade = s.grade := by rw [tick_eq]
@[simp] theorem tick_keep (t : BitVec 64) (s : State) : (tick t s).keep = s.keep := by rw [tick_eq]
@[simp] theorem tick_pwr (t : BitVec 64) (s : State) : (tick t s).pwr = s.pwr := by rw [tick_eq]
@[simp] theorem tick_regs (t : BitVec 64) (s : State) : (tick t s).regs = s.regs := by rw [tick_eq]
@[simp] theorem tick_force (t : BitVec 64) (s : State) : (tick t s).force = s.force := by rw [tick_eq]
@[simp] theorem tick_led (t : BitVec 64) (s : State) : (tick t s).led = s.led := by rw [tick_eq]
@[simp] theorem tick_tenants (t : BitVec 64) (s : State) : (tick t s).tenants = s.tenants := by rw [tick_eq]
@[simp] theorem tick_classes (t : BitVec 64) (s : State) : (tick t s).classes = s.classes := by rw [tick_eq]
@[simp] theorem tick_est (t : BitVec 64) (s : State) : (tick t s).est = s.est := by rw [tick_eq]
@[simp] theorem tick_deals (t : BitVec 64) (s : State) : (tick t s).deals = s.deals := by rw [tick_eq]
@[simp] theorem tick_sieve (t : BitVec 64) (s : State) : (tick t s).sieve = s.sieve := by rw [tick_eq]
@[simp] theorem tick_kv (t : BitVec 64) (s : State) : (tick t s).kv = s.kv := by rw [tick_eq]
@[simp] theorem tick_seq (t : BitVec 64) (s : State) : (tick t s).seq = s.seq := by rw [tick_eq]
@[simp] theorem tick_gates (t : BitVec 64) (s : State) : (tick t s).gates = s.gates := by rw [tick_eq]
@[simp] theorem tick_ports (t : BitVec 64) (s : State) : (tick t s).ports = s.ports := by rw [tick_eq]
@[simp] theorem tick_obs (t : BitVec 64) (s : State) : (tick t s).obs = s.obs := by rw [tick_eq]
@[simp] theorem tick_egress (t : BitVec 64) (s : State) : (tick t s).egress = s.egress := by rw [tick_eq]
@[simp] theorem tick_free (t : BitVec 64) (s : State) : (tick t s).free = s.free := by rw [tick_eq]

@[simp] theorem tick_reg (t : BitVec 64) (s : State) (off : Nat) : (tick t s).reg off = s.reg off := by
  simp only [State.reg, tick_regs, tick_grade]
@[simp] theorem tick_fld (t : BitVec 64) (s : State) (f : Fld) : (tick t s).fld f = s.fld f := by simp only [State.fld, tick_reg]
@[simp] theorem tick_on (t : BitVec 64) (s : State) (f : Fld) : (tick t s).on f = s.on f := by simp only [State.on, tick_fld]
@[simp] theorem tick_cnt (t : BitVec 64) (s : State) (n : Nat) : (tick t s).cnt n = s.cnt n := by
  simp only [State.cnt, tick_keep, tick_obs]
@[simp] theorem tick_seat (t : BitVec 64) (s : State) (i : Nat) : (tick t s).seat i = s.seat i := by simp only [State.seat, tick_led]
@[simp] theorem tick_side (t : BitVec 64) (s : State) (i : Nat) : (tick t s).side i = s.side i := by simp only [State.side, tick_led]
@[simp] theorem tick_tenant (t : BitVec 64) (s : State) (i : Nat) : (tick t s).tenant i = s.tenant i := by
  simp only [State.tenant, tick_tenants]
@[simp] theorem tick_gate (t : BitVec 64) (s : State) (g : Nat) : (tick t s).gate g = s.gate g := by simp only [State.gate, tick_gates]
@[simp] theorem tick_mainOn (t : BitVec 64) (s : State) : (tick t s).mainOn = s.mainOn := by simp only [State.mainOn, tick_pwr]
@[simp] theorem tick_cmdOn (t : BitVec 64) (s : State) : (tick t s).cmdOn = s.cmdOn := by simp only [State.cmdOn, tick_pwr]
@[simp] theorem tick_powered (t : BitVec 64) (s : State) (p : Port) : (tick t s).powered p = s.powered p := by
  simp only [State.powered, tick_pwr, tick_mainOn]
@[simp] theorem tick_holding (t : BitVec 64) (s : State) : (tick t s).holding = s.holding := by simp only [State.holding, tick_pwr]
@[simp] theorem tick_bedrock (t : BitVec 64) (s : State) : (tick t s).bedrock = s.bedrock := by simp only [State.bedrock, tick_pwr]
@[simp] theorem tick_sess (t : BitVec 64) (s : State) (p : Port) (k : Nat) : (tick t s).sess p k = s.sess p k := by
  simp only [State.sess, tick_ports]
@[simp] theorem tick_live (t : BitVec 64) (s : State) (p : Port) (k : Nat) : (tick t s).live p k = s.live p k := by
  simp only [State.live, tick_sess]
@[simp] theorem tick_portOpen (t : BitVec 64) (s : State) (p : Port) : (tick t s).portOpen p = s.portOpen p := by
  simp only [State.portOpen, tick_ports]
@[simp] theorem tick_payOk (t : BitVec 64) (s : State) (p : Port) (k n : Nat) : (tick t s).payOk p k n = s.payOk p k n := by
  simp only [State.payOk, State.beatsHeld, tick_sess, tick_ports]
@[simp] theorem tick_accepts (t : BitVec 64) (s : State) (p : Port) (k c n : Nat) : (tick t s).accepts p k c n = s.accepts p k c n := by
  simp only [State.accepts, tick_live, tick_portOpen, tick_sess, tick_payOk]
@[simp] theorem tick_peersOf (t : BitVec 64) (s : State) (p : Port) : (tick t s).peersOf p = s.peersOf p := by
  simp only [State.peersOf, tick_ports]

/-- What the clock leaves of the calm view. -/
theorem tick_calm (t : BitVec 64) (s : State) : (tick t s).calm = { s.calm with counter := (tick t s).counter } := by
  rw [tick_eq]; rfl

end Sys2Proof.Machine
end

