-- ==== Sys2Proof/Machine/Operands.lean ====
section
/-! DEFINITION. The operand that the commands share: the instant at which the command happens (log entry 6). -/
namespace Sys2Proof.Machine

/-- The instant a command carries. Command bits of registers whose effect does not depend on time carry none. -/
def instant (c : Instr) : Option (BitVec 64) :=
  match c with
  | .powerOnStart _ => none
  | .imageReadDone t _ => some t
  | .mainPowerGood t => some t
  | .startClearingDone t => some t
  | .fabricReady t => some t
  | .startWindowExpiry t => some t
  | .sagWarning t => some t
  | .sagRecordDone t => some t
  | .busRecovered t => some t
  | .fallowEntry t => some t
  | .fallowPowerOff t => some t
  | .wake t => some t
  | .wakeholdExpiry t => some t
  | .linkUp t _ _ => some t
  | .linkDown t _ _ => some t
  | .hello t _ _ _ _ _ => some t
  | .credit t _ _ _ _ _ => some t
  | .unknownMessage t _ _ _ _ _ => some t
  | .portOpen t _ => some t
  | .portDrop t _ => some t
  | .openReq t _ => some t
  | .prompt t _ _ _ => some t
  | .promptwaitExpiry t _ => some t
  | .cancel t _ => some t
  | .prefillShip t _ => some t
  | .prefillKv t _ _ _ _ _ => some t
  | .prefillFail t _ _ _ => some t
  | .shipwaitExpiry t _ => some t
  | .kvData t _ _ _ => some t
  | .kvMiss t _ _ => some t
  | .putAck t _ _ => some t
  | .putDecline t _ => some t
  | .imageData t _ _ _ => some t
  | .dirAdd t _ => some t
  | .dirDrop t _ => some t
  | .replayEnd t _ => some t
  | .fetchwaitExpiry t _ => some t
  | .splitOpen t _ _ => some t
  | .splitOpened t _ _ _ _ _ _ _ => some t
  | .splitClose t _ _ _ _ => some t
  | .splitPause t _ _ _ => some t
  | .splitResume t _ _ _ => some t
  | .jointOffer t _ _ _ _ _ => some t
  | .jointBind t _ _ _ _ _ _ => some t
  | .jointGo t _ _ _ _ _ _ _ => some t
  | .query t _ _ _ _ _ _ => some t
  | .partialMsg t _ _ _ _ _ _ => some t
  | .clusterExchangeOut t _ _ _ _ _ _ _ => some t
  | .lease t _ _ _ _ _ => some t
  | .peerwaitLeadExpiry t _ => some t
  | .peerwaitFollowerExpiry t _ => some t
  | .leaseIdleExpiry t _ => some t
  | .objFetch t _ _ _ _ => some t
  | .objData t _ _ _ => some t
  | .secwaitExpiry t _ => some t
  | .tfetch t => some t
  | .tdone t _ _ _ => some t
  | .terr t _ => some t
  | .tstatus t _ _ => some t
  | .candList t _ => some t
  | .refillRoomFreed t _ => some t
  | .drafts t _ => some t
  | .epochDone t _ _ _ _ => some t
  | .layerDone t _ => some t
  | .composeBegin t => some t
  | .idleComposeStart t => some t
  | .dealHandOff t => some t
  | .dealComplete t => some t
  | .launch t => some t
  | .layerRelease t => some t
  | .stopBoundary t _ => some t
  | .stopImmediate t => some t
  | .stopGo t => some t
  | .blockHashDone t _ => some t
  | .indexProbeDone t _ => some t
  | .pkvRegister => none
  | .pkvWithdraw => none
  | .pkvRetirePop => none
  | .modRegister _ _ => none
  | .modRegisterDone t => some t
  | .modWithdraw => none
  | .modHotload t => some t
  | .modReobj _ => none
  | .modRetirePop => none
  | .gateRequest t _ _ _ _ _ => some t
  | .gateRequestDrop t _ _ _ _ _ => some t
  | .gateBurstLimit t _ _ => some t
  | .gateWindowEdge t _ _ _ => some t
  | .gateWatchdog t _ _ _ => some t
  | .gateRevoke t _ _ _ => some t
  | .windowEdge t => some t
  | .scrubTick t _ => some t
  | .lockAcquire t => some t
  | .lockRelease t => some t
  | .lockExpiry t => some t
  | .bootBedrocknext => none
  | .bootClear => none
  | .obsSnapnow => none
  | .obsSnap => none
  | .obsClear => none
  | .obsClearkeep => none
  | .trcArm => none
  | .trcFire t => some t
  | .opsQueueRoom t => some t
  | .tenantDataWrite _ _ => none
  | .slotDataWrite _ => none
  | .splitDataWrite _ => none
  | .digDataWrite _ => none
  | .registerWrite t _ _ => some t
  | .traceStagingDrain => none
  | .residentBlockVerified t _ => some t
  | .fabricEgressCredit t _ _ => some t

/-- The local counter when a command of this instant has happened (R264). -/
def State.counterAt (s : State) (t : Option (BitVec 64)) : BitVec 64 :=
  match t with
  | some t => (tick t s).counter
  | none => s.counter

end Sys2Proof.Machine
end

