-- ==== Sys2Proof/Tests/Slice0.lean ====
section
/-! SUPPORT. The author's tests: ill-formed commands that `Instr.wf` refuses, values the spec gives for small cases, and for every
statement with hypotheses a state and operands that meet them together, clause by clause, at the edges of their ranges. -/
namespace Sys2Proof.Tests
set_option Elab.async false
open Sys2Proof Sys2Proof.Machine

/-! Ill-formed commands. -/

/-- An OPEN of a single seat with no stops. -/
def open0 : OpenMsg :=
  ⟨0, 0, 0, 11, 0, 0, 64, 8, 0, 0, 0, 0, false, false, false, 0, 0, 0, 0, 0, 0, 0, 0, 0, 0, 0, [], []⟩

/-- A block carrier whose tag passes R178 for the first block of an all-zero prompt. -/
def carrier0 : BlockTag := ⟨1, List.replicate 64 0, 0, 1, 0, 0⟩

/-- An opening of a split seat with one member. -/
def split0 : SplitOpenMsg := ⟨0, 0, 0, 0, 0, 0, false, 0, 0, 0, 0, 0, 0, 0, false, false, 0, 0, 0, 0, [0], []⟩

/-- A candidate list without entries. -/
def cand0 : CandMsg := ⟨0, 1, 0, 5, 0, 0, 0, 0, 0, true, false, 0, 0, 0, 0, []⟩

/-- Model fields with one object. -/
def model0 : ModelFields := ⟨1, 1, 0, 1, 0, 1, 0, 0, 0, 0, 0, 0⟩

theorem test_wf_open : (Instr.openReq 0 open0).wf = true := by decide
theorem test_wf_open_kind : (Instr.openReq 0 { open0 with kind := 3 }).wf = false := by decide
theorem test_wf_open_stop_count : (Instr.openReq 0 { open0 with nstop := 1 }).wf = false := by decide
theorem test_wf_open_stop_empty : (Instr.openReq 0 { open0 with nstop := 1, stops := [[]] }).wf = false := by decide
theorem test_wf_open_stop_long : (Instr.openReq 0 { open0 with nstop := 1, stops := [List.replicate 17 0] }).wf = false := by decide
theorem test_wf_open_members_single : (Instr.openReq 0 { open0 with members := [⟨0, 0, 64⟩] }).wf = false := by decide
theorem test_wf_open_members_split : (Instr.openReq 0 { open0 with kind := 2, lastMember := 1, members := [⟨0, 0, 64⟩] }).wf = false := by
  decide
theorem test_wf_prompt_empty : (Instr.prompt 0 .G 0 ⟨11, 0, []⟩).wf = false := by decide
theorem test_wf_prompt_long : (Instr.prompt 0 .G 0 ⟨11, 0, List.replicate 4097 0⟩).wf = false := by decide +kernel
theorem test_wf_prefill_carrier : (Instr.prefillKv 0 0 0 1 0 { carrier0 with toks := [] }).wf = false := by decide
theorem test_wf_kv_carrier : (Instr.kvData 0 0 0 { carrier0 with toks := List.replicate 65 0 }).wf = false := by decide
theorem test_wf_image : (Instr.imageData 0 0 0 ⟨[0], [], [], []⟩).wf = false := by decide
theorem test_wf_split_open : (Instr.splitOpen 0 0 { split0 with nodes := [] }).wf = false := by decide
theorem test_wf_cand_list : (Instr.candList 0 { cand0 with entries := List.replicate 257 ⟨0, 0⟩ }).wf = false := by decide +kernel
theorem test_wf_drafts : (Instr.drafts 0 ⟨0, 0, 0, List.replicate 9 0⟩).wf = false := by decide
theorem test_wf_register : (Instr.modRegister model0 [Desc.empty, Desc.empty]).wf = false := by decide
theorem test_wf_credit : (Instr.credit 0 .G 0 false 0 (List.replicate 9 (0, 0))).wf = false := by decide
theorem test_wf_gate_requester : (Instr.gateRequest 0 .clink 6 0 0 0).wf = false := by decide
theorem test_wf_gate_path : (Instr.gateRequest 0 .nlink 0 1 0 0).wf = false := by decide
theorem test_wf_drop_requester : (Instr.gateRequestDrop 0 .tstream 3 1 0 false).wf = false := by decide

/-! States. -/

/-- A session that is up and open, with credit in both directions. -/
def upSess : Sess := ⟨true, true, true, 7, 1, [8, 8, 8], 10000, 0, [8, 8, 8], 100, 0, true, [0, 0, 0], 0, [8, 8, 8, 10000]⟩

/-- A started node in STATE 1 with every port open and a session on each. -/
def on0 : State := { State.reset with
  pwr := { Power.off with started := true, mainGood := true, state := 1, applied := true, cleared := true }
  ports := { Ports.start with
    open_ := [6, 5, 4, 2, 3, 1, 0], sess := [(0, upSess), (64, upSess), (128, upSess), (192, upSess), (256, upSess)] } }

/-- `on0` in another STATE. -/
def inState (n : Nat) : State := { on0 with pwr := { on0.pwr with state := n } }

/-- A node that has started and has no main power. -/
def cold0 : State := { State.reset with pwr := { Power.off with started := true } }

/-- A sagged node that writes its record. -/
def sag0 : State := { on0 with pwr := { on0.pwr with state := 5, mainGood := false, sagWarn := true } }

/-- An instant that no time limit of these states reaches. -/
def late : BitVec 64 := 0x4000000000000

/-- `on0` with a seat at index 0. -/
def withSeat (a : Seat) : State := setSeat 0 a on0

/-- A gate out of its freeze. -/
def thaw (g : Nat) (s : State) : State := setFld (F.GATE_CTRL_FREEZE g) 0 s

/-- A deal of epoch 5 with one seat of one row. -/
def deal0 : Deal := ⟨5, 0, 0, false, [⟨0, 1, 1, false, false, false, 0x3FFF, 0, 0, 0, 0, 1, 0, 0, 0, 0, 0⟩], [], 0, 0, 0, 0, 100, 1, false⟩

/-- The deal running. -/
def run0 : Running := ⟨deal0, [], 0, 0, none, 0, 0, [], [], false⟩

/-- `on0` with the deal running and its seat. -/
def running0 : State := modDeals (fun d => { d with running := some run0, runEpoch := 5, nextEpoch := 6 })
  (withSeat { Seat.empty with state := .dealt, gen := 1 })

/-- A command that only counts goes on. -/
theorem test_snap_goes_on : ∃ u, exec .obsSnap on0 = .next u := ⟨_, rfl⟩

/-! Small cases of the spec. -/

/-- R54: BASE starts at 2,000,000 ns; R42: WINLEN at 100,000 µs; R262: port G's class 1 credit at 64. -/
theorem test_register_starts : State.reset.fld F.ADM_PRIOR0_BASE = 2000000 ∧ State.reset.fld F.ADM_WINDOW_WINLEN = 100000 ∧
    State.reset.fld (F.PORT_CREDIT_CLASS1 0) = 64 := by decide +kernel

/-- R264: the counter moves in steps of 16 ns and never back. -/
theorem test_tick : (tick 31 on0).now = 16 ∧ (tick 0 (tick 32 on0)).now = 32 := by decide +kernel

/-- R284: a counter saturates at 2^48 - 1. -/
theorem test_counter_saturates : satAdd48 (2 ^ 48 - 1) 1 = 2 ^ 48 - 1 := by decide

/-- R87: OPCODE 0x42, LENGTH 2, SUITID 1 at bits 43:30, SLOT 2, MEMBERS 3. -/
theorem test_suit_words : (suitMsg ⟨1, 2, 0, 3, 4, 5⟩).words = [0x42002000408000C0, 0x0000000400000500] := by decide +kernel

/-- R89: OPCODE 0x44, LENGTH 2, EPOCH at bits 63:16. -/
theorem test_end_words : (endMsg deal0).words = [0x4400200000000000, 0x0000000000050000] := by decide +kernel

/-- R124: of equal logits the lower token id precedes; -0 and +0 are equal. -/
theorem test_order : precedes 0x80000000 1 0 2 = true ∧ precedes 0 2 0x80000000 1 = false ∧ precedes 0x3F800000 9 0 1 = true := by
  decide +kernel

/-- R266: the CRC-32C of "123456789" is 0xE3069283, as published. -/
theorem test_crc : crc32c [49, 50, 51, 52, 53, 54, 55, 56, 57] = 0xE3069283 := by decide +kernel

/-- The published SipHash-2-4 vector of the empty message under the key 00 01 ... 0f. -/
theorem test_siphash : sip64 0x0706050403020100 0x0F0E0D0C0B0A0908 [] = 0x726FDB47DD0E0E31 := by decide +kernel

/-- The published Philox-4x32-10 vector of the zero counter and key. -/
theorem test_philox : philox 0 0 0 0 = (0x6627E8D5, 0xE169C58D, 0xBC57AC4C, 0x9B00DBD8) := by decide +kernel

/-- R150: exp 0 is 1 and ln 1 is 0. -/
theorem test_exp_ln : (exp64 ⟨0, 0⟩).eqv ⟨1, 0⟩ = true ∧ (ln64 ⟨1, 0⟩).eqv ⟨0, 0⟩ = true := by decide +kernel

/-! Witnesses: the whole machine. -/

theorem test_witness_front : ({ on0 with pending := [.obsSnap, .wake 16] } : State).pending = .obsSnap :: [.wake 16] := rfl

theorem test_witness_idle : on0.pending = [] ∧ on0.pwr.started = true ∧ State.reset.pending = [] ∧ State.reset.pwr.started = false :=
  ⟨rfl, rfl, rfl, rfl⟩

theorem test_witness_reset_ports : Port.G ≠ .M ∧ Port.F ≠ .M := by decide

theorem test_witness_kept : ({ on0 with pending := [.obsSnap] } : State).sound ∧ ({ on0 with pending := [.obsSnap] } : State).tidy ∧
    ∃ u, step { on0 with pending := [.obsSnap] } = .next u := by
  refine ⟨?_, ?_, _, rfl⟩
  · unfold State.sound; decide +kernel
  · unfold State.tidy; decide +kernel

theorem test_witness_force : (∀ c rest, ({ on0 with pending := [.obsSnap] } : State).pending = c :: rest → movesForce c = false) ∧
    ∃ u, step { on0 with pending := [.obsSnap] } = .next u := by
  refine ⟨?_, _, rfl⟩
  intro c rest h
  have h : [Instr.obsSnap] = c :: rest := h
  simp only [List.cons.injEq] at h
  rw [← h.1]; rfl

theorem test_witness_frames : movesCore .obsSnap = false ∧ movesBoots .obsSnap = false ∧ mayStop .obsSnap = false ∧
    (∀ b, Instr.obsSnap ≠ .powerOnStart b) ∧ ∃ u, exec .obsSnap on0 = .next u :=
  ⟨rfl, rfl, rfl, fun _ => Instr.noConfusion, _, rfl⟩

/-! Witnesses: starts, configuration, sag, fallow and wake. -/

theorem test_witness_image_waits : cold0.pwr.started = true ∧ cold0.pwr.imgDone = 0xFFFF ∧ cold0.pwr.state ≠ 5 ∧ cold0.pwr.mode ≠ 2 ∧
    cold0.pwr.mainGood = false := by decide +kernel

theorem test_witness_bad_image :
    let s : State := { cold0 with pwr := { cold0.pwr with mainGood := true } }
    s.pwr.started = true ∧ s.pwr.imgDone = 0xFFFF ∧ s.pwr.state ≠ 5 ∧ s.pwr.mode ≠ 2 ∧ s.pwr.mainGood = true ∧
      imageReason [] ≠ 0 ∧ s.pwr.sagFound = false := by decide +kernel

theorem test_witness_main_power : cold0.pwr.started = true ∧ cold0.pwr.mainGood = false ∧ cold0.pwr.state ≠ 3 ∧ cold0.pwr.state ≠ 5 ∧
    cold0.pwr.pending = none ∧ ({ cold0.pwr with pending := some ⟨1, 0, 0, []⟩ } : Power).pending = some ⟨1, 0, 0, []⟩ ∧
    (⟨1, 0, 0, []⟩ : Pending).reason ≠ 0 := by decide +kernel

/-- STARTWIN is 60 s at start, and the window ends at that instant. -/
theorem test_witness_start_signals : on0.mainOn = true ∧ on0.pwr.applied = true ∧ on0.pwr.started = true ∧ on0.pwr.state ≠ 3 ∧
    on0.pwr.state ≠ 5 ∧ on0.pwr.startGood = false ∧
    on0.fld F.START_BOOT_STARTWIN * 1000000000 ≤ (tick 60000000000 on0).now ∧
    ¬ on0.fld F.START_BOOT_STARTWIN * 1000000000 ≤ (tick 59999999999 on0).now := by decide +kernel

theorem test_witness_sag : on0.pwr.started = true ∧ on0.pwr.state ≠ 5 ∧ on0.pwr.mainGood = true ∧ sag0.pwr.state = 5 ∧
    sag0.pwr.applied = true ∧ sag0.pwr.recDone = false := by decide +kernel

theorem test_witness_fallow :
    let s := setFld F.PWR_CTRL_FALLOW 1 on0
    let u : State := modDeals (fun d => { d with stopped := true }) (inState 2)
    (s.pwr.state = 1 ∧ s.on F.PWR_CTRL_FALLOW = true ∧ s.allFree = true) ∧
      (u.pwr.state = 2 ∧ u.deals.stopped = true ∧ u.obs.staging = [] ∧ u.pwr.hold = []) := by decide +kernel

/-- WAKEHOLD is 50 ms at start. -/
theorem test_witness_wake : (inState 3).pwr.state = 3 ∧ on0.pwr.state ≠ 3 ∧ (inState 4).pwr.state = 4 ∧
    (inState 4).pwr.wakeAt + 1000000 * (inState 4).fld F.PWR_FALLOW_WAKEHOLD ≤ (tick 50000000 (inState 4)).now ∧
    (inState 4).pwr.hold = [] ∧ (inState 4).deals.stopped = false ∧
    (modDeals (fun d => { d with stopped := true }) (inState 4)).deals.stopped = true := by decide +kernel

theorem test_witness_held : ∀ n ∈ [2, 3, 4], (inState n).powered .G = true ∧ (inState n).holding = true ∧
    (inState n).accepts .G 0 0 0 = true ∧ (inState n).accepts .G 0 1 0 = true ∧ (inState n).accepts .G 0 2 0 = true := by decide +kernel

/-! Witnesses: registers. -/

/-- The register at an offset. -/
def rdef (off : Nat) : RegDef := (regAt off).getD ⟨"", 0, 0, []⟩

/-- The counter registers are 0x5000 to 0x57F8. Once deals have run and the node is not stopped, "stopped only" fields are not written. -/
theorem test_witness_bad_writes : (1 : BitVec 16).toNat % 8 ≠ 0 ∧ (0x7FFF : BitVec 16).toNat % 8 ≠ 0 ∧
    (plainReg 0x808 (rdef 0x808) = true ∧ (0x8000000000000000 : Word) &&& (rdef 0x808).reserved ≠ 0) ∧
    ((0x5000 : BitVec 16).toNat % 8 = 0 ∧ (0x57F8 : BitVec 16).toNat % 8 = 0 ∧ (0x57F8 : BitVec 16).toNat < 0x5800 ∧
      bitsOf 0x0001000000000000 63 48 ≠ 0) ∧
    (plainReg 0x3028 (rdef 0x3028) = true ∧ (0 : Word) &&& (rdef 0x3028).reserved = 0 ∧ 0x3028 ∈ stoppedOnly ∧
      running0.mayStopped = false) ∧
    ((0x50000 : Word).toNat % 65536 = 0 ∧ running0.deals.stopped = false ∧ (0x50000 : Word).toNat / 65536 ≤ running0.deals.runEpoch) := by
  decide +kernel

theorem test_witness_write_stores :
    (plainReg 0x810 (rdef 0x810) = true ∧ (1000 : Word) &&& (rdef 0x810).reserved = 0 ∧ ¬ 0x810 ∈ stoppedOnly ∧
      rangeRule 0x810 (on0.newWord (rdef 0x810) false 1000) = none) ∧
    (plainReg 0x3028 (rdef 0x3028) = true ∧ (0 : Word) &&& (rdef 0x3028).reserved = 0 ∧ 0x3028 ∈ stoppedOnly ∧
      on0.mayStopped = true ∧ rangeRule 0x3028 (on0.newWord (rdef 0x3028) false 0) = none) ∧
    (regAt 0x800 = some (rdef 0x800) ∧ (1 : Word) &&& (rdef 0x800).reserved = 0) ∧
    ((setFld F.ADM_CTRL_OPEN 1 on0).on F.ADM_CTRL_OPEN = true ∧ (setFld F.ADM_CTRL_OPEN 1 on0).pwr.admitOpen = 0xFFFF) ∧
    ((0x8000 : BitVec 16).toNat % 8 = 0 ∧ 0x8000 ≤ (0x8000 : BitVec 16).toNat ∧ (0xFFF8 : BitVec 16).toNat % 8 = 0) := by decide +kernel

theorem test_witness_fields : 63 < 64 ∧ (8 : Nat) ≠ 0 := by decide

/-- CHUNKCAP 1,024 and SEATCAP 16,384 are the largest values of a slot-table entry, WORD 35 the last of a split-seat entry. -/
theorem test_witness_data_registers :
    ((0 : BitVec 2) = 0 ∧ bitsOf 0xFFFF00FFFFFFFFFF 47 40 = 0) ∧ ((1 : BitVec 2) ≠ 0) ∧ (1 ≠ on0.fld F.ADM_TSEL_TENANT) ∧
    (bitsOf 0x8010000000 13 0 = 0 ∧ (slotOf 0x8010000000).chunkCap = 1024 ∧ (slotOf 0x8010000000).seatCap = 16384) ∧
    ((setFld F.HER_SPLITSEL_WORD 35 on0).fld F.HER_SPLITSEL_WORD = 35 ∧ splitReserved 35 0xFFFFFFFFFFFF0000 = 0) ∧
    (0x80000000 : Word).toNat % 2 ^ 31 = 0 := by decide +kernel

/-! Witnesses: ports. -/

/-- `on0` without the session of port G and with another state of its link. -/
def gLink (e : Sess) : State := modSess .G 0 (fun _ => e) on0

theorem test_witness_link_up : hasSessions .G = true ∧ (gLink Sess.empty).pwr.started = true ∧ (gLink Sess.empty).pwr.state ≠ 5 ∧
    ((gLink Sess.empty).sess .G 0).linkUp = false ∧ (gLink Sess.empty).powered .G = true ∧
    (hasSessions .P = true ∧ cold0.pwr.state ≠ 3 ∧ (cold0.sess .P 0).linkUp = false ∧ cold0.powered .P = false) := by decide +kernel

theorem test_witness_link_down : hasSessions .N = true ∧ on0.pwr.started = true ∧ on0.pwr.state ≠ 5 ∧ on0.pwr.state ≠ 3 ∧
    on0.live .N 0 = true ∧ on0.live .N 1 = false ∧ on0.powered .N = true ∧ on0.cmdOn = true := by decide +kernel

theorem test_witness_hello : hasSessions .G = true ∧ (gLink { Sess.empty with linkUp := true }).powered .G = true ∧
    ((gLink { Sess.empty with linkUp := true }).sess .G 0).linkUp = true ∧ (gLink { Sess.empty with linkUp := true }).live .G 0 = false ∧
    (gLink Sess.empty).powered .G = true ∧ ((gLink Sess.empty).sess .G 0).linkUp = false := by decide +kernel

theorem test_witness_credit : hasSessions .G = true ∧ on0.powered .G = true ∧
    (List.replicate 8 ((0 : BitVec 4), (1 : BitVec 20))).length ≤ 8 ∧ on0.live .G 0 = true ∧ (gLink Sess.empty).powered .G = true ∧
    (gLink Sess.empty).live .G 0 = false ∧ on0.mainOn = true := by decide +kernel

theorem test_witness_unknown : Port.F ≠ .M ∧ on0.powered .F = true ∧ Port.C ≠ .M ∧ on0.powered .C = true ∧ on0.live .C 0 = true ∧
    on0.portOpen .C = true ∧ ((4 : BitVec 8) ≠ 3) := by decide +kernel

/-- PHASEAT of port F is 20 ms and of port G 200 ms at start. -/
theorem test_witness_port_opens :
    let f : State := { on0 with ports := { on0.ports with open_ := [6], fabricReady := true } }
    let g : State := { on0 with ports := { on0.ports with open_ := [6, 5, 4, 2, 3, 1] } }
    (tick 20000000 f).mayOpen .F = true ∧ (tick 19999999 f).mayOpen .F = false ∧ (tick late f).mayOpen .T = false ∧
      (tick 200000000 g).mayOpen .G = true ∧ (tick late g).mayOpen .F = false := by decide +kernel

/-! Witnesses: requests. -/

/-- PROMPTLEN + MAXTOK is one past 8,388,608; a lead's stretch of 64 tokens leaves MAXTOK 1,048,512. -/
theorem test_witness_open_limits :
    let a : OpenMsg := { open0 with promptLen := 8388600, maxTok := 9 }
    let b : OpenMsg := { open0 with kind := 2, promptLen := 64, maxTok := 1048513, members := [⟨0, 0, 64⟩] }
    let s := modSide 0 (fun d => { d with misuse := true }) on0
    let u := modSide 0 (fun d => { d with misuse := true, kind := 2 }) on0
    (a.kind = 0 ∧ 8388608 < a.promptLen.toNat + a.maxTok.toNat) ∧
      (b.kind = 2 ∧ b.members.getLast? = some ⟨0, 0, 64⟩ ∧ 1048576 - (64 : BitVec 22).toNat < b.maxTok.toNat) ∧
      openTooLong { a with maxTok := 8 } = false ∧ openTooLong { b with maxTok := 1048512 } = false ∧
      ((s.side 0).misuse = true ∧ (s.seat 0).cancel = false ∧ (s.side 0).closeAfter = 0 ∧ (s.side 0).kind = 0) ∧
      ((u.side 0).misuse = true ∧ (u.seat 0).cancel = false ∧ (u.side 0).closeAfter = 0 ∧ (u.side 0).kind = 2) := by decide +kernel

/-- A scan of indices that are all taken finds none. -/
theorem firstFree_none (p : Nat → Bool) : ∀ n k, (∀ i, i < k + n → p i = true) → firstFree p n k = none
  | 0, _, _ => rfl
  | n + 1, k, h => by
    rw [firstFree, if_pos (h k (by omega))]
    exact firstFree_none p n (k + 1) fun i hi => h i (by omega)

/-- A number below `n` is in the list of the first `n`. -/
theorem range_contains (n i : Nat) (h : i < n) : (List.range n).contains i = true := by
  rw [List.contains_iff_mem, List.mem_range]; exact h

/-- With every index retired no seat is Free. -/
theorem free_none (s : State) (h : ∀ i, i < 65536 → s.led.retired.contains i = true) : s.freeSeatIdx = none := by
  unfold State.freeSeatIdx
  refine firstFree_none _ _ _ fun i hi => ?_
  rw [h i (by omega), Bool.or_true]

/-- `on0` with retired seats. -/
def retiredAll (l : List Nat) : State := { on0 with led := { on0.led with retired := l } }

theorem retiredAll_none (l : List Nat) (h : ∀ i, i < 65536 → l.contains i = true) : (bump 0x00 (retiredAll l)).freeSeatIdx = none :=
  free_none _ h

theorem test_witness_no_free_seat : ∃ l, (bump 0x00 (retiredAll l)).freeSeatIdx = none :=
  ⟨_, retiredAll_none _ (range_contains 65536)⟩

theorem test_witness_open_decided :
    let s := setSeat 1 { Seat.empty with state := .ready, gen := 1, reqid := 11 } on0
    on0.gTakes 0 = true ∧ openBadLen { open0 with nstop := 1 } = true ∧ openBadLen open0 = false ∧
      (bump 0x00 s).freeSeatIdx = some 0 ∧ ((bump 0x00 s).findReq open0.reqid).isSome = true := by decide +kernel

theorem test_witness_prompt_cancel : (⟨11, 0, [0]⟩ : PromptMsg).wf = true ∧ (⟨11, 0, List.replicate 4096 0⟩ : PromptMsg).wf = true ∧
    (on0.holding = false ∧ on0.kv.heldPrompts = [] ∧ on0.powered .G = true ∧ on0.accepts .G 0 1 0 = true) ∧
    (on0.powered .N = true ∧ on0.accepts .N 0 0 0 = true) ∧ on0.gTakes 2 = true ∧ (bump 0x04 on0).findReq 11 = none := by decide +kernel

/-- PROMPTWAIT is 1,000,000 µs at start. -/
theorem test_witness_promptwait :
    let s := withSeat { Seat.empty with state := .opening, gen := 1, promptLen := 64 }
    s.mainOn = true ∧ takesPrompt (s.seat 0).state = true ∧ (s.seat 0).role ≠ 2 ∧ (s.side 0).kind ≠ 1 ∧
      (s.side 0).toks.length < (s.seat 0).promptLen.toNat ∧
      1000 * s.fld F.PORTG_STREAM_PROMPTWAIT ≤ (tick 1000000000 s).sinceArrival 0 := by decide +kernel

theorem test_witness_window_edge : on0.mainOn = true ∧ (tick 100000000 on0).nextEdge ≤ (tick 100000000 on0).now ∧
    ¬ (tick 99999999 on0).nextEdge ≤ (tick 99999999 on0).now ∧ on0.tidy := by
  refine ⟨by decide +kernel, by decide +kernel, by decide +kernel, ?_⟩
  unfold State.tidy; decide +kernel

/-! Witnesses: prefix and KV. -/

/-- A seat routed to the prompt pool whose one block is owed. -/
def routed0 (sent : Bool) : State :=
  modKv (fun k => { k with blocks := [(5, { Blk.empty with refs := 1, state := .filling, owned := true, ownerGen := 1 })] })
    (modSide 0 (fun d => { d with ship := some ⟨sent, 9, 0, 1, 0⟩, toks := List.replicate 64 0 })
      (withSeat { Seat.empty with
        state := .routed, gen := 1, promptLen := 64, kvBlocks := 1, kvHead := 5, kvTail := 5 }))

theorem test_witness_ship :
    let s := thaw 0 (routed0 false)
    s.mainOn = true ∧ (s.seat 0).state = .routed ∧ (tick late s).shipReady 0 = true ∧ s.live .P 0 = true ∧
      (tick late s).shipTag = some 1 := by decide +kernel

theorem test_witness_ship_fail :
    let x := received .P 0 1 0x22 (seatWord 0 1 0) 0 (tick 16 (routed0 true))
    (routed0 true).takes .P 0 1 = true ∧ x.current 0 1 = true ∧ (x.seat 0).state = .routed ∧ x.current 0 2 = false := by decide +kernel

theorem test_witness_shipwait : (routed0 true).mainOn = true ∧ ((routed0 true).side 0).ship = some ⟨true, 9, 0, 1, 0⟩ ∧
    ((routed0 true).seat 0).state = .routed ∧ 0 + 1000 * (routed0 true).fld F.PKV_WAIT_SHIPWAIT ≤ (tick late (routed0 true)).now := by
  decide +kernel

theorem test_witness_prefill_kv :
    let s := tick 16 (thaw 0 (routed0 true))
    let q : Gated := ⟨.prefillKv 16 0 1 1 9 carrier0, 0, 4, 9, .P, 0, 0, beatsOf s.carrierBytes⟩
    let x := receivedGated q 0x21 (payWord s.carrierBytes 9) s
    (routed0 true).mainOn = true ∧ s.gatedTakes q 0x21 (payWord s.carrierBytes 9) = true ∧
      (x.side 0).ship = some ⟨true, 9, 0, 1, 0⟩ ∧ x.current 0 1 = true ∧ (x.seat 0).state = .routed ∧
      x.blkBase 0 = 0 ∧ (x.chain 0)[0]? = some 5 ∧ tagMatches x 0 1 0 (tagBlk carrier0 (x.blk 5)) = true := by decide +kernel

theorem test_witness_pool_answers :
    let s := thaw 0 (modKv (fun k => { k with tags := [(9, .fetch 0 1 1 5 0), (10, .putPublish 5), (11, .imageBack 0 1 0)] }) on0)
    let q : Gated := ⟨.kvData 16 9 0 carrier0, 0, (tick 16 s).fetchUnit 9, 9, .C, 0, 0, beatsOf (tick 16 s).carrierBytes⟩
    let z : Gated := ⟨.imageData 16 11 0 ⟨[], [], [], []⟩, 0, 1, 11, .C, 0, 0, beatsOf 768⟩
    s.mainOn = true ∧ (tick 16 s).gatedTakes q 0x31 (payWord (tick 16 s).carrierBytes 9) = true ∧ on0.takes .C 0 2 = true ∧
      (tick 16 s).gatedTakes z 0x38 (payWord 768 11) = true ∧
      tget 0 s.kv.tagAt 9 + 1000 * s.fld F.PKV_WAIT_FETCHWAIT ≤ (tick late s).now ∧
      s.tagUse 9 = some (.fetch 0 1 1 5 0) ∧ s.tagUse 10 = some (.putPublish 5) := by decide +kernel

theorem test_witness_directory : on0.takes .C 0 1 = true ∧ (received .C 0 1 0x3A 0 0 (tick 16 on0)).noHits = false ∧
    (received .C 0 1 0x3A 0 0 (tick 16 (applyDeferred (setFld F.SIEVE_SAMPCFG_ROUNDEN 1 on0)))).noHits = true ∧
    1364 < (List.replicate 1365 (⟨0, 0, 0⟩ : DirEntry)).length ∧ on0.mainOn = true ∧ (on0.side 0).lookup = none := by decide +kernel

/-- An object slot that is live and current. -/
def obj0 (v : Nat) : ObjSlot := ⟨v, 0, true, true, false, 0, 0, 0, 0, 0⟩

theorem test_witness_objects :
    let a := modObj 0 0 0 (fun _ => obj0 0) on0
    let b := each (fun v s => modObj 0 0 v (fun _ => obj0 (v + 1)) s) [0, 1, 2, 3] on0
    let c := modKv (fun k => { k with retire := [(0, 0, 1)] }) on0
    on0.cmdOn = true ∧ (a.objVer a.objSel.1 a.objSel.2 (a.fld F.PKV_OBJDATA0_VERSION)).isSome = true ∧
      (b.objVer b.objSel.1 b.objSel.2 (b.fld F.PKV_OBJDATA0_VERSION) = none ∧
        ∀ v, v < 4 → (b.obj b.objSel.1 b.objSel.2 v).live = true ∨ (b.obj b.objSel.1 b.objSel.2 v).waitPop = true) ∧
      on0.objCur on0.objSel.1 on0.objSel.2 = none ∧ a.objCur a.objSel.1 a.objSel.2 = some 0 ∧ on0.kv.retire = [] ∧
      c.kv.retire = (0, 0, 1) :: [] := by decide +kernel

/-! Witnesses: models. -/

/-- `on0` with a model version whose second source is port C and whose repair fetch, of 4 KiB, has tag 9. -/
def repair0 : State := modKv (fun k => { k with tags := [(9, .repair 0 0 0 0 5 0)] })
  (modSeq (fun q => { q with store := [(0, { Desc.empty with bytes := 1 })] })
    (modModel 0 0 (fun _ => { ModelSlot.empty with f := { model0 with secKind := 2 }, live := true, ready := true, current := true }) on0))

theorem test_witness_weights : on0.mainOn = true ∧ (setFld F.MOD_CTRL_ENABLE 1 on0).on F.MOD_CTRL_ENABLE = true ∧ on0.live .T 0 = true ∧
    on0.portOpen .T = true ∧ 0 < on0.outCredit .T 0 0 ∧ on0.takes .T 0 0 = true ∧ on0.takes .N 0 2 = true ∧ on0.pwr.state ≠ 4 ∧
    (repair0.tagUse 9 = some (.repair 0 0 0 0 5 0) ∧ repair0.secPort 0 0 = some (.C, 0) ∧ repair0.accepts .C 0 0 0 = true ∧
      (1 : BitVec 4) ≠ 0) ∧
    (tick 16 (thaw 0 repair0)).gatedTakes ⟨.objData 16 .C 9 0, 0, 5, 9, .C, 0, 0, beatsOf (4096 * (repair0.desc 0 0 0).bytes.toNat)⟩ 0x3E
      (payWord (4096 * (repair0.desc 0 0 0).bytes.toNat) 9) = true ∧ (repair0.desc 0 0 0).bytes = 1 ∧
    tget 0 repair0.kv.tagAt 9 + 1000 * repair0.fld F.MOD_CTRL_SECWAIT ≤ (tick late repair0).now := by decide +kernel

/-- A slot in use takes its own fields again, and with another version they are a misuse. -/
theorem test_witness_models :
    let busy := modSeq (fun q => { q with scan := some (0, 0) }) on0
    on0.cmdOn = true ∧ on0.modBusy = false ∧ on0.mainOn = true ∧ on0.modelCur on0.modSel.1 = none ∧ on0.modSel = (0, 0) ∧
      repair0.modSel = (0, 0) ∧ repair0.modelCur repair0.modSel.1 = some 0 ∧
      ((on0.model 0 0).live = false ∧ (on0.model 0 0).waitPop = false ∧ changesLive on0 0 [Desc.empty] = false) ∧
      ({ model0 with secKind := 2 } = (repair0.model 0 0).f ∧ changesLive repair0 0 [{ Desc.empty with bytes := 1 }] = false) ∧
      ((repair0.model 0 0).live = true ∧ model0 ≠ (repair0.model 0 0).f) ∧
      ((repair0.model repair0.modSel.1 repair0.modSel.2).live = true ∧
        repair0.fld F.MOD_SEL_OBJIDX < (repair0.model repair0.modSel.1 repair0.modSel.2).f.objCount.toNat ∧
        (repair0.desc repair0.modSel.1 repair0.modSel.2 (repair0.fld F.MOD_SEL_OBJIDX)).poisoned = false) ∧
      busy.cmdOn = true ∧ busy.modBusy = true := by decide +kernel

/-! Witnesses: the Sieve. -/

/-- The running deal's row. -/
def row0 : Row := ⟨0, 1, 0, 0, [], [], none, 0, [0], false, 0, false, false, false, false, false, 0, none, false, none, false, false, none⟩

/-- The running deal with its row open, and a trick run that waits for drafts. -/
def sieve0 : State := modSieve (fun q => { q with
  rows := [row0], runs := [⟨0, 1, 0, 2, 8, 1, none, 0, [], 0, none, false, [], false⟩] }) running0

/-- A lane has room for 4,227,072 entries. -/
theorem test_witness_candidates :
    let m : CandMsg := { cand0 with entries := [⟨7, 0⟩] }
    let full := modSieve (fun q => { q with rows := [{ row0 with reserved := 4227072 }] }) sieve0
    on0.mainOn = true ∧ on0.portOpen .F = true ∧ full.laneFull m = true ∧ sieve0.laneFull m = false ∧
    strayList on0 cand0 = true ∧ strayList sieve0 cand0 = false ∧ sieve0.row 0 0 = some row0 := by decide +kernel

/-- DRAFTS of a run that waits, with D drafts and with one more; of a trick that has ended; and of none. -/
theorem test_witness_drafts :
    let q : SeatRun := ⟨0, 1, 0, 2, 8, 1, none, 0, [], 0, none, false, [], false⟩
    let r : Result := ⟨0, 1, 2, 8, 0, 0, none, [], 0, [], false, false, false, false⟩
    let done := modSieve (fun q => { q with runs := [], results := [r] }) sieve0
    on0.run 0 = none ∧ on0.sieve.results = [] ∧
    (sieve0.mainOn = true ∧ sieve0.portOpen .F = true ∧ sieve0.deals.running = some run0 ∧ run0.deal.epoch = (5 : BitVec 48).toNat ∧
      run0.abandoned = false ∧ sieve0.run 0 = some q ∧ q.gen = (1 : BitVec 16).toNat ∧ (sieve0.seat 0).gen = 1 ∧ q.kind = 2 ∧
      q.drafts = none ∧ (List.replicate 8 (0 : BitVec 20)).length ≤ q.dlen ∧ q.dlen < (List.replicate 9 (0 : BitVec 20)).length) ∧
    (done.run 0 = none ∧ done.deals.running = some run0 ∧ (done.seat 0).gen = 1 ∧
      (done.sieve.results.any fun r => r.seat == 0 && r.gen == 1 && r.kind == 2 && !r.drafted) = true) := by decide +kernel

theorem test_witness_order : isNan 0x40000000 = false ∧ isNan 0x3F800000 = false ∧ isNan 0 = false ∧
    precedes 0x40000000 0 0x3F800000 1 = true ∧ precedes 0x3F800000 1 0 2 = true ∧ precedes 0 2 0x80000000 3 = true ∧
    (isNan 0x7F7FFFFF = false ∧ isPinf 0x7F7FFFFF = false) ∧ isPinf 0xFF800000 = false := by decide +kernel

/-- A held entry of round 0 without flags. -/
def heldOf (tok logit shard : Nat) : Held := ⟨tok, logit, shard, 0, false, false, false, false, false, false⟩

theorem test_witness_arrival :
    let r := { row0 with held := [heldOf 1 0x40000000 0, heldOf 2 0x3F800000 0] }
    let a := heldOf 3 0 0
    let b := heldOf 1 0x40000000 1
    r.held.Pairwise (fun x y => precedes x.logit x.tok y.logit y.tok = true ∧ x.tok ≠ y.tok) ∧
      (∀ x ∈ r.held, isNan x.logit = false ∧ (x.tok = a.tok → (x.shard, x.round) ≠ (a.shard, a.round)) ∧
        (x.tok = b.tok → (x.shard, x.round) ≠ (b.shard, b.round))) ∧
      (a.tok = b.tok → (a.shard, a.round) ≠ (b.shard, b.round)) := by decide +kernel

/-! Witnesses: the Dealer and the Herald. -/

theorem test_witness_formats : (4095 < 4096 ∧ 255 < 256 ∧ 65535 < 65536 ∧ 2 ^ 32 - 1 < 2 ^ 32 ∧ 2 ^ 24 - 1 < 2 ^ 24) ∧
    ({ deal0 with epoch := 2 ^ 48 - 1 } : Deal).epoch < 2 ^ 48 := by decide

theorem test_witness_compose :
    let after := modDeals (fun d => { d with boundaryOf := some 5 }) on0
    let idle := setFld F.DEAL_CTRL_ENABLE 1 on0
    let seated := setSeat 0 { Seat.empty with state := .ready, gen := 1, maxTok := 8, promptLen := 64, nextPos := 64 }
      (setFld F.DEAL_CTRL_ENABLE 1 repair0)
    on0.mainOn = true ∧ on0.deals.composing = none ∧
      ((tick 16 after).mayCompose = true ∧ (tick 16 after).composeTime = true) ∧
      ((tick late running0).mayCompose = true ∧ (tick late running0).composeTime = true) ∧
      ((tick 16 idle).mayCompose = true ∧ (tick 16 idle).idle = true ∧ idle.on F.DEAL_CTRL_ENABLE = true ∧ idle.tableOk = true ∧
        (tick 16 idle).chooseModel.1 = none) ∧
      ((tick 16 seated).mayCompose = true ∧ (tick 16 seated).idle = true ∧ seated.on F.DEAL_CTRL_ENABLE = true ∧
        seated.tableOk = true ∧ (tick 16 seated).chooseModel.1.isSome = true) := by decide +kernel

theorem test_witness_launch :
    let s := setFld F.HER_CTRL_LAUNCHEN 1 (modDeals (fun d => { d with handed := some deal0, feedSent := true }) on0)
    s.mainOn = true ∧ s.deals.handed = some deal0 ∧ (tick 16 s).launchDue = true ∧ (tick 16 s).layerIn 0 0 5 0 = true ∧
      running0.mainOn = true ∧ running0.deals.running = some run0 := by decide +kernel

theorem test_witness_epoch_done :
    let s : State := { running0 with pwr := { running0.pwr with locked := some 0 } }
    let r := { run0 with epochDone := some 100 }
    let u := modDeals (fun d => { d with running := some r }) running0
    (s.deals.running = some run0 ∧ run0.deal.epoch = 5 ∧ run0.abandoned = false ∧ run0.epochDone = none ∧ s.pwr.locked.isSome = true ∧
      s.pwr.heldDone = none) ∧
      (u.mainOn = true ∧ u.deals.running = some r ∧ r.epochDone = some 100 ∧ r.abandoned = false ∧ u.sieve.runs = []) := by decide +kernel

theorem test_witness_stops : on0.cmdOn = true ∧ ({ on0.deals with stopped := true } : Deals).stopped = true ∧
    ({ on0.deals with stopping := true } : Deals).stopping = true ∧ on0.deals.stopped = false ∧ on0.deals.stopping = false ∧
    running0.deals.stopped = false ∧ running0.deals.stopping = false ∧ running0.deals.running = some run0 := by decide +kernel

/-! Witnesses: split seats. -/

/-- `on0` with a follower's seat. -/
def follow0 : State := withSeat { Seat.empty with state := .ready, gen := 1, role := 2, splitIdx := 0 }

theorem test_witness_split_seats :
    let m : SplitOpenMsg := { split0 with fromPool := true, len := 64, handles := [1] }
    on0.mainOn = true ∧ on0.accepts .N 0 0 (beatsOf (8 * split0.handles.length)) = true ∧ split0.wf = true ∧
    on0.accepts .N 0 0 (beatsOf (8 * m.handles.length)) = true ∧ m.wf = true ∧ on0.takes .N 0 1 = true ∧ follow0.takes .N 0 1 = true ∧
    (received .N 0 1 0x72 0 0 (heard 0 (tick 16 follow0))).splitRef 0 1 2 = true ∧
    (received .N 0 1 0x73 0 0 (heard 0 (tick 16 follow0))).splitRef 0 2 2 = false ∧
    (received .N 0 1 0x74 0 0 (heard 0 (tick 16 on0))).splitRef 0 0 2 = false := by decide +kernel

/-- A lease lent to peer 0 for epoch 5 alone, with one message and one beat. -/
theorem test_witness_joint :
    let lent := thaw 2 (modDeals (fun d => { d with leases := [⟨0, true, 5, 1, 1, 1, 0⟩] }) on0)
    let x := portCnt .N 0 1 (heard 0 (tick 16 lent))
    lent.mainOn = true ∧ lent.live .N 0 = true ∧ lent.portOpen .N = true ∧ lent.lentTo 0 5 0 = true ∧
      (lent.lentTo 0 6 0 = false ∧ lent.accepts .N 0 1 0 = true) ∧
      (underLease 0 5 0 x).1 = true ∧ (underLease 0 6 0 x).1 = false ∧
      ((underLease 0 5 1 x).1 = true ∧ beatsOf 256 = 1 ∧
        (underLease 0 5 1 x).2.gateTakes ⟨.query 16 0 5 0 (0, ⟨256, 9, []⟩) 0 0, 2, 1, 9, .N, 0, 3, 1⟩ = true ∧
        (underLease 0 5 1 x).2.gateTakes ⟨.partialMsg 16 0 5 0 0 0 (0, ⟨256, 9, []⟩), 2, 0, 9, .N, 0, 3, 1⟩ = true) ∧
      ((underLease 0 5 2 x).1 = false ∧ beatsOf 257 = 2) := by decide +kernel

/-- PEERWAIT is counted from the instant the wait began. -/
theorem test_witness_peer_waits :
    let w : PeerWait := ⟨0, 0, [1], some 0⟩
    let s := modDeals (fun d => { d with peerWaits := [w], followWaits := [(0, 0)] }) on0
    on0.mainOn = true ∧ on0.portOpen .F = true ∧ on0.takes .N 0 2 = true ∧ s.mainOn = true ∧
      (s.deals.peerWaits.find? fun w => w.seat == 0 &&
        w.since.any fun b => decide (b + 1000 * s.fld F.HER_PEER_PEERWAIT ≤ (tick late s).now)) = some w ∧
      (s.deals.followWaits.find? fun w => w.1 == 0 && decide (w.2 + 1000 * s.fld F.HER_PEER_PEERWAIT ≤ (tick late s).now)) = some (0, 0) := by
  decide +kernel

/-! Witnesses: the transfer gates. -/

/-- `on0` with gate 0 out of its start freeze since the instant 0, where requesters 0 and 5 request. -/
def gate0 : State := modReq 0 0 0 (fun q => { q with requesting := true }) (modReq 0 0 5 (fun q => { q with requesting := true })
  (gateThaw 0 (thaw 0 on0)))

theorem test_witness_contest : ((gate0.gate 0).path 0).owner = none ∧ gate0.gateFrozen 0 = false ∧
    ((gate0.gate 0).path 0).waiterDue = false ∧ (((gate0.gate 0).path 0).grants + 1) % max 1 (gate0.fld (F.GATE_CFG_ROTN 0)) ≠ 0 ∧
    (0 ∈ requesters 0 ∧ gate0.wants 0 0 0 = true) ∧ (5 ∈ requesters 0 ∧ gate0.wants 0 0 5 = true) := by decide +kernel

/-- A T-stream request needs a TFETCH of its destination and its tier. -/
theorem test_witness_gate_request :
    let f : Fetch := ⟨0, 0, 0, 2, 5, 0, none⟩
    let u := modSeq (fun q => { q with out := [(9, f)] }) on0
    let l := modReq 0 0 0 (fun q => { q with tag := 9, lapsed := true })
      (modKv (fun k => { k with tags := [(9, .fetch 0 1 1 5 0)] }) on0)
    on0.mainOn = true ∧ on0.mayRequest (gateNo .clink) 0 5 9 = true ∧ ((on0.gate 0).req 0 5).requesting = false ∧
      ((on0.gate 0).req 0 5).lapsed = false ∧ u.mayRequest (gateNo .tstream) 1 2 9 = true ∧ u.mayRequest (gateNo .tstream) 0 2 9 = false ∧
      on0.mayRequest (gateNo .nlink) 0 3 9 = true ∧ on0.mayRequest 0 0 6 9 = false ∧ ((gate0.gate 0).req 0 0).requesting = true ∧
      (((l.gate 0).req 0 0).lapsed = true ∧ ((l.gate 0).req 0 0).tag = 9 ∧ l.leasedAgain 0 9 = false) := by decide +kernel

/-- WINDOW is 65,535 cycles at most and 4,096 at start. -/
theorem test_witness_gate_commands : on0.mainOn = true ∧ on0.gateFrozen 0 = true ∧ gate0.mainOn = true ∧
    (tick 16 gate0).edgeDue 0 = false ∧ (tick late gate0).edgeDue 0 = true ∧
    (0 ∈ requesters (gateNo .clink) ∧ 0 < gate0.share (gateNo .clink) 0) ∧ on0.cmdOn = true ∧
    (((on0.gate 0).path 0).owner = none ∧ ((on0.gate 0).path 1).owner = none) ∧
    (let x := contest 0 0 0 false gate0
     (((moveBeats 0 0 0 (tick 16 x)).gate 0).path 0).silent (moveBeats 0 0 0 (tick 16 x)).now = false ∧
       (((moveBeats 0 0 0 (tick late x)).gate 0).path 0).silent (moveBeats 0 0 0 (tick late x)).now = true) := by
  decide +kernel

/-! Witnesses: observation, the write lock and the scrubber. -/

theorem test_witness_snapshots : on0.cmdOn = true ∧ (∀ n, on0.cnt n < 2 ^ 48) ∧ on0.noGrant ∧ 255 < 256 ∧
    ({ on0.obs with snapPend := true } : Obs).snapPend = true := by
  refine ⟨by decide +kernel, fun n => ?_, fun g => ⟨rfl, rfl⟩, by decide, rfl⟩
  have h : on0.cnt n = 0 := by unfold State.cnt; split <;> rfl
  rw [h]; decide

/-- PRE 1,048,576 and POST 65,536 fit at start; PRE 0 does not. -/
theorem test_witness_trace :
    let r := mkTrc 0 0 0 0 0 0 0 false 0
    on0.cmdOn = true ∧ on0.trcCfgOk = true ∧ (setFld F.TRC_CFG_PRE 0 on0).cmdOn = true ∧ (setFld F.TRC_CFG_PRE 0 on0).trcCfgOk = false ∧
      on0.obs.trcState ≠ 1 ∧ ({ on0.obs with trcState := 1 } : Obs).trcState = 1 ∧ on0.mainOn = true ∧
      ({ on0.obs with staging := [(0, r)] } : Obs).staging = (0, r) :: [] ∧
      ({ on0.obs with opsHeld := some (5, 0, []) } : Obs).opsHeld = some (5, 0, []) ∧ running0.deals.running = some run0 := by decide +kernel

/-- 65,536 cycles of 2/3 ns are 43,691 ns, so the counter's step to 43,696 ns ends the lock. -/
theorem test_witness_lock :
    let s : State := { on0 with pwr := { on0.pwr with locked := some 0 } }
    let u : State := { s with pwr := { s.pwr with heldDone := some (5, 0, false, 0, []) } }
    on0.cmdOn = true ∧ on0.pwr.locked = none ∧ s.cmdOn = true ∧ s.pwr.locked.isSome = true ∧ s.mainOn = true ∧
      s.pwr.locked = some 0 ∧ 0 + 43691 ≤ (tick 43696 s).now ∧ on0.pwr.heldDone = none ∧
      u.pwr.heldDone = some (5, 0, false, 0, []) := by decide +kernel

/-! One step. -/

/-- A test of the state that a command leaves; a command that stops fails it. -/
def after (o : Host.Outcome State Fault Refusal) (f : State → Bool) : Bool := match o with
  | .next u => f u
  | _ => false

/-- Word 0 of the message that left last. -/
def lastWord0 (s : State) : Option Word := (s.egress.head?).bind fun m => m.words.head?

/-- R271: a start that finds BOOTS 3 enters Bedrock mode with REASON 16; BOOTS becomes 4 and ERA 1. -/
theorem test_start_bedrock : after (exec (.powerOnStart true) { State.reset with keep := { KeepMram.blank with boots := 3 } })
    (fun u => u.pwr.mode == 2 && u.pwr.reason == 16 && u.keep.boots == 4 && u.keep.era == 1) = true := by decide +kernel

/-- R271: a start that finds BOOTS 2 does not. -/
theorem test_start_plain : after (exec (.powerOnStart true) { State.reset with keep := { KeepMram.blank with boots := 2 } })
    (fun u => u.pwr.mode == 0 && u.keep.boots == 3) = true := by decide +kernel

/-- R240, R247: on a link that comes up HELLO leaves: opcode 0x01, LENGTH 2, ROLE 3, ASPVER 1. -/
theorem test_link_up_hello : after (exec (.linkUp 16 .G 0) (gLink Sess.empty)) (fun u => lastWord0 u == some 0x0100230100000000) = true := by
  decide +kernel

/-- R51, R250: a second OPEN with a live request id is refused with code 0x08: opcode 0x13, LENGTH 3. -/
theorem test_open_duplicate : after (exec (.openReq 16 open0)
    (setSeat 1 { Seat.empty with state := .ready, gen := 1, reqid := 11 } on0))
    (fun u => lastWord0 u == some 0x1300308000000000 && u.cnt 0x06 == 1 && (u.seat 0).state == .free && (u.seat 0).gen == 1) = true := by
  decide +kernel

/-- R245: a message on a port in its greeting phase is answered with NOT_READY: opcode 0x03, LENGTH 3, REFOP 0x16. -/
theorem test_not_ready : after (exec (.cancel 16 11) { on0 with ports := { on0.ports with open_ := [6] } })
    (fun u => lastWord0 u == some 0x0300316000000000 && u.ports.pool == 0) = true := by decide +kernel

/-- R242: CREDIT adds message and payload credit. -/
theorem test_credit : after (exec (.credit 16 .C 0 false 7 [(1, 5)]) on0)
    (fun u => u.outCredit .C 0 1 == 13 && (u.sess .C 0).outPay == 107 && u.outCredit .C 0 0 == 8) = true := by decide +kernel

/-- R276, R283: a sag warning takes STATE to 5 and begins a record. -/
theorem test_sag_warning : after (exec (.sagWarning 32) on0)
    (fun u => u.pwr.state == 5 && !u.mainOn && u.keep.sag.isSome && u.cnt 0xF3 == 1) = true := by decide +kernel

/-- R42: at a window edge LEVEL becomes min(CAP, LEVEL + REFILL). -/
theorem test_window_refill : after (exec (.windowEdge 100000000)
    (modTenant 3 (fun t => { t with cap := 100, level := 95, refill := 10 }) on0))
    (fun u => (u.tenant 3).level == 100 && u.est.edgeAt == 100000000) = true := by decide +kernel

/-- R286: SNAPNOW raises SNAPSEQ by one. -/
theorem test_snapnow : after (exec .obsSnapnow (bump 0x05 on0)) (fun u => u.obs.snapSeq == 1 && u.read 0x5828 == 0x0001000000000001) = true := by
  decide +kernel

/-- R7: a write stores its fields. -/
theorem test_register_write : after (exec (.registerWrite 16 0x810 1000) on0) (fun u => u.fld F.ADM_WINDOW_WINLEN == 1000) = true := by
  decide +kernel

/-- R7: FLAGS clear where they are written as 1. -/
theorem test_register_w1c : after (exec (.registerWrite 16 0x28c0 (F.PKV_FLAGS_SHIPFAIL.mask)) (setFlag F.PKV_FLAGS_MISMATCH (setFlag F.PKV_FLAGS_SHIPFAIL on0)))
    (fun u => u.fld F.PKV_FLAGS_SHIPFAIL == 0 && u.fld F.PKV_FLAGS_MISMATCH == 1) = true := by decide +kernel

/-- R320: the lock is taken once, and an epoch-done under it waits. -/
theorem test_lock_holds : after (exec (.epochDone 32 5 false 0 []) { running0 with pwr := { running0.pwr with locked := some 0 } })
    (fun u => u.pwr.heldDone.isSome && u.pwr.holds == 1) = true := by decide +kernel

/-- R223, R237: of two requesters of gate 0 the one with PRIO 1 wins the contest. -/
theorem test_contest_prio : (((contest 0 0 0 false gate0).gate 0).path 0).owner = some 5 := by decide +kernel

/-- R220, R229: a fetched payload waits in the port's buffer while its gate is frozen, and its credit with it. -/
theorem test_payload_waits : after (exec (.kvData 16 9 0 carrier0)
    (modKv (fun k => { k with tags := [(9, .fetch 0 1 1 5 0)] }) on0))
    (fun u => u.ports.gated.length == 1 && (u.sess .C 0).inn == [7, 8, 8] && u.tagUse 9 == some (.fetch 0 1 1 5 0)) = true := by
  decide +kernel

/-- R238, R255: a directory message without entries is discarded and counted. -/
theorem test_dir_badlen : after (exec (.dirAdd 16 []) on0)
    (fun u => u.cnt 0xFA == 1 && u.fld (F.PORT_FLAGS_BADLEN 2) == 1 && u.cnt 0x90 == 0) = true := by decide +kernel

/-- R8, R299: a write of ones to the reserved bits of a counter register is a misuse. -/
theorem test_counter_reserved : exec (.registerWrite 16 0x5000 0x0001000000000000) on0 = .fault (.misuse 8) := rfl

/-- R207, R257: TSTATUS sets the tiers. -/
theorem test_tstatus : after (exec (.tstatus 16 true false) on0) (fun u => u.seq.flashUp && !u.seq.hbmUp) = true := by decide +kernel

/-- R169, R202: a corrected context-table error sets HOTCE. -/
theorem test_context_corrected : after (exec (.scrubTick 16 (.context 0 true)) on0)
    (fun u => u.fld F.PKV_FLAGS_HOTCE == 1 && u.cnt 0x8F == 1 && u.fld F.PKV_FLAGS_HOTUE == 0) = true := by decide +kernel

end Sys2Proof.Tests
end

/-! # Scope statements: the register window, the step, and the frame of every command

The outcomes of a command are bounded by `Leads`, a change that keeps the core of the state and its canonical form by `Quiet`, and a
change that may move modes and keep-MRAM but neither the queue, the part nor the clock by `Steady`. -/
namespace Sys2Proof.Machine

/-! ## Outcomes -/

/-- Every next state that the outcome gives satisfies `P`. -/
def Leads (P : State → Prop) (o : Host.Outcome State Fault Refusal) : Prop := ∀ u, o = .next u → P u

theorem Leads.next {P : State → Prop} {x : State} (h : P x) : Leads P (.next x) := fun _ e => by cases e; exact h

theorem Leads.fault {P : State → Prop} {r : Fault} : Leads P (.fault r) := fun _ e => by cases e

theorem Leads.ite {P : State → Prop} {c : Prop} [Decidable c] {a b : Host.Outcome State Fault Refusal} (ha : Leads P a)
    (hb : Leads P b) : Leads P (if c then a else b) := by
  split
  · exact ha
  · exact hb

theorem Leads.guard {P : State → Prop} {c : Prop} [Decidable c] {x y : State} (hx : P x) (hy : P y) :
    Leads P (if c then .next x else .next y) := .ite (.next hx) (.next hy)

theorem Leads.imp {P Q : State → Prop} {o : Host.Outcome State Fault Refusal} (h : Leads P o) (k : ∀ u, P u → Q u) : Leads Q o :=
  fun u e => k u (h u e)

theorem Leads.andThen {P Q : State → Prop} {o : Host.Outcome State Fault Refusal} {f : State → Host.Outcome State Fault Refusal}
    (h : Leads Q o) (k : ∀ v, Q v → Leads P (f v)) : Leads P (andThen o f) := fun u e => by
  obtain ⟨v, hv, e⟩ := andThen_next e
  exact k v (h v hv) u e

/-! ## Changes that keep the core -/

/-- From `s` to `u` the core stays, and so does the canonical form of the indexed stores. -/
structure Quiet (s u : State) : Prop where
  core : u.core = s.core
  tidy : s.tidy → u.tidy

namespace Quiet

variable {s x : State} {f : State → State}

theorem refl : Quiet s s := ⟨rfl, id⟩

/-- An operation whose laws say that it keeps the core and the canonical form. -/
theorem op (h : Quiet s x) (hc : ∀ s, (f s).core = s.core) (ht : ∀ s, s.tidy → (f s).tidy) : Quiet s (f x) :=
  ⟨(hc x).trans h.core, fun k => ht x (h.tidy k)⟩

theorem trans {y : State} (h : Quiet s x) (k : Quiet x y) : Quiet s y := ⟨k.core.trans h.core, fun t => k.tidy (h.tidy t)⟩

theorem finish (h : Quiet s x) : Quiet s (finish x) := h.op finish_core finish_tidy

theorem bump (h : Quiet s x) (c : Nat) : Quiet s (bump c x) := h.op (bump_core c) (bump_tidy c)

theorem bumpN (h : Quiet s x) (c n : Nat) : Quiet s (bumpN c n x) := h.op (bumpN_core c n) (bumpN_tidy c n)

theorem setFlag (h : Quiet s x) (g : Fld) : Quiet s (setFlag g x) := h.op (setFlag_core g) (setFlag_tidy g)

theorem modDeals (h : Quiet s x) (g : Deals → Deals) : Quiet s (modDeals g x) := h.op (modDeals_core g) (modDeals_tidy g)

theorem modPorts (h : Quiet s x) (g : Ports → Ports) : Quiet s (modPorts g x) := h.op (modPorts_core g) (modPorts_tidy g)

theorem drain (h : Quiet s x) : Quiet s (drain x) := h.op drain_core drain_tidy

theorem ite {c : Prop} [Decidable c] {y : State} (h : Quiet s x) (k : Quiet s y) : Quiet s (if c then x else y) := by
  split
  · exact h
  · exact k

theorem each {α : Type} {g : α → State → State} (h : Quiet s x) (hg : ∀ a s, Quiet s (g a s)) (l : List α) :
    Quiet s (each g l x) :=
  ⟨(each_core (fun a s => (hg a s).core) rfl).trans h.core, fun k => each_tidy (fun a s => (hg a s).tidy) (h.tidy k)⟩

/-! A message acts only in the state that its arrival leaves, so its command is quiet as soon as its effect is. -/

variable {opcode : Nat} {word1 : Word}

theorem taking {p : Port} {peer cls beats : Nat} (h : Quiet s x) (hf : ∀ s, Quiet s (f s)) :
    Quiet s (taking p peer cls opcode word1 beats f x) :=
  ⟨taking_core (fun s => (hf s).core) h.core, fun k => taking_tidy (fun s => (hf s).tidy) (h.tidy k)⟩

theorem takingGated {g : Gated} (h : Quiet s x) (hf : ∀ s, Quiet s (f s)) : Quiet s (takingGated g opcode word1 f x) :=
  ⟨takingGated_core (fun s => (hf s).core) h.core, fun k => takingGated_tidy (fun s => (hf s).tidy) (h.tidy k)⟩

theorem dirTaken {n : Nat} (h : Quiet s x) (hf : ∀ s, Quiet s (f s)) : Quiet s (dirTaken opcode n f x) :=
  ⟨dirTaken_core (fun s => (hf s).core) h.core, fun k => dirTaken_tidy (fun s => (hf s).tidy) (h.tidy k)⟩

theorem fromPeer {peer cls beats : Nat} (h : Quiet s x) (hf : ∀ s, Quiet s (f s)) :
    Quiet s (fromPeer peer cls opcode word1 beats f x) :=
  ⟨fromPeer_core (fun s => (hf s).core) h.core, fun k => fromPeer_tidy (fun s => (hf s).tidy) (h.tidy k)⟩

theorem fromPeerLeased {g : Gated} {el : Nat} (h : Quiet s x) (hf : ∀ s, Quiet s (f s)) :
    Quiet s (fromPeerLeased g opcode el word1 f x) :=
  ⟨fromPeerLeased_core (fun s => (hf s).core) h.core, fun k => fromPeerLeased_tidy (fun s => (hf s).tidy) (h.tidy k)⟩

theorem fromPeerJoint {peer el : Nat} (h : Quiet s x) (hf : ∀ s, Quiet s (f s)) :
    Quiet s (fromPeerJoint peer opcode el word1 f x) :=
  ⟨fromPeerJoint_core (fun s => (hf s).core) h.core, fun k => fromPeerJoint_tidy (fun s => (hf s).tidy) (h.tidy k)⟩

end Quiet

/-! ## Commands that keep the core: the Sieve -/

theorem execCandList_quiet (t : BitVec 64) (m : CandMsg) (s : State) : Leads (Quiet (tick t s)) (execCandList t m s) :=
  .ite (.next .refl) (.guard .refl (((Quiet.refl.bump 0xFE).op candBack_core candBack_tidy).op (candIn_core m) (candIn_tidy m)))

theorem execRefillRoomFreed_quiet (t : BitVec 64) (lane : BitVec 5) (s : State) :
    Leads (Quiet (tick t s)) (execRefillRoomFreed t lane s) :=
  .guard .refl ((Quiet.refl.op candBack_core candBack_tidy).op (serveWaiting_core _) (serveWaiting_tidy _))

theorem draftsOf_quiet (q : SeatRun) (m : DraftsMsg) (s : State) : Quiet s (draftsOf q m s).2 := by
  unfold draftsOf
  split
  · exact .refl
  · exact ⟨rfl, id⟩

theorem execDrafts_quiet (t : BitVec 64) (m : DraftsMsg) (s : State) : Leads (Quiet (tick t s)) (execDrafts t m s) := by
  have taken : Quiet (tick t s) (bump 0xFE (tick t s)) := Quiet.refl.bump 0xFE
  refine .ite (.next .refl) (.ite (.next .refl) ?_)
  dsimp only
  split
  · exact .next (taken.op (draftsLate_core _ m) (draftsLate_tidy _ m))
  · exact .guard (taken.op (stray_core _) (stray_tidy _))
      (((taken.trans (draftsOf_quiet _ m _)).op (modRun_core _ _) (modRun_tidy _ _)).op (pumpRun_core _ _) (pumpRun_tidy _ _))

/-! ## Commands that keep the core: models and the sequencer -/

theorem execTfetch_quiet (t : BitVec 64) (s : State) : Leads (Quiet (tick t s)) (execTfetch t s) :=
  .ite (.next .refl) (.guard ((Quiet.refl.op issueNext_core issueNext_tidy).op holdStep_core holdStep_tidy) .refl)

/-- What an answer of the tiers leads to: loads end, messages leave, and the launch that waited is looked at again. -/
theorem Quiet.served {s x : State} (h : Quiet s x) : Quiet s (holdStep (Machine.drain (idleActions x))) :=
  ((h.op idleActions_core idleActions_tidy).drain).op holdStep_core holdStep_tidy

theorem execTdone_quiet (t : BitVec 64) (tag : BitVec 24) (status : BitVec 4) (badAddr : Word) (s : State) :
    Leads (Quiet (tick t s)) (execTdone t tag status badAddr s) :=
  .guard .refl (Quiet.refl.taking fun _ => (Quiet.refl.op (tdoneTaken_core _ _) (tdoneTaken_tidy _ _)).served)

theorem execTerr_quiet (t : BitVec 64) (addr : Word) (s : State) : Leads (Quiet (tick t s)) (execTerr t addr s) :=
  .guard .refl (Quiet.refl.taking fun _ => (Quiet.refl.each (fun a s => ⟨terrOne_core a s, terrOne_tidy a s⟩) _).served)

theorem execObjData_quiet (t : BitVec 64) (p : Port) (tag : BitVec 24) (status : BitVec 4) (s : State) :
    Leads (Quiet (tick t s)) (execObjData t p tag status s) :=
  .guard .refl (Quiet.refl.takingGated fun _ => Quiet.refl.op (objDataIn_core _ _) (objDataIn_tidy _ _))

theorem execSecwaitExpiry_quiet (t : BitVec 64) (tag : BitVec 24) (s : State) :
    Leads (Quiet (tick t s)) (execSecwaitExpiry t tag s) :=
  .ite (.next .refl) (.guard (Quiet.refl.op (objDataTaken_core _ _) (objDataTaken_tidy _ _)).served .refl)

theorem execObjFetch_quiet (t : BitVec 64) (peer : BitVec 6) (tag : BitVec 24) (handle : Word) (bytes : BitVec 32) (s : State) :
    Leads (Quiet (tick t s)) (execObjFetch t peer tag handle bytes s) :=
  .guard .refl (Quiet.refl.taking fun _ => Quiet.refl.op (objFetchTaken_core _ _ _) (objFetchTaken_tidy _ _ _))

theorem execModRegister_quiet (f : ModelFields) (ds : List Desc) (s : State) : Leads (Quiet s) (execModRegister f ds s) := by
  refine .ite (.next .refl) ?_
  split
  · exact .fault
  · exact .next (Quiet.refl.op (modRegisterStart_core f ds) (modRegisterStart_tidy f ds))

theorem Quiet.hotRetry {s x : State} (h : Quiet s x) : Quiet s (hotRetry x) := h.op hotRetry_core hotRetry_tidy

theorem execModRegisterDone_quiet (t : BitVec 64) (s : State) : Leads (Quiet (tick t s)) (execModRegisterDone t s) :=
  .guard .refl (Quiet.refl.op modRegisterEnd_core modRegisterEnd_tidy).hotRetry

theorem execModWithdraw_quiet (s : State) : Leads (Quiet s) (execModWithdraw s) :=
  .ite (.next .refl) (.ite .fault (.next (Quiet.refl.op modWithdraw_core modWithdraw_tidy).hotRetry))

theorem execModHotload_quiet (t : BitVec 64) (s : State) : Leads (Quiet (tick t s)) (execModHotload t s) :=
  .ite (.next .refl) (.ite .fault (.next (Quiet.refl.op (hotStart_core _ _) (hotStart_tidy _ _))))

theorem execModReobj_quiet (fix : Option Desc) (s : State) : Leads (Quiet s) (execModReobj fix s) :=
  .ite (.next .refl) (.ite .fault (.next (Quiet.refl.op (modReobj_core fix) (modReobj_tidy fix)).hotRetry))

theorem execModRetirePop_quiet (s : State) : Leads (Quiet s) (execModRetirePop s) :=
  .guard .refl (Quiet.refl.op modPop_core modPop_tidy)

/-! ## Commands that keep the core: prompts, lookups and the KV ports -/

theorem execPromptwaitExpiry_quiet (t : BitVec 64) (seat : BitVec 16) (s : State) :
    Leads (Quiet (tick t s)) (execPromptwaitExpiry t seat s) :=
  .ite (.next .refl) (.guard (Quiet.refl.op (closeSeat_core _ _) (closeSeat_tidy _ _)).finish .refl)

theorem execBlockHashDone_quiet (t : BitVec 64) (seat : BitVec 16) (s : State) :
    Leads (Quiet (tick t s)) (execBlockHashDone t seat s) :=
  .guard .refl (Quiet.refl.op (hashNext_core _) (hashNext_tidy _)).finish

theorem execIndexProbeDone_quiet (t : BitVec 64) (seat : BitVec 16) (s : State) :
    Leads (Quiet (tick t s)) (execIndexProbeDone t seat s) :=
  .guard .refl (Quiet.refl.op (probeDone_core _) (probeDone_tidy _)).finish

theorem execResidentBlockVerified_quiet (t : BitVec 64) (seat : BitVec 16) (s : State) :
    Leads (Quiet (tick t s)) (execResidentBlockVerified t seat s) :=
  .guard .refl (Quiet.refl.op (residentVerified_core _) (residentVerified_tidy _)).finish

theorem execPrefillShip_quiet (t : BitVec 64) (seat : BitVec 16) (s : State) :
    Leads (Quiet (tick t s)) (execPrefillShip t seat s) := by
  refine .ite (.next .refl) ?_
  dsimp only
  split
  · exact .guard (Quiet.refl.op (sendShip_core _ _) (sendShip_tidy _ _)).finish .refl
  · exact .next .refl

theorem execPrefillKv_quiet (t : BitVec 64) (seat gen : BitVec 16) (block : BitVec 18) (tag : BitVec 24) (c : BlockTag) (s : State) :
    Leads (Quiet (tick t s)) (execPrefillKv t seat gen block tag c s) :=
  .guard .refl (Quiet.refl.takingGated fun _ => Quiet.refl.op (prefillKvIn_core _ _ _ _ c) (prefillKvIn_tidy _ _ _ _ c))

theorem Quiet.shipFail {s x : State} (h : Quiet s x) (i : Nat) : Quiet s (shipFail i x) := h.op (shipFail_core i) (shipFail_tidy i)

theorem execPrefillFail_quiet (t : BitVec 64) (seat gen : BitVec 16) (code : BitVec 8) (s : State) :
    Leads (Quiet (tick t s)) (execPrefillFail t seat gen code s) :=
  .guard .refl (Quiet.refl.taking fun _ => .ite (Quiet.refl.shipFail _).finish (Quiet.refl.bump 0x07))

theorem execShipwaitExpiry_quiet (t : BitVec 64) (seat : BitVec 16) (s : State) :
    Leads (Quiet (tick t s)) (execShipwaitExpiry t seat s) := by
  refine .ite (.next .refl) ?_
  dsimp only
  split
  · exact .guard (Quiet.refl.shipFail _).finish .refl
  · exact .next .refl

theorem execKvData_quiet (t : BitVec 64) (tag : BitVec 24) (handle : BitVec 32) (c : BlockTag) (s : State) :
    Leads (Quiet (tick t s)) (execKvData t tag handle c s) :=
  .guard .refl (Quiet.refl.takingGated fun _ => Quiet.refl.op (kvDataIn_core _ c) (kvDataIn_tidy _ c))

theorem Quiet.fetchMissed {s x : State} (h : Quiet s x) (n : Nat) : Quiet s (fetchMissed n x) :=
  h.op (fetchMissed_core n) (fetchMissed_tidy n)

theorem Quiet.putAnswered {s x : State} (h : Quiet s x) (n : Nat) (a : Option Nat) : Quiet s (putAnswered n a x) :=
  h.op (putAnswered_core n a) (putAnswered_tidy n a)

theorem execKvMiss_quiet (t : BitVec 64) (tag : BitVec 24) (handle : BitVec 32) (s : State) :
    Leads (Quiet (tick t s)) (execKvMiss t tag handle s) :=
  .guard .refl (Quiet.refl.taking fun _ => (Quiet.refl.fetchMissed _).finish)

theorem execPutAck_quiet (t : BitVec 64) (tag : BitVec 24) (handle : BitVec 32) (s : State) :
    Leads (Quiet (tick t s)) (execPutAck t tag handle s) :=
  .guard .refl (Quiet.refl.taking fun _ => (Quiet.refl.putAnswered _ _).finish)

theorem execPutDecline_quiet (t : BitVec 64) (tag : BitVec 24) (s : State) : Leads (Quiet (tick t s)) (execPutDecline t tag s) :=
  .guard .refl (Quiet.refl.taking fun _ => ((Quiet.refl.bump 0x89).putAnswered _ _).finish)

theorem execImageData_quiet (t : BitVec 64) (tag : BitVec 24) (handle : BitVec 32) (m : Image) (s : State) :
    Leads (Quiet (tick t s)) (execImageData t tag handle m s) :=
  .guard .refl (Quiet.refl.takingGated fun _ => Quiet.refl.op (imageDataIn_core _ m) (imageDataIn_tidy _ m))

theorem execDirAdd_quiet (t : BitVec 64) (es : List DirEntry) (s : State) : Leads (Quiet (tick t s)) (execDirAdd t es s) :=
  .guard .refl (Quiet.refl.dirTaken fun _ =>
    (Quiet.ite .refl (Quiet.refl.each (fun _ s => ⟨insertKey_core _ _ s, insertKey_tidy _ _ s⟩) es)).bumpN 0x90 _)

theorem execDirDrop_quiet (t : BitVec 64) (es : List DirEntry) (s : State) : Leads (Quiet (tick t s)) (execDirDrop t es s) :=
  .guard .refl (Quiet.refl.dirTaken fun _ => (Quiet.refl.each (fun e s => ⟨dropDir_core e s, dropDir_tidy e s⟩) es).bumpN 0x91 _)

theorem execReplayEnd_quiet (t : BitVec 64) (count : Word) (s : State) : Leads (Quiet (tick t s)) (execReplayEnd t count s) :=
  .guard .refl (Quiet.refl.taking fun _ => Quiet.refl.op (fun _ => modPwr_core rfl) (modPwr_tidy _))

theorem execFetchwaitExpiry_quiet (t : BitVec 64) (tag : BitVec 24) (s : State) :
    Leads (Quiet (tick t s)) (execFetchwaitExpiry t tag s) := by
  have answered : Leads (Quiet (tick t s)) (.next (finish (putAnswered tag.toNat none (tick t s)))) :=
    .next (Quiet.refl.putAnswered _ _).finish
  refine .ite (.next .refl) (.ite ?_ (.next .refl))
  split
  · exact answered
  · exact answered
  · exact answered
  · exact answered
  · exact .next .refl
  · exact .next (Quiet.refl.fetchMissed _).finish
  · exact .next .refl

theorem execPkvRegister_quiet (s : State) : Leads (Quiet s) (execPkvRegister s) :=
  .guard .refl (Quiet.refl.op registerObj_core registerObj_tidy)

theorem execPkvWithdraw_quiet (s : State) : Leads (Quiet s) (execPkvWithdraw s) :=
  .guard .refl (Quiet.refl.op withdrawObj_core withdrawObj_tidy)

theorem execPkvRetirePop_quiet (s : State) : Leads (Quiet s) (execPkvRetirePop s) :=
  .guard .refl (Quiet.refl.op popObj_core popObj_tidy)

/-! ## Commands that keep the core: split seats -/

theorem execLease_quiet (t : BitVec 64) (peer : BitVec 6) (el : BitVec 48) (len : BitVec 8) (msgs : BitVec 16) (beats : BitVec 40)
    (s : State) : Leads (Quiet (tick t s)) (execLease t peer el len msgs beats s) :=
  .guard .refl (Quiet.refl.fromPeer fun _ => Quiet.refl.op (leaseTaken_core _ _ _ _ _) (leaseTaken_tidy _ _ _ _ _))

theorem execLeaseIdleExpiry_quiet (t : BitVec 64) (peer : BitVec 6) (s : State) :
    Leads (Quiet (tick t s)) (execLeaseIdleExpiry t peer s) :=
  .guard .refl ((Quiet.refl.modDeals _).bumpN 0x57 _)

theorem execSplitOpen_quiet (t : BitVec 64) (peer : BitVec 6) (m : SplitOpenMsg) (s : State) :
    Leads (Quiet (tick t s)) (execSplitOpen t peer m s) :=
  .guard .refl (Quiet.refl.fromPeer fun _ =>
    .ite (Quiet.refl.op (splitOpenTaken_core _ m) (splitOpenTaken_tidy _ m)) ((Quiet.refl.bump 0xFA).setFlag _))

theorem execSplitOpened_quiet (t : BitVec 64) (peer : BitVec 6) (reqid : BitVec 64) (seat gen : BitVec 16) (self : BitVec 5)
    (refused : Bool) (hits : BitVec 18) (s : State) :
    Leads (Quiet (tick t s)) (execSplitOpened t peer reqid seat gen self refused hits s) :=
  .guard .refl (Quiet.refl.fromPeer fun _ =>
    Quiet.refl.op (splitOpenedTaken_core _ _ _ _ _ _ _) (splitOpenedTaken_tidy _ _ _ _ _ _ _))

theorem execSplitClose_quiet (t : BitVec 64) (peer : BitVec 6) (seat gen : BitVec 16) (reason : BitVec 8) (s : State) :
    Leads (Quiet (tick t s)) (execSplitClose t peer seat gen reason s) :=
  .guard .refl (Quiet.refl.fromPeer fun _ => .ite (Quiet.refl.op (closeSeat_core _ _) (closeSeat_tidy _ _)) (Quiet.refl.bump 0x07))

theorem execSplitPause_quiet (t : BitVec 64) (peer : BitVec 6) (seat gen : BitVec 16) (s : State) :
    Leads (Quiet (tick t s)) (execSplitPause t peer seat gen s) :=
  .guard .refl (Quiet.refl.fromPeer fun _ =>
    .ite ((Quiet.refl.op (unbind_core _) (unbind_tidy _)).op (modSeat_core _ _) (modSeat_tidy _ _)) (Quiet.refl.bump 0x07))

theorem execSplitResume_quiet (t : BitVec 64) (peer : BitVec 6) (seat gen : BitVec 16) (s : State) :
    Leads (Quiet (tick t s)) (execSplitResume t peer seat gen s) :=
  .guard .refl (Quiet.refl.fromPeer fun _ => .ite (Quiet.refl.op (resumeSeat_core _) (resumeSeat_tidy _)) (Quiet.refl.bump 0x07))

theorem execJointOffer_quiet (t : BitVec 64) (peer : BitVec 6) (el : BitVec 48) (seat gen : BitVec 16) (rows : BitVec 4)
    (s : State) : Leads (Quiet (tick t s)) (execJointOffer t peer el seat gen rows s) :=
  .guard .refl (Quiet.refl.fromPeerJoint fun _ => Quiet.refl.op (offerTaken_core _ _ _ _ _) (offerTaken_tidy _ _ _ _ _))

theorem execJointBind_quiet (t : BitVec 64) (peer : BitVec 6) (el : BitVec 48) (seat gen : BitVec 16) (refused : Bool)
    (ef : BitVec 48) (s : State) : Leads (Quiet (tick t s)) (execJointBind t peer el seat gen refused ef s) :=
  .guard .refl (Quiet.refl.fromPeerLeased fun _ => Quiet.refl.op (bindTaken_core _ _ _ _) (bindTaken_tidy _ _ _ _))

theorem execJointGo_quiet (t : BitVec 64) (peer : BitVec 6) (el : BitVec 48) (seat gen : BitVec 16) (liveRows : BitVec 4)
    (firstPos : BitVec 24) (toks : List (BitVec 20)) (s : State) :
    Leads (Quiet (tick t s)) (execJointGo t peer el seat gen liveRows firstPos toks s) :=
  .guard .refl (Quiet.refl.fromPeerJoint fun _ => Quiet.refl.op (goTaken_core _ _ _ _ _ _) (goTaken_tidy _ _ _ _ _ _))

theorem execQuery_quiet (t : BitVec 64) (peer : BitVec 6) (el : BitVec 48) (layer : BitVec 12) (rows : BitVec 4 × Payload)
    (seat gen : BitVec 16) (s : State) : Leads (Quiet (tick t s)) (execQuery t peer el layer rows seat gen s) :=
  .guard .refl (Quiet.refl.fromPeerLeased fun _ => Quiet.refl.op (queryTaken_core _ _ _ _ _ _) (queryTaken_tidy _ _ _ _ _ _))

theorem execPartialMsg_quiet (t : BitVec 64) (peer : BitVec 6) (el : BitVec 48) (layer : BitVec 12) (seat gen : BitVec 16)
    (self : BitVec 5 × Payload) (s : State) : Leads (Quiet (tick t s)) (execPartialMsg t peer el layer seat gen self s) :=
  .guard .refl (Quiet.refl.fromPeerLeased fun _ => Quiet.refl.op (partialTaken_core _ _ _ _ _ _) (partialTaken_tidy _ _ _ _ _ _))

theorem execClusterExchangeOut_quiet (t : BitVec 64) (isQuery : Bool) (seat gen : BitVec 16) (el : BitVec 48) (layer : BitVec 12)
    (rows : BitVec 4) (bytes : BitVec 40 × List Word) (s : State) :
    Leads (Quiet (tick t s)) (execClusterExchangeOut t isQuery seat gen el layer rows bytes s) :=
  .ite (.next .refl) (.guard .refl
    ((Quiet.refl.bump 0xFE).op (exchangeOut_core _ _ _ _ _ _ _ _) (exchangeOut_tidy _ _ _ _ _ _ _ _)).finish)

/-- A peer that stays silent: the wait is counted and traced. -/
theorem Quiet.waited {s x : State} (h : Quiet s x) (r : TraceRec) : Quiet s (Machine.bump 0x54 (trace r x)) :=
  (h.op (trace_core r) (trace_tidy r)).bump 0x54

/-- A split entry is told that its link failed. -/
theorem Quiet.modSplit {s x : State} (h : Quiet s x) (i : Nat) (g : SplitEnt → SplitEnt) : Quiet s (modSplit i g x) :=
  h.op (modSplit_core i g) (modSplit_tidy i g)

theorem Quiet.failSeat {s x : State} (h : Quiet s x) (i why : Nat) : Quiet s (failSeat i why x) :=
  h.op (failSeat_core i why) (failSeat_tidy i why)

theorem execPeerwaitLeadExpiry_quiet (t : BitVec 64) (seat : BitVec 16) (s : State) :
    Leads (Quiet (tick t s)) (execPeerwaitLeadExpiry t seat s) := by
  refine .ite (.next .refl) ?_
  dsimp only
  split
  · exact .next .refl
  · exact .next (((((Quiet.refl.waited _).modDeals _).modSplit _ _).op (voidRun_core _) (voidRun_tidy _)).failSeat _ _).finish

theorem execPeerwaitFollowerExpiry_quiet (t : BitVec 64) (seat : BitVec 16) (s : State) :
    Leads (Quiet (tick t s)) (execPeerwaitFollowerExpiry t seat s) := by
  refine .ite (.next .refl) ?_
  dsimp only
  split
  · exact .next .refl
  · exact .next ((((Quiet.refl.waited _).op (unbind_core _) (unbind_tidy _)).modSplit _ _).failSeat _ _).finish

/-! ## Commands that keep the core: deals -/

theorem execDealHandOff_quiet (t : BitVec 64) (s : State) : Leads (Quiet (tick t s)) (execDealHandOff t s) :=
  .guard .refl (Quiet.refl.op handOff_core handOff_tidy).finish

theorem execComposeBegin_quiet (t : BitVec 64) (s : State) : Leads (Quiet (tick t s)) (execComposeBegin t s) :=
  .ite (.next .refl) (.guard (Quiet.refl.op composeNext_core composeNext_tidy).finish .refl)

theorem execIdleComposeStart_quiet (t : BitVec 64) (s : State) : Leads (Quiet (tick t s)) (execIdleComposeStart t s) :=
  .ite (.next .refl) (.ite
    (.guard (Quiet.refl.op (compose_core true) (compose_tidy true)).finish (Quiet.refl.op (askHots_core _) (askHots_tidy _)))
    (.next .refl))

theorem execLaunch_quiet (t : BitVec 64) (s : State) : Leads (Quiet (tick t s)) (execLaunch t s) := by
  refine .ite (.next .refl) ?_
  dsimp only
  split
  · exact .guard (Quiet.refl.op (launchDeal_core _) (launchDeal_tidy _)).finish (Quiet.refl.op holdStep_core holdStep_tidy)
  · exact .next .refl

theorem execLayerRelease_quiet (t : BitVec 64) (s : State) : Leads (Quiet (tick t s)) (execLayerRelease t s) := by
  refine .ite (.next .refl) ?_
  dsimp only
  split
  · exact .next (Quiet.refl.op (releaseLayers_core _) (releaseLayers_tidy _)).finish
  · exact .next .refl

theorem execLayerDone_quiet (t : BitVec 64) (layer : BitVec 12) (s : State) :
    Leads (Quiet (tick t s)) (execLayerDone t layer s) := by
  refine .ite (.next .refl) ?_
  dsimp only
  split
  · exact .next (Quiet.refl.op (layerDone_core _ _) (layerDone_tidy _ _)).finish
  · exact .next .refl

theorem execStopBoundary_quiet (t : BitVec 64) (epoch : BitVec 48) (s : State) :
    Leads (Quiet (tick t s)) (execStopBoundary t epoch s) :=
  have stored := Quiet.refl.op (setFld_core F.HER_STOPCTL_STOPEPOCH epoch.toNat) (setFld_tidy F.HER_STOPCTL_STOPEPOCH epoch.toNat)
  .guard (stored.op (boundaryStop_core _) (boundaryStop_tidy _)).finish stored

theorem execStopImmediate_quiet (t : BitVec 64) (s : State) : Leads (Quiet (tick t s)) (execStopImmediate t s) :=
  .guard .refl (Quiet.refl.op immediateStop_core immediateStop_tidy).finish

theorem execStopGo_quiet (t : BitVec 64) (s : State) : Leads (Quiet (tick t s)) (execStopGo t s) :=
  .guard .refl (Quiet.refl.op goNode_core goNode_tidy).finish

theorem execEpochDone_quiet (t : BitVec 64) (epoch : BitVec 48) (abandoned : Bool) (ahead : BitVec 64) (recs : List OpsRec)
    (s : State) : Leads (Quiet (tick t s)) (execEpochDone t epoch abandoned ahead recs s) :=
  .guard .refl (Quiet.refl.op (epochSignal_core _ _ _ _) (epochSignal_tidy _ _ _ _)).finish

theorem execWindowEdge_quiet (t : BitVec 64) (s : State) : Leads (Quiet (tick t s)) (execWindowEdge t s) :=
  .ite (.next .refl) (.guard (Quiet.refl.op windowEdge_core windowEdge_tidy).finish .refl)

/-! ## Commands that keep the core: gates, observation and the data registers -/

theorem Quiet.gateDone {s x : State} (h : Quiet s x) : Quiet s (gateDone x) := h.op gateDone_core gateDone_tidy

theorem execGateRequest_quiet (t : BitVec 64) (g : Gate) (r : BitVec 4) (path : BitVec 1) (tag : BitVec 24) (moved : BitVec 32)
    (s : State) : Leads (Quiet (tick t s)) (execGateRequest t g r path tag moved s) :=
  .guard .refl (Quiet.refl.op (gateRequest_core _ _ _ _ _) (gateRequest_tidy _ _ _ _ _)).gateDone

theorem execGateRequestDrop_quiet (t : BitVec 64) (g : Gate) (r : BitVec 4) (path : BitVec 1) (moved : BitVec 32) (lapsed : Bool)
    (s : State) : Leads (Quiet (tick t s)) (execGateRequestDrop t g r path moved lapsed s) :=
  .guard .refl (Quiet.refl.op (gateDrop_core _ _ _ _ _) (gateDrop_tidy _ _ _ _ _)).gateDone

theorem execGateBurstLimit_quiet (t : BitVec 64) (g : Gate) (path : BitVec 1) (s : State) :
    Leads (Quiet (tick t s)) (execGateBurstLimit t g path s) :=
  .guard .refl (Quiet.refl.op (gateBurst_core _ _) (gateBurst_tidy _ _)).gateDone

theorem execGateWindowEdge_quiet (t : BitVec 64) (g : Gate) (moved0 moved1 : BitVec 32) (s : State) :
    Leads (Quiet (tick t s)) (execGateWindowEdge t g moved0 moved1 s) :=
  .guard .refl (Quiet.refl.op (gateEdge_core _ _ _) (gateEdge_tidy _ _ _))

theorem execGateWatchdog_quiet (t : BitVec 64) (g : Gate) (path : BitVec 1) (moved : BitVec 32) (s : State) :
    Leads (Quiet (tick t s)) (execGateWatchdog t g path moved s) :=
  .guard .refl (Quiet.refl.op (watchdog_core _ _ _) (watchdog_tidy _ _ _)).gateDone

theorem execGateRevoke_quiet (t : BitVec 64) (g : Gate) (moved0 moved1 : BitVec 32) (s : State) :
    Leads (Quiet (tick t s)) (execGateRevoke t g moved0 moved1 s) :=
  .guard .refl (Quiet.refl.op (gateRevoke_core _ _ _) (gateRevoke_tidy _ _ _)).gateDone

theorem execObsSnapnow_quiet (s : State) : Leads (Quiet s) (execObsSnapnow s) :=
  .guard .refl (Quiet.refl.op takeSnap_core takeSnap_tidy)

theorem execObsSnap_quiet (s : State) : Leads (Quiet s) (execObsSnap s) := .guard .refl (Quiet.refl.op armSnap_core armSnap_tidy)

theorem execObsClear_quiet (s : State) : Leads (Quiet s) (execObsClear s) :=
  .guard .refl (Quiet.refl.op clearCounters_core clearCounters_tidy)

theorem execObsClearkeep_quiet (s : State) : Leads (Quiet s) (execObsClearkeep s) :=
  .next (Quiet.refl.op clearKeep_core clearKeep_tidy)

theorem execOpsQueueRoom_quiet (t : BitVec 64) (s : State) : Leads (Quiet (tick t s)) (execOpsQueueRoom t s) :=
  .guard .refl (Quiet.refl.op opsRoom_core opsRoom_tidy)

theorem execTrcArm_quiet (s : State) : Leads (Quiet s) (execTrcArm s) :=
  .ite (.next .refl) (.ite (.next (Quiet.refl.op armTrace_core armTrace_tidy)) .fault)

theorem execTrcFire_quiet (t : BitVec 64) (s : State) : Leads (Quiet (tick t s)) (execTrcFire t s) :=
  .guard .refl (Quiet.refl.op fireNow_core fireNow_tidy)

theorem execTraceStagingDrain_quiet (s : State) : Leads (Quiet s) (execTraceStagingDrain s) :=
  .guard .refl (Quiet.refl.op drainStaging_core drainStaging_tidy)

theorem tenantWrite_quiet (i : Nat) (v : Word) (s : State) : Leads (Quiet s) (tenantWrite i v s) :=
  fun u e => by rw [tenantWrite_next e]; exact Quiet.refl.op (modTenant_core _ _) (modTenant_tidy _ _)

theorem slotWrite_quiet (v : Word) (s : State) : Leads (Quiet s) (slotWrite v s) := fun u e => by
  obtain ⟨f, rfl⟩ := slotWrite_next e
  exact Quiet.refl.modDeals f

theorem splitWrite_quiet (v : Word) (s : State) : Leads (Quiet s) (splitWrite v s) := fun u e => by
  rcases splitWrite_next e with rfl | ⟨f, rfl⟩
  · exact .refl
  · exact Quiet.refl.modDeals f

theorem digWrite_quiet (v : Word) (s : State) : Leads (Quiet s) (digWrite v s) := fun u e => by
  rcases digWrite_next e with rfl | ⟨d, rfl⟩
  · exact .refl
  · exact Quiet.refl.op (modObs_core _) fun _ => modObs_tidy rfl

/-! ## Commands that keep the core: the write lock, the scrubber, links and the start -/

theorem execLockAcquire_quiet (t : BitVec 64) (s : State) : Leads (Quiet (tick t s)) (execLockAcquire t s) :=
  .guard .refl (Quiet.refl.op acquireLock_core acquireLock_tidy)

theorem execLockRelease_quiet (t : BitVec 64) (s : State) : Leads (Quiet (tick t s)) (execLockRelease t s) :=
  .next (Quiet.refl.op releaseLock_core releaseLock_tidy).finish

theorem execLockExpiry_quiet (t : BitVec 64) (s : State) : Leads (Quiet (tick t s)) (execLockExpiry t s) := by
  refine .ite (.next .refl) ?_
  dsimp only
  split
  · exact .guard ((Quiet.refl.op releaseLock_core releaseLock_tidy).setFlag _).finish .refl
  · exact .next .refl

theorem execScrubTick_quiet (t : BitVec 64) (found : Ecc) (s : State) : Leads (Quiet (tick t s)) (execScrubTick t found s) :=
  .next (Quiet.refl.op (scrubWord_core found) (scrubWord_tidy found)).finish

theorem execLinkUp_quiet (t : BitVec 64) (p : Port) (peer : BitVec 6) (s : State) :
    Leads (Quiet (tick t s)) (execLinkUp t p peer s) :=
  .guard .refl (Quiet.refl.op (linkRaise_core p _) (linkRaise_tidy p _))

theorem execLinkDown_quiet (t : BitVec 64) (p : Port) (peer : BitVec 6) (s : State) :
    Leads (Quiet (tick t s)) (execLinkDown t p peer s) :=
  .guard .refl (Quiet.refl.op (linkDrop_core p _) (linkDrop_tidy p _)).finish

theorem execHello_quiet (t : BitVec 64) (p : Port) (peer : BitVec 6) (node era : BitVec 16) (opened : Bool) (s : State) :
    Leads (Quiet (tick t s)) (execHello t p peer node era opened s) :=
  .guard .refl (Quiet.refl.op (helloTaken_core p _ _ _ opened) (helloTaken_tidy p _ _ _ opened)).finish

theorem execCredit_quiet (t : BitVec 64) (p : Port) (peer : BitVec 6) (opened : Bool) (beats : BitVec 40)
    (es : List (BitVec 4 × BitVec 20)) (s : State) : Leads (Quiet (tick t s)) (execCredit t p peer opened beats es s) :=
  .guard .refl (Quiet.refl.op (creditTaken_core p _ opened _ es) (creditTaken_tidy p _ opened _ es)).finish

theorem execUnknownMessage_quiet (t : BitVec 64) (p : Port) (peer : BitVec 6) (badLen : Bool) (opcode : BitVec 8) (word1 : Word)
    (s : State) : Leads (Quiet (tick t s)) (execUnknownMessage t p peer badLen opcode word1 s) :=
  .guard .refl (Quiet.refl.op (unknownTaken_core p _ badLen _ word1) (unknownTaken_tidy p _ badLen _ word1))

theorem execPortDrop_quiet (t : BitVec 64) (p : Port) (s : State) : Leads (Quiet (tick t s)) (execPortDrop t p s) :=
  .next (Quiet.refl.op (portDropWrite_core p) (portDropWrite_tidy p)).finish

theorem execFabricReady_quiet (t : BitVec 64) (s : State) : Leads (Quiet (tick t s)) (execFabricReady t s) :=
  .guard .refl (Quiet.refl.modPorts _)

theorem execFabricEgressCredit_quiet (t : BitVec 64) (group : BitVec 6) (units : BitVec 32) (s : State) :
    Leads (Quiet (tick t s)) (execFabricEgressCredit t group units s) :=
  .guard .refl ((Quiet.refl.modPorts _).op drainF_core drainF_tidy).finish

theorem execStartClearingDone_quiet (t : BitVec 64) (s : State) : Leads (Quiet (tick t s)) (execStartClearingDone t s) :=
  .guard (Quiet.refl.op (fun _ => modPwr_core rfl) (modPwr_tidy _)) .refl

theorem execBusRecovered_quiet (t : BitVec 64) (s : State) : Leads (Quiet (tick t s)) (execBusRecovered t s) :=
  .guard (Quiet.refl.op (fun _ => modPwr_core rfl) (modPwr_tidy _)) .refl

end Sys2Proof.Machine

namespace Sys2Proof.Machine

/-! ## A register write leaves the local counter -/

/-- The local counter reads the same. -/
def SameClock (s u : State) : Prop := u.counter = s.counter

theorem SameClock.of_core {s u : State} {k : Core} (h : u.core = k) (hk : k.counter = s.counter) : SameClock s u :=
  (congrArg Core.counter h).trans hk

theorem SameClock.trans {s x u : State} (h : SameClock s x) (k : SameClock x u) : SameClock s u := Eq.trans k h

theorem openEffect_clock (off : Nat) (v : Word) (s : State) : SameClock s (openEffect off v s) := by
  rcases openEffect_core off v s with h | ⟨-, h⟩
  · exact .of_core h rfl
  · exact .of_core h rfl

theorem nextEpochWrite_clock (img : Bool) (v : Word) (s : State) : Leads (SameClock s) (nextEpochWrite img v s) := fun u e => by
  obtain ⟨f, rfl⟩ := nextEpochWrite_next e
  rfl

theorem fieldWrite_clock (img : Bool) (r : RegDef) (v : Word) (s : State) : Leads (SameClock s) (fieldWrite img r v s) := by
  have stored : SameClock s (admitNoted r.off (openEffect r.off v (gateStore r.off (s.newWord r img v) s))) := by
    have gate : SameClock s (gateStore r.off (s.newWord r img v) s) := .of_core (gateStore_core ..) rfl
    exact (gate.trans (openEffect_clock ..)).trans (.of_core (admitNoted_core ..) rfl)
  refine .ite .fault (.ite .fault (.ite .fault ?_))
  split
  · exact .fault
  · exact .ite .fault (.ite (nextEpochWrite_clock img v s) (.ite (.next (.of_core (laneWrite_core v s) rfl)) (.guard rfl stored)))

theorem storeWrite_clock (img : Bool) (off : Nat) (v : Word) (s : State) : Leads (SameClock s) (storeWrite img off v s) := by
  have quiet : ∀ {u}, Quiet s u → SameClock s u := fun h => .of_core h.core rfl
  refine .ite ((tenantWrite_quiet _ v s).imp fun _ => quiet) (.ite ((slotWrite_quiet v s).imp fun _ => quiet)
    (.ite ((splitWrite_quiet v s).imp fun _ => quiet) (.ite ((digWrite_quiet v s).imp fun _ => quiet)
      (.ite (.next rfl) (.ite .fault ?_)))))
  split
  · exact fieldWrite_clock img _ v s
  · exact .next rfl

theorem wakeWrite_clock (s : State) : SameClock s (wakeWrite s) := by
  unfold wakeWrite
  split
  · exact .of_core (startWake_core s) rfl
  · rfl

theorem cmdBit_clock (off i : Nat) (s : State) : Leads (SameClock s) (cmdBit off i s) := by
  have command : ∀ {f : State → State}, (∀ s, (f s).core = s.core) → Leads (SameClock s) (.next (whenCmd f s)) :=
    fun h => .next (.of_core (whenCmd_core h rfl) rfl)
  unfold cmdBit
  split
  · exact command acquireLock_core
  · exact .next (.of_core (releaseLock_core s) rfl)
  · exact .next rfl
  · exact .next rfl
  · exact command registerObj_core
  · exact command withdrawObj_core
  · exact command popObj_core
  · exact command (modBit_core _)
  · exact command modPop_core
  · exact .next (.of_core (obsBit_core _ s) rfl)
  · exact .ite .fault (command armTrace_core)
  · exact command fireNow_core
  · exact .next (wakeWrite_clock s)
  · exact .ite (command (revokeWrite_core _)) (.next rfl)
  · exact .guard (.of_core (portDropWrite_core _ s) rfl) rfl
  · exact .next rfl

theorem eachDo_clock {α : Type} {f : α → State → Host.Outcome State Fault Refusal} (h : ∀ a s, Leads (SameClock s) (f a s))
    (l : List α) (s : State) : Leads (SameClock s) (eachDo f l s) :=
  eachDo_keeps (P := SameClock) (fun _ => rfl) (fun _ _ _ => SameClock.trans) (fun a s u e => h a s u e) l s

theorem commands_clock (off : Nat) (v : Word) (s : State) : Leads (SameClock s) (commands off v s) := by
  unfold commands
  split
  · exact .next rfl
  · exact .ite .fault (.ite (.next rfl)
      (.ite (.next (.of_core (whenCmd_core (stopBits_core v) rfl) rfl)) (eachDo_clock (cmdBit_clock off) _ s)))

theorem registerWrite_clock (off : Nat) (v : Word) (s : State) : Leads (SameClock s) (registerWrite off v s) :=
  .ite .fault (((storeWrite_clock false off v s).andThen fun x hx => (commands_clock off v x).imp fun _ hy => hx.trans hy).andThen
    fun _ hy => .next (hy.trans (.of_core (finish_core _) rfl)))

/-! ## The configuration leaves the local counter -/

theorem applySection_clock (x : Section) (s : State) : Leads (SameClock s) (applySection x s) := by
  unfold applySection
  split
  · exact .next rfl
  · exact eachDo_clock (fun e s u h => storeWrite_clock true e.1 e.2 s u (imageEntry_next h)) _ s
  · exact .next rfl
  · exact .next rfl

theorem configDone_clock (p : Pending) (s : State) : SameClock s (configDone p s) := .of_core (configDone_core p s) rfl

theorem applyConfig_clock (s : State) : Leads (SameClock s) (applyConfig s) := by
  unfold applyConfig
  split
  · exact .next rfl
  · have defaults : SameClock s (applyDefaults s) := .of_core (applyDefaults_core s) rfl
    exact .ite (.next (defaults.trans (configDone_clock ..)))
      ((eachDo_clock applySection_clock _ s).andThen fun x hx => .next (hx.trans (configDone_clock _ x)))

/-! ## Commands that move the core -/

/-- From `s` to `u` the queue, the part and the clock stay, the canonical form of the indexed stores is kept, and with `b` the values in
force stay. -/
structure Steady (b : Bool) (s u : State) : Prop where
  pending : u.pending = s.pending
  grade : u.grade = s.grade
  clock : SameClock s u
  force : b = true → u.force = s.force
  tidy : s.tidy → u.tidy

namespace Steady

variable {b : Bool} {s x : State}

theorem refl : Steady b s s := ⟨rfl, rfl, rfl, fun _ => rfl, id⟩

theorem trans {y : State} (h : Steady b s x) (k : Steady b x y) : Steady b s y :=
  ⟨k.pending.trans h.pending, k.grade.trans h.grade, h.clock.trans k.clock, fun e => (k.force e).trans (h.force e),
    fun t => k.tidy (h.tidy t)⟩

/-- Modes and keep-MRAM may move: `k` differs from the core of `s` in neither the queue, the part, the clock nor the values in force. -/
theorem ofCore {k : Core} (h : x.core = k)
    (hk : (k.pending, k.grade, k.counter, k.force) = (s.pending, s.grade, s.counter, s.force)) (ht : s.tidy → x.tidy) :
    Steady b s x := by
  subst h
  simp only [Prod.mk.injEq] at hk
  obtain ⟨hp, hg, hc, hf⟩ := hk
  exact ⟨hp, hg, hc, fun _ => hf, ht⟩

theorem ofQuiet (h : Quiet s x) : Steady b s x := ofCore h.core rfl h.tidy

theorem ofKept (h : Kept b s x) (hc : SameClock s x) (ht : s.tidy → x.tidy) : Steady b s x := ⟨h.pending, h.grade, hc, h.force, ht⟩

theorem finish (h : Steady b s x) : Steady b s (finish x) := h.trans (.ofQuiet Quiet.refl.finish)

theorem bump (h : Steady b s x) (c : Nat) : Steady b s (bump c x) := h.trans (.ofQuiet (Quiet.refl.bump c))

theorem bumpN (h : Steady b s x) (c n : Nat) : Steady b s (bumpN c n x) := h.trans (.ofQuiet (Quiet.refl.bumpN c n))

theorem modPwr (h : Steady b s x) (f : Power → Power) : Steady b s (modPwr f x) := h.trans (ofCore rfl rfl (modPwr_tidy f x))

end Steady

variable {b : Bool}

theorem execRegisterWrite_steady (t : BitVec 64) (off : BitVec 16) (v : Word) (s : State) :
    Leads (Steady b (tick t s)) (execRegisterWrite t off v s) :=
  fun u e => .ofKept (registerWrite_kept e) (registerWrite_clock off.toNat v (tick t s) u e) (registerWrite_tidy e)

/-! ### The configuration and the boundary, which bring values into force -/

theorem applyConfig_steady (s : State) : Leads (Steady false s) (applyConfig s) :=
  fun u e => .ofKept (applyConfig_kept e) (applyConfig_clock s u e) (applyConfig_tidy e)

theorem execImageReadDone_steady (t : BitVec 64) (bytes : List Byte) (s : State) :
    Leads (Steady false (tick t s)) (execImageReadDone t bytes s) :=
  have read := Steady.refl.modPwr fun p => { p with imgDone := (tick t s).nowMs }
  have checked := read.modPwr fun q => { q with
    pending := some (readImage bytes), mode := if (readImage bytes).reason = 0 then 0 else 1, reason := (readImage bytes).reason }
  .ite (.next .refl) (.ite (.next read) (.ite ((applyConfig_steady _).imp fun _ h => checked.trans h) (.next checked)))

theorem execMainPowerGood_steady (t : BitVec 64) (s : State) : Leads (Steady false (tick t s)) (execMainPowerGood t s) :=
  .ite (.next .refl) ((applyConfig_steady _).andThen fun _ h =>
    .next (((Steady.refl.modPwr _).trans h).trans (.ofQuiet (Quiet.refl.op greetLinks_core greetLinks_tidy))).finish)

theorem dealComplete_steady (r : Running) (done : Nat) (s : State) : Steady false s (dealComplete r done s) :=
  .ofKept (.of_core_force (dealComplete_core r done s)) (.of_core (dealComplete_core r done s) rfl) (dealComplete_tidy r done s)

theorem execDealComplete_steady (t : BitVec 64) (s : State) : Leads (Steady false (tick t s)) (execDealComplete t s) := by
  refine .ite (.next .refl) ?_
  dsimp only
  split
  · split
    · exact .guard (dealComplete_steady _ _ _).finish .refl
    · exact .next .refl
  · exact .next .refl

/-! ### Power: the start window, the sag, fallow and wake -/

theorem execStartWindowExpiry_steady (t : BitVec 64) (s : State) : Leads (Steady b (tick t s)) (execStartWindowExpiry t s) :=
  .guard (.ofCore rfl rfl id) .refl

theorem execBootBedrocknext_steady (s : State) : Leads (Steady b s) (execBootBedrocknext s) := .next (.ofCore rfl rfl id)

theorem execBootClear_steady (s : State) : Leads (Steady b s) (execBootClear s) := .next (.ofCore rfl rfl id)

/-- A change of the sag record and of the power state. -/
theorem Steady.sagWritten {s x : State} (h : Steady b s x) (r : Option SagRec) (p : Power) :
    Steady b s { x with keep := { x.keep with sag := r }, pwr := p } := h.trans (.ofCore rfl rfl id)

theorem sagWarn_steady (s : State) : Steady b s (sagWarn s) := by
  have warned := (Steady.refl (b := b) (s := s)).modPwr fun p => { p with
    state := 5, sagWarn := true, warnAt := s.now, recDone := false, busUp := false }
  refine Steady.bumpN (Steady.sagWritten ?_ _ _) _ _
  split
  · exact (warned.bump 0xF3).trans (.ofQuiet ((Quiet.refl.op immediateStop_core immediateStop_tidy).op unlock_core unlock_tidy))
  · exact warned.bump 0xF3

theorem execSagWarning_steady (t : BitVec 64) (s : State) : Leads (Steady b (tick t s)) (execSagWarning t s) :=
  .guard (sagWarn_steady _) .refl

theorem execSagRecordDone_steady (t : BitVec 64) (s : State) : Leads (Steady b (tick t s)) (execSagRecordDone t s) :=
  .guard (.ofCore rfl rfl id) .refl

theorem execFallowEntry_steady (t : BitVec 64) (s : State) : Leads (Steady b (tick t s)) (execFallowEntry t s) :=
  .guard (Steady.ofCore (fallowEntry_core _) rfl (fallowEntry_tidy _)).finish .refl

theorem execFallowPowerOff_steady (t : BitVec 64) (s : State) : Leads (Steady b (tick t s)) (execFallowPowerOff t s) :=
  .guard (((Steady.ofQuiet (Quiet.refl.op mainOff_core mainOff_tidy)).modPwr _).bump 0xF4) .refl

theorem execWake_steady (t : BitVec 64) (s : State) : Leads (Steady b (tick t s)) (execWake t s) :=
  .next (.ofKept (wakeWrite_kept _) (wakeWrite_clock _) (wakeWrite_tidy _))

theorem deliverHold_steady (s : State) : Steady b s (deliverHold s) := .ofCore (deliverHold_core s) rfl (deliverHold_tidy s)

theorem Steady.ite {s x y : State} {c : Prop} [Decidable c] (h : Steady b s x) (k : Steady b s y) :
    Steady b s (if c then x else y) := by
  split
  · exact h
  · exact k

theorem execWakeholdExpiry_steady (t : BitVec 64) (s : State) : Leads (Steady b (tick t s)) (execWakeholdExpiry t s) :=
  .next (.ite (deliverHold_steady _) .refl)

theorem execTstatus_steady (t : BitVec 64) (flashUp hbmUp : Bool) (s : State) :
    Leads (Steady b (tick t s)) (execTstatus t flashUp hbmUp s) :=
  have told := Steady.ofQuiet (Quiet.refl.taking fun _ => Quiet.refl.op (tiersChange_core _ _) (tiersChange_tidy _ _)).finish
  .ite (.next .refl) (.next (.ite (told.trans (deliverHold_steady _)) told))

/-! ### Port G: its opening and its arrivals -/

theorem portOpenWrite_steady (p : Port) (s : State) : Steady b s (portOpenWrite p s) := by
  refine .ofKept (portOpenWrite_kept p s) ?_ (portOpenWrite_tidy p s)
  have h := portOpenWrite_core p s
  split at h
  · exact .of_core h rfl
  · exact .of_core h rfl

theorem execPortOpen_steady (t : BitVec 64) (p : Port) (s : State) : Leads (Steady b (tick t s)) (execPortOpen t p s) :=
  .next (portOpenWrite_steady p _).finish

theorem holdMsg_clock (c : Instr) (cls op : Nat) (word1 : Word) (o : Bool) (s : State) :
    SameClock s (holdMsg c cls op word1 o s) := by
  have arrived : SameClock s (arrive .G 0 cls op word1 0 s).2 := .of_core (arrive_core ..) rfl
  unfold holdMsg
  split <;> rename_i e <;> rw [e] at arrived
  · exact arrived
  · refine SameClock.trans arrived ?_
    dsimp only
    split
    · exact .of_core (fallowAbandon_core _) rfl
    split
    · exact .of_core (startWake_core _) rfl
    · rfl

theorem holdMsg_steady (c : Instr) (cls op : Nat) (word1 : Word) (o : Bool) (s : State) : Steady b s (holdMsg c cls op word1 o s) :=
  .ofKept (holdMsg_kept ..) (holdMsg_clock ..) (holdMsg_tidy _ _ _ _ _ _)

theorem execOpenReq_steady (t : BitVec 64) (m : OpenMsg) (s : State) : Leads (Steady b (tick t s)) (execOpenReq t m s) :=
  .ite (.next .refl) (.guard (holdMsg_steady ..) (.ofQuiet (Quiet.refl.op (handleOpen_core m) (handleOpen_tidy m))))

theorem execPrompt_steady (t : BitVec 64) (p : Port) (peer : BitVec 6) (m : PromptMsg) (s : State) :
    Leads (Steady b (tick t s)) (execPrompt t p peer m s) :=
  .ite (.next .refl) (.guard (holdMsg_steady ..) (.ofQuiet (Quiet.refl.op (handlePrompt_core p _ m) (handlePrompt_tidy p _ m))))

theorem execCancel_steady (t : BitVec 64) (reqid : BitVec 64) (s : State) : Leads (Steady b (tick t s)) (execCancel t reqid s) :=
  .ite (.next .refl) (.guard (holdMsg_steady ..)
    (.ofQuiet ((Quiet.refl.op (handleCancel_core reqid) (handleCancel_tidy reqid)).op sievePump_core sievePump_tidy)))

/-! ### The start -/

/-- START_BOOT shows BOOTS and ERA as the start wrote them, and the start is counted. -/
theorem startCounted_quiet (boots era : Nat) (x : State) :
    Quiet x (setFld F.START_BOOT_BOOTS boots (setFld F.START_BOOT_ERA era (bump 0xF0 x))) :=
  ((Quiet.refl.bump 0xF0).op (setFld_core _ era) (setFld_tidy _ era)).op (setFld_core _ boots) (setFld_tidy _ boots)

theorem powerOnStart_quiet (readable : Bool) (s : State) : ∃ k p x, Quiet (startState k p x) (powerOnStart readable s) ∧
    k.cnt = s.keep.cnt ∧ x.grade = s.grade ∧ x.pending = s.pending := by
  unfold powerOnStart
  extract_lets k r bed reason found prior off p written counted
  have frame : r.2.grade = s.grade ∧ r.2.pending = s.pending := by cases readable <;> exact ⟨rfl, rfl⟩
  have h : Quiet (startState written p r.2) counted := startCounted_quiet _ _ _
  exact ⟨written, p, r.2, .ite (h.bump 0xF2) h, rfl, frame⟩

/-- A start keeps the queue and the part. -/
theorem powerOnStart_frame (readable : Bool) (s : State) :
    (powerOnStart readable s).grade = s.grade ∧ (powerOnStart readable s).pending = s.pending := by
  obtain ⟨k, p, x, h, -, hg, hp⟩ := powerOnStart_quiet readable s
  exact ⟨(congrArg Core.grade h.core).trans hg, (congrArg Core.pending h.core).trans hp⟩

theorem powerOnStart_tidy (readable : Bool) (s : State) (wf : s.tidy) : (powerOnStart readable s).tidy := by
  obtain ⟨k, p, x, h, hk, -, -⟩ := powerOnStart_quiet readable s
  obtain ⟨-, -, -, -, -, -, -, -, cnt⟩ := wf
  exact h.tidy (startState_tidy k p x (by rw [hk]; exact cnt))

end Sys2Proof.Machine

namespace Sys2Proof.Machine

/-! ## Every command -/

/-- Every command but those that `movesCore` names keeps the core, once the clock has moved to its instant. -/
theorem exec_quiet : ∀ (c : Instr), movesCore c = false → ∀ s, Leads (Quiet (clocked c s)) (exec c s)
  | .startClearingDone t, _, s => execStartClearingDone_quiet t s
  | .fabricReady t, _, s => execFabricReady_quiet t s
  | .busRecovered t, _, s => execBusRecovered_quiet t s
  | .linkUp t p peer, _, s => execLinkUp_quiet t p peer s
  | .linkDown t p peer, _, s => execLinkDown_quiet t p peer s
  | .hello t p peer node era opened, _, s => execHello_quiet t p peer node era opened s
  | .credit t p peer opened beats entries, _, s => execCredit_quiet t p peer opened beats entries s
  | .unknownMessage t p peer badLen opcode word1, _, s => execUnknownMessage_quiet t p peer badLen opcode word1 s
  | .portDrop t p, _, s => execPortDrop_quiet t p s
  | .promptwaitExpiry t seat, _, s => execPromptwaitExpiry_quiet t seat s
  | .prefillShip t seat, _, s => execPrefillShip_quiet t seat s
  | .prefillKv t seat gen block tag carrier, _, s => execPrefillKv_quiet t seat gen block tag carrier s
  | .prefillFail t seat gen code, _, s => execPrefillFail_quiet t seat gen code s
  | .shipwaitExpiry t seat, _, s => execShipwaitExpiry_quiet t seat s
  | .kvData t tag handle carrier, _, s => execKvData_quiet t tag handle carrier s
  | .kvMiss t tag handle, _, s => execKvMiss_quiet t tag handle s
  | .putAck t tag handle, _, s => execPutAck_quiet t tag handle s
  | .putDecline t tag, _, s => execPutDecline_quiet t tag s
  | .imageData t tag handle image, _, s => execImageData_quiet t tag handle image s
  | .dirAdd t entries, _, s => execDirAdd_quiet t entries s
  | .dirDrop t entries, _, s => execDirDrop_quiet t entries s
  | .replayEnd t count, _, s => execReplayEnd_quiet t count s
  | .fetchwaitExpiry t tag, _, s => execFetchwaitExpiry_quiet t tag s
  | .splitOpen t peer m, _, s => execSplitOpen_quiet t peer m s
  | .splitOpened t peer reqid seat gen self refused hits, _, s => execSplitOpened_quiet t peer reqid seat gen self refused hits s
  | .splitClose t peer seat gen reason, _, s => execSplitClose_quiet t peer seat gen reason s
  | .splitPause t peer seat gen, _, s => execSplitPause_quiet t peer seat gen s
  | .splitResume t peer seat gen, _, s => execSplitResume_quiet t peer seat gen s
  | .jointOffer t peer el seat gen rows, _, s => execJointOffer_quiet t peer el seat gen rows s
  | .jointBind t peer el seat gen refused ef, _, s => execJointBind_quiet t peer el seat gen refused ef s
  | .jointGo t peer el seat gen liveRows firstPos toks, _, s => execJointGo_quiet t peer el seat gen liveRows firstPos toks s
  | .query t peer el layer rows seat gen, _, s => execQuery_quiet t peer el layer rows seat gen s
  | .partialMsg t peer el layer seat gen self, _, s => execPartialMsg_quiet t peer el layer seat gen self s
  | .clusterExchangeOut t isQuery seat gen el layer rows bytes, _, s =>
    execClusterExchangeOut_quiet t isQuery seat gen el layer rows bytes s
  | .lease t peer el len msgs beats, _, s => execLease_quiet t peer el len msgs beats s
  | .peerwaitLeadExpiry t seat, _, s => execPeerwaitLeadExpiry_quiet t seat s
  | .peerwaitFollowerExpiry t seat, _, s => execPeerwaitFollowerExpiry_quiet t seat s
  | .leaseIdleExpiry t peer, _, s => execLeaseIdleExpiry_quiet t peer s
  | .objFetch t peer tag handle bytes, _, s => execObjFetch_quiet t peer tag handle bytes s
  | .objData t p tag status, _, s => execObjData_quiet t p tag status s
  | .secwaitExpiry t tag, _, s => execSecwaitExpiry_quiet t tag s
  | .tfetch t, _, s => execTfetch_quiet t s
  | .tdone t tag status badAddr, _, s => execTdone_quiet t tag status badAddr s
  | .terr t addr, _, s => execTerr_quiet t addr s
  | .candList t m, _, s => execCandList_quiet t m s
  | .refillRoomFreed t lane, _, s => execRefillRoomFreed_quiet t lane s
  | .drafts t m, _, s => execDrafts_quiet t m s
  | .epochDone t epoch abandoned ahead recs, _, s => execEpochDone_quiet t epoch abandoned ahead recs s
  | .layerDone t layer, _, s => execLayerDone_quiet t layer s
  | .composeBegin t, _, s => execComposeBegin_quiet t s
  | .idleComposeStart t, _, s => execIdleComposeStart_quiet t s
  | .dealHandOff t, _, s => execDealHandOff_quiet t s
  | .launch t, _, s => execLaunch_quiet t s
  | .layerRelease t, _, s => execLayerRelease_quiet t s
  | .stopBoundary t epoch, _, s => execStopBoundary_quiet t epoch s
  | .stopImmediate t, _, s => execStopImmediate_quiet t s
  | .stopGo t, _, s => execStopGo_quiet t s
  | .blockHashDone t seat, _, s => execBlockHashDone_quiet t seat s
  | .indexProbeDone t seat, _, s => execIndexProbeDone_quiet t seat s
  | .pkvRegister, _, s => execPkvRegister_quiet s
  | .pkvWithdraw, _, s => execPkvWithdraw_quiet s
  | .pkvRetirePop, _, s => execPkvRetirePop_quiet s
  | .modRegister fields descs, _, s => execModRegister_quiet fields descs s
  | .modRegisterDone t, _, s => execModRegisterDone_quiet t s
  | .modWithdraw, _, s => execModWithdraw_quiet s
  | .modHotload t, _, s => execModHotload_quiet t s
  | .modReobj fix, _, s => execModReobj_quiet fix s
  | .modRetirePop, _, s => execModRetirePop_quiet s
  | .gateRequest t g r path tag moved, _, s => execGateRequest_quiet t g r path tag moved s
  | .gateRequestDrop t g r path moved lapsed, _, s => execGateRequestDrop_quiet t g r path moved lapsed s
  | .gateBurstLimit t g path, _, s => execGateBurstLimit_quiet t g path s
  | .gateWindowEdge t g moved0 moved1, _, s => execGateWindowEdge_quiet t g moved0 moved1 s
  | .gateWatchdog t g path moved, _, s => execGateWatchdog_quiet t g path moved s
  | .gateRevoke t g moved0 moved1, _, s => execGateRevoke_quiet t g moved0 moved1 s
  | .windowEdge t, _, s => execWindowEdge_quiet t s
  | .scrubTick t found, _, s => execScrubTick_quiet t found s
  | .lockAcquire t, _, s => execLockAcquire_quiet t s
  | .lockRelease t, _, s => execLockRelease_quiet t s
  | .lockExpiry t, _, s => execLockExpiry_quiet t s
  | .obsSnapnow, _, s => execObsSnapnow_quiet s
  | .obsSnap, _, s => execObsSnap_quiet s
  | .obsClear, _, s => execObsClear_quiet s
  | .obsClearkeep, _, s => execObsClearkeep_quiet s
  | .trcArm, _, s => execTrcArm_quiet s
  | .trcFire t, _, s => execTrcFire_quiet t s
  | .opsQueueRoom t, _, s => execOpsQueueRoom_quiet t s
  | .tenantDataWrite i v, _, s => tenantWrite_quiet i.toNat v s
  | .slotDataWrite v, _, s => slotWrite_quiet v s
  | .splitDataWrite v, _, s => splitWrite_quiet v s
  | .digDataWrite v, _, s => digWrite_quiet v s
  | .traceStagingDrain, _, s => execTraceStagingDrain_quiet s
  | .residentBlockVerified t seat, _, s => execResidentBlockVerified_quiet t seat s
  | .fabricEgressCredit t group units, _, s => execFabricEgressCredit_quiet t group units s

/-- The commands that `movesCore` names move modes, power and keep-MRAM, but for a start neither the queue, the part nor the clock, and
the values in force only where `movesForce` says. -/
theorem exec_steady_of_movesCore : ∀ (c : Instr), movesCore c = true → (∀ b, c ≠ .powerOnStart b) →
    ∀ s, Leads (Steady (!movesForce c) (clocked c s)) (exec c s)
  | .powerOnStart b, _, h, _ => absurd rfl (h b)
  | .imageReadDone t bytes, _, _, s => execImageReadDone_steady t bytes s
  | .mainPowerGood t, _, _, s => execMainPowerGood_steady t s
  | .startWindowExpiry t, _, _, s => execStartWindowExpiry_steady t s
  | .sagWarning t, _, _, s => execSagWarning_steady t s
  | .sagRecordDone t, _, _, s => execSagRecordDone_steady t s
  | .fallowEntry t, _, _, s => execFallowEntry_steady t s
  | .fallowPowerOff t, _, _, s => execFallowPowerOff_steady t s
  | .wake t, _, _, s => execWake_steady t s
  | .wakeholdExpiry t, _, _, s => execWakeholdExpiry_steady t s
  | .portOpen t p, _, _, s => execPortOpen_steady t p s
  | .openReq t m, _, _, s => execOpenReq_steady t m s
  | .prompt t p peer m, _, _, s => execPrompt_steady t p peer m s
  | .cancel t reqid, _, _, s => execCancel_steady t reqid s
  | .tstatus t flashUp hbmUp, _, _, s => execTstatus_steady t flashUp hbmUp s
  | .dealComplete t, _, _, s => execDealComplete_steady t s
  | .bootBedrocknext, _, _, s => execBootBedrocknext_steady s
  | .bootClear, _, _, s => execBootClear_steady s
  | .registerWrite t off v, _, _, s => execRegisterWrite_steady t off v s

theorem exec_steady (c : Instr) (hc : ∀ b, c ≠ .powerOnStart b) (s : State) :
    Leads (Steady (!movesForce c) (clocked c s)) (exec c s) := by
  cases h : movesCore c with
  | false => exact (exec_quiet c h s).imp fun _ => .ofQuiet
  | true => exact exec_steady_of_movesCore c h hc s

/-! ## The instant of a command -/

/-- The state in which a command acts is the state it finds, but for the clock. -/
theorem clocked_eq (c : Instr) (s : State) : clocked c s = { s with counter := (clocked c s).counter } := by
  unfold clocked
  split
  · exact tick_eq _ s
  · rfl

theorem clocked_tidy (c : Instr) (s : State) (wf : s.tidy) : (clocked c s).tidy := by rw [clocked_eq]; exact wf

/-- The clock never runs back (R264). -/
theorem counter_le_tick (t : BitVec 64) (s : State) : s.counter.toNat ≤ (tick t s).counter.toNat := by
  unfold tick
  dsimp only
  split
  · rw [BitVec.toNat_ofNat]; omega
  · exact Nat.le_refl _

theorem counter_le_clocked (c : Instr) (s : State) : s.counter.toNat ≤ (clocked c s).counter.toNat := by
  unfold clocked
  split
  · exact counter_le_tick _ s
  · exact Nat.le_refl _

/-! ## The statements about every command and every step -/

/-- Settles O8: `exec_quiet` says it of every command that `movesCore` does not name. -/
theorem coreFrameOfOtherCommands : Obligations.CoreFrameOfOtherCommands :=
  fun c s u h e => (exec_quiet c h s u e).core

/-- A command leaves the part and the queue as it found them (R1). -/
theorem exec_part_queue (c : Instr) (s u : State) (e : exec c s = .next u) : u.grade = s.grade ∧ u.pending = s.pending := by
  by_cases h : ∃ b, c = .powerOnStart b
  · obtain ⟨b, rfl⟩ := h
    cases e
    exact powerOnStart_frame b s
  · have steady := exec_steady c (fun b k => h ⟨b, k⟩) s u e
    rw [steady.grade, steady.pending, clocked_eq]
    exact ⟨rfl, rfl⟩

/-- Settles O9: only a start takes the clock back, for every other command leaves it at its instant. -/
theorem partQueueAndClock : Obligations.PartQueueAndClock := by
  refine ⟨exec_part_queue, fun c s u h e => ?_⟩
  rw [(exec_steady c h s u e).clock]
  exact counter_le_clocked c s

theorem exec_force (c : Instr) (s u : State) (h : movesForce c = false) (e : exec c s = .next u) : u.force = s.force := by
  have start : ∀ b, c ≠ .powerOnStart b := by rintro b rfl; cases h
  rw [(exec_steady c start s u e).force (by rw [h]; rfl), clocked_eq]

/-- With a command in front a step runs it, with the queue's rest. -/
theorem step_cons {c : Instr} {rest : List Instr} {s : State} (h : s.pending = c :: rest) :
    step s = exec c { s with pending := rest } := by
  unfold step
  rw [h]

theorem step_nil {s : State} (h : s.pending = []) : step s = .next (idleStep s) := by
  unfold step
  rw [h]

/-- What a step can do: it idles, or it runs the command in front. -/
theorem step_cases {s u : State} (e : step s = .next u) :
    (s.pending = [] ∧ u = idleStep s) ∨ ∃ c rest, s.pending = c :: rest ∧ exec c { s with pending := rest } = .next u := by
  cases h : s.pending with
  | nil => rw [step_nil h] at e; cases e; exact .inl ⟨rfl, rfl⟩
  | cons c rest => exact .inr ⟨c, rest, rfl, (step_cons h).symm.trans e⟩

/-- Settles O1: it is the step's second case. -/
theorem stepRunsFrontCommand : Obligations.StepRunsFrontCommand := fun _ _ _ => step_cons

/-- Settles O7: an idle step moves the clock alone, and no command outside `movesForce` moves the values in force. -/
theorem forceMovesOnlyAtBoundaryOrStart : Obligations.ForceMovesOnlyAtBoundaryOrStart := by
  intro s u h e
  obtain ⟨-, rfl⟩ | ⟨c, rest, front, e⟩ := step_cases e
  · exact (idleStep_kept s).force rfl
  · exact exec_force c { s with pending := rest } u (h c rest front) e

theorem exec_tidy (c : Instr) (s u : State) (wf : s.tidy) (e : exec c s = .next u) : u.tidy := by
  by_cases h : ∃ b, c = .powerOnStart b
  · obtain ⟨b, rfl⟩ := h
    cases e
    exact powerOnStart_tidy b s wf
  · exact (exec_steady c (fun b k => h ⟨b, k⟩) s u e).tidy (clocked_tidy c s wf)

/-- Settles O6: a start begins from canonical stores, and every other command keeps the form. -/
theorem tidyKept : Obligations.TidyKept := by
  intro s u wf e
  obtain ⟨-, rfl⟩ | ⟨c, rest, -, e⟩ := step_cases e
  · exact idleStep_tidy s wf
  · exact exec_tidy c { s with pending := rest } u wf e

end Sys2Proof.Machine

namespace Sys2Proof.Machine

/-! ## The register map -/

theorem off_of_regAt {off : Nat} {r : RegDef} (h : regAt off = some r) : r.off = off := by
  simpa using List.find?_some h

/-- A fact checked of the register that the map holds at an offset. -/
theorem of_regAt_all {off : Nat} {p : RegDef → Bool} {r : RegDef} (all : (regAt off).all p = true) (h : regAt off = some r) :
    p r = true := by
  rw [h] at all
  exact all

/-- No register stands among the views of the counters or past the window's last group (R299, R324). -/
theorem regMap_gaps : regMap.all (fun r => decide (r.off < 0x5000 ∨ 0x5800 ≤ r.off) && decide (r.off < 0x8000)) = true := by
  decide +kernel

theorem regAt_bounds {off : Nat} {r : RegDef} (h : regAt off = some r) : (off < 0x5000 ∨ 0x5800 ≤ off) ∧ off < 0x8000 := by
  have gaps := List.all_eq_true.mp regMap_gaps r (List.mem_of_find?_eq_some h)
  rw [off_of_regAt h] at gaps
  simpa using gaps

theorem regAt_eq_none_of_le {off : Nat} (h : 0x8000 ≤ off) : regAt off = none := by
  cases e : regAt off with
  | none => rfl
  | some r => exact absurd (regAt_bounds e).2 (by omega)

/-- The offsets whose write is not the write of a stored register: the data registers behind a selector, and the words of ports F and M
that ignore writes. -/
def dataOffset (off : Nat) : Prop :=
  (0x988 ≤ off ∧ off ≤ 0x9a0) ∨ off ∈ [0x1038, 0x1880, 0x6070] ∨ off ∈ creditFM

theorem storeWrite_of_regAt {img : Bool} {off : Nat} {r : RegDef} {v : Word} {s : State} (h : regAt off = some r)
    (hd : ¬dataOffset off) : storeWrite img off v s = fieldWrite img r v s := by
  have gap := (regAt_bounds h).1
  simp only [dataOffset, List.mem_cons, List.not_mem_nil, or_false, not_or] at hd
  obtain ⟨tenant, ⟨slot, split, dig⟩, credit⟩ := hd
  unfold storeWrite
  rw [if_neg tenant, if_neg slot, if_neg split, if_neg dig, if_neg (by simpa using credit), if_neg (by omega), h]

/-- A write of the window whose fields are refused stops. -/
theorem registerWrite_of_fault {off : Nat} {v : Word} {s : State} {r : Fault} (h8 : off % 8 = 0)
    (h : storeWrite false off v s = .fault r) : registerWrite off v s = .fault r := by
  unfold registerWrite
  rw [if_neg (by omega), h]
  rfl

/-- A write whose register has no command bit stores its fields, and the work that waited goes on. -/
theorem registerWrite_of_next {off : Nat} {v : Word} {s x : State} (h8 : off % 8 = 0) (h : storeWrite false off v s = .next x)
    (hc : commands off v x = .next x) : registerWrite off v s = .next (finish x) := by
  unfold registerWrite
  rw [if_neg (by omega), h]
  simp only [andThen, hc]

theorem cmdBits_zero (off : Nat) : cmdBits off 0 = [] := by
  unfold cmdBits
  split <;> simp

theorem commands_of_no_command {off : Nat} {r : RegDef} {v : Word} {s : State} (h : regAt off = some r)
    (hw : r.maskOf [.WO] = 0) (hs : off ≠ 0x1830) : commands off v s = .next s := by
  unfold commands
  rw [h]
  dsimp only
  rw [hw, show v &&& (0 : Word) = 0 from BitVec.and_zero, cmdBits_zero, if_neg (by simp), if_neg hs]
  exact ite_self _

/-! ## The writes of a stored register -/

/-- HER_STOPCTL has command bits (R115). -/
theorem maskOf_WO_of_stopctl {r : RegDef} (h : regAt 0x1830 = some r) : r.maskOf [.WO] ≠ 0 := by
  simpa using of_regAt_all (p := fun r => r.maskOf [.WO] != 0) (by decide +kernel) h

/-- What `plainReg` says, taken apart. -/
structure Plain (off : Nat) (r : RegDef) : Prop where
  reg : regAt off = some r
  off_eq : r.off = off
  aligned : off % 8 = 0
  noCommand : r.maskOf [.WO] = 0
  noData : ¬dataOffset off
  special : off ∉ [0x800, 0x1810, 0x2008, 0x2810, 0x2818, 0x3048, 0x3050]
  noGate : ¬(0x3800 ≤ off ∧ off < 0x3e00)
  noPort : ¬(0x4000 ≤ off ∧ off ≤ 0x4600 ∧ off % 0x100 = 0)

theorem plain_of_plainReg {off : Nat} {r : RegDef} (h : plainReg off r = true) : Plain off r := by
  simp only [plainReg, Bool.and_eq_true] at h
  obtain ⟨⟨⟨⟨⟨⟨⟨⟨reg, eq⟩, aligned⟩, command⟩, tenant⟩, special⟩, credit⟩, gate⟩, port⟩ := h
  simp only [Bool.not_eq_true', List.contains_eq_mem, decide_eq_false_iff_not, List.mem_cons, List.not_mem_nil, or_false,
    not_or] at special
  constructor
  case reg => simpa using reg
  case off_eq => simpa using eq
  case aligned => simpa using aligned
  case noCommand => simpa using command
  case noData =>
    have free : off ∉ creditFM := by simpa using credit
    simp only [Bool.not_eq_true', Bool.and_eq_false_iff, decide_eq_false_iff_not] at tenant
    simp only [dataOffset, List.mem_cons, List.not_mem_nil, or_false, free]
    omega
  case special =>
    simp only [List.mem_cons, List.not_mem_nil, or_false, not_or]
    omega
  case noGate =>
    simp only [Bool.not_eq_true', Bool.and_eq_false_iff, decide_eq_false_iff_not] at gate
    omega
  case noPort =>
    simp only [Bool.not_eq_true', Bool.and_eq_false_iff, decide_eq_false_iff_not, beq_eq_false_iff_ne] at port
    omega

theorem Plain.commands {off : Nat} {r : RegDef} (h : Plain off r) (v : Word) (s : State) : commands off v s = .next s :=
  commands_of_no_command h.reg h.noCommand (by rintro rfl; exact maskOf_WO_of_stopctl h.reg h.noCommand)

/-- Ones in reserved bits stop a write (R8). -/
theorem fieldWrite_of_reserved {img : Bool} {r : RegDef} {v : Word} {s : State} (h : v &&& r.reserved ≠ 0) :
    fieldWrite img r v s = .fault (.misuse 8) := if_pos h

/-- A "stopped only" field does not take a software write while deals can launch (R201). -/
theorem fieldWrite_of_running {r : RegDef} {v : Word} {s : State} (hv : v &&& r.reserved = 0) (ho : r.off ∈ stoppedOnly)
    (hs : s.mayStopped = false) : fieldWrite false r v s = .fault (.misuse 201) := by
  unfold fieldWrite
  rw [if_neg (by simpa using hv), if_pos (by simp [ho, hs])]

/-- A software write that no limit stops goes by the register's own rule. -/
theorem fieldWrite_of_allowed {r : RegDef} {v : Word} {s : State} (hv : v &&& r.reserved = 0)
    (hs : r.off ∈ stoppedOnly → s.mayStopped = true) (hm : r.off ∉ [0x3048, 0x3050])
    (hr : rangeRule r.off (s.newWord r false v) = none) : fieldWrite false r v s =
      if r.off = 0x1810 then nextEpochWrite false v s
      else if r.off = 0x2008 then .next (laneWrite v s)
      else if r.off = 0x2810 ∨ r.off = 0x2818 then .next (setReg r.off v s)
      else .next (admitNoted r.off (openEffect r.off v (gateStore r.off (s.newWord r false v) s))) := by
  have model : ¬((r.off = 0x3048 ∨ r.off = 0x3050) ∧ s.modBusy = true) := by
    rintro ⟨h, -⟩
    exact hm (by simpa using h)
  unfold fieldWrite
  simp only [hr]
  rw [if_neg (by simpa using hv), if_neg (by simpa using hs), if_neg model]
  rfl

/-- A register that is neither a gate's nor a port's control takes its word, and ADM_CTRL notes its first opening. -/
theorem fieldEffect_of_plain_offset {off : Nat} {v w : Word} {s : State} (hg : ¬(0x3800 ≤ off ∧ off < 0x3e00))
    (hp : ¬(0x4000 ≤ off ∧ off ≤ 0x4600 ∧ off % 0x100 = 0)) : openEffect off v (gateStore off w s) = setReg off w s := by
  unfold openEffect gateStore
  rw [if_neg (fun h => hp ⟨h.1, h.2.1, h.2.2.1⟩), if_neg (fun h => hg ⟨h.1, h.2.1⟩)]

theorem admitNoted_of_ne {off : Nat} {s : State} (h : off ≠ 0x800) : admitNoted off s = s := if_neg fun k => h k.1

/-! ## The clock and a register write -/

theorem tick_mayStopped (t : BitVec 64) (s : State) : (tick t s).mayStopped = s.mayStopped := by
  simp only [State.mayStopped, tick_deals, tick_pwr]

theorem tick_newWord (t : BitVec 64) (s : State) (r : RegDef) (img : Bool) (v : Word) :
    (tick t s).newWord r img v = s.newWord r img v := by simp only [State.newWord, tick_reg]

/-! ## The statements about register writes -/

/-- A write of a register that only stores stops as its fields' write does. -/
theorem Plain.write_of_fault {t : BitVec 64} {off : BitVec 16} {v : Word} {s : State} {r : RegDef} {e : Fault}
    (h : Plain off.toNat r) (hf : fieldWrite false r v (tick t s) = .fault e) : exec (.registerWrite t off v) s = .fault e :=
  registerWrite_of_fault h.aligned ((storeWrite_of_regAt h.reg h.noData).trans hf)

/-- HER_NEXTEPOCH is a register, and its low 16 bits are reserved (R121). -/
theorem nextEpoch_register : ∃ r, regAt 0x1810 = some r ∧ r.reserved = 0xFFFF := by
  have found : (regAt 0x1810).any (fun r => r.reserved == 0xFFFF) = true := by decide +kernel
  cases h : regAt 0x1810 with
  | none => rw [h] at found; cases found
  | some r => rw [h] at found; exact ⟨r, rfl, by simpa using found⟩

theorem and_low16_eq_zero {v : Word} (h : v.toNat % 65536 = 0) : v &&& 0xFFFF = 0 := by
  apply BitVec.eq_of_toNat_eq
  rw [BitVec.toNat_and]
  exact (Nat.and_two_pow_sub_one_eq_mod v.toNat 16).trans h

theorem nextEpoch_get (v : Word) : F.HER_NEXTEPOCH_EPOCH.get v = v.toNat / 65536 := by
  have := v.isLt
  show v.toNat / 2 ^ 16 % 2 ^ 48 = v.toNat / 65536
  omega

/-- HER_NEXTEPOCH takes an epoch only while the node is stopped, and above the highest one launched (R10, R97). -/
theorem nextEpochWrite_refused {v : Word} {s : State} (h : s.deals.stopped = false ∨ v.toNat / 65536 ≤ s.deals.runEpoch) :
    nextEpochWrite false v s = .fault (.misuse 97) := by
  unfold nextEpochWrite
  rw [nextEpoch_get]
  rcases h with h | h
  · exact if_pos (by simp [h])
  · dsimp only
    rw [if_pos h, ite_self]

theorem nextEpoch_misuse (t : BitVec 64) (v : Word) (s : State) (hv : v.toNat % 65536 = 0)
    (h : s.deals.stopped = false ∨ v.toNat / 65536 ≤ s.deals.runEpoch) :
    isMisuse (exec (.registerWrite t 0x1810 v) s) 97 := by
  obtain ⟨r, hr, reserved⟩ := nextEpoch_register
  have off_eq := off_of_regAt hr
  refine registerWrite_of_fault (by rfl) ((storeWrite_of_regAt hr (by simp [dataOffset, creditFM])).trans ?_)
  rw [fieldWrite_of_allowed (by rw [reserved]; exact and_low16_eq_zero hv) (by simp [off_eq, stoppedOnly]) (by simp [off_eq])
    (by rw [off_eq]; rfl), if_pos off_eq]
  exact nextEpochWrite_refused (by rwa [tick_deals])

/-- Ones in the reserved bits of a counter register are a misuse (R8, R299). -/
theorem counter_misuse (t : BitVec 64) (off : BitVec 16) (v : Word) (s : State) (h8 : off.toNat % 8 = 0) (h1 : 0x5000 ≤ off.toNat)
    (h2 : off.toNat < 0x5800) (hv : bitsOf v 63 48 ≠ 0) : isMisuse (exec (.registerWrite t off v) s) 8 := by
  have credit : off.toNat ∉ creditFM := by
    simp only [creditFM, List.mem_cons, List.not_mem_nil, or_false]
    omega
  refine registerWrite_of_fault h8 ?_
  unfold storeWrite
  rw [if_neg (by omega), if_neg (by omega), if_neg (by omega), if_neg (by omega), if_neg (by simpa using credit),
    if_pos ⟨h1, h2, hv⟩]

/-- Settles O21: each clause is one refusal of `registerWrite`, `storeWrite` or `fieldWrite`. -/
theorem badRegisterWrites : Obligations.BadRegisterWrites := by
  refine ⟨fun _ _ _ _ h => if_pos h, fun _ _ _ _ _ h hv => (plain_of_plainReg h).write_of_fault (fieldWrite_of_reserved hv),
    counter_misuse, fun t off v s r h hv hm hs => ?_, nextEpoch_misuse⟩
  have plain := plain_of_plainReg h
  exact plain.write_of_fault (fieldWrite_of_running hv (by rwa [plain.off_eq]) ((tick_mayStopped t s).trans hs))

/-- A write of a register that only stores puts its word there, and the work that waited goes on. -/
theorem Plain.write {t : BitVec 64} {off : BitVec 16} {v : Word} {s : State} {r : RegDef} (h : Plain off.toNat r)
    (hv : v &&& r.reserved = 0) (hs : off.toNat ∈ stoppedOnly → s.mayStopped = true)
    (hr : rangeRule off.toNat (s.newWord r false v) = none) :
    exec (.registerWrite t off v) s = .next (finish (setReg off.toNat (s.newWord r false v) (tick t s))) := by
  have special := h.special
  simp only [List.mem_cons, List.not_mem_nil, or_false, not_or] at special
  obtain ⟨hAdm, hEpoch, hLane, hKey0, hKey1, hSel, hCmd⟩ := special
  refine registerWrite_of_next h.aligned ((storeWrite_of_regAt h.reg h.noData).trans ?_) (h.commands v _)
  rw [fieldWrite_of_allowed hv (by rwa [h.off_eq, tick_mayStopped]) (by simp [h.off_eq, hSel, hCmd])
    (by rwa [h.off_eq, tick_newWord]), h.off_eq, if_neg hEpoch, if_neg hLane, if_neg (by omega),
    fieldEffect_of_plain_offset h.noGate h.noPort, admitNoted_of_ne hAdm, tick_newWord]

/-- ADM_CTRL has no command bit. -/
theorem maskOf_WO_of_admCtrl {r : RegDef} (h : regAt 0x800 = some r) : r.maskOf [.WO] = 0 := by
  simpa using of_regAt_all (p := fun r => r.maskOf [.WO] == 0) (by decide +kernel) h

theorem admCtrl_write (t : BitVec 64) (v : Word) (s : State) (r : RegDef) (h : regAt 0x800 = some r) (hv : v &&& r.reserved = 0) :
    exec (.registerWrite t 0x800 v) s = .next (finish (admitNoted 0x800 (setReg 0x800 (s.newWord r false v) (tick t s)))) := by
  have off_eq := off_of_regAt h
  refine registerWrite_of_next (by rfl) ((storeWrite_of_regAt h (by simp [dataOffset, creditFM])).trans ?_)
    (commands_of_no_command h (maskOf_WO_of_admCtrl h) (by decide))
  rw [fieldWrite_of_allowed hv (by simp [off_eq, stoppedOnly]) (by simp [off_eq]) (by rw [off_eq]; rfl), off_eq, if_neg (by decide),
    if_neg (by decide), if_neg (by decide), fieldEffect_of_plain_offset (by decide) (by decide), tick_newWord]

theorem admitNoted_first {x : State} (ho : x.on F.ADM_CTRL_OPEN = true) (ha : x.pwr.admitOpen = 0xFFFF) :
    (admitNoted 0x800 x).pwr.admitOpen = min 0xFFFE (x.now / 1000000) := by
  unfold admitNoted
  rw [if_pos ⟨rfl, ho, ha⟩]
  rfl

/-- Past the map a read gives zero (R313). -/
theorem read_past_map (s : State) (off : Nat) (h : 0x8000 ≤ off) : s.read off = 0 := by
  unfold State.read
  rw [if_neg (by omega), if_neg (by omega), if_neg (by omega), if_neg (by omega), if_neg (by omega), if_neg (by omega),
    if_neg (by omega), regAt_eq_none_of_le h]

/-- Past the map a write is ignored (R313). -/
theorem write_past_map (t : BitVec 64) (off : BitVec 16) (v : Word) (s : State) (h8 : off.toNat % 8 = 0) (h : 0x8000 ≤ off.toNat) :
    exec (.registerWrite t off v) s = .next (finish (tick t s)) := by
  have credit : off.toNat ∉ creditFM := by
    simp only [creditFM, List.mem_cons, List.not_mem_nil, or_false]
    omega
  refine registerWrite_of_next h8 ?_ ?_
  · unfold storeWrite
    rw [if_neg (by omega), if_neg (by omega), if_neg (by omega), if_neg (by omega), if_neg (by simpa using credit),
      if_neg (by omega), regAt_eq_none_of_le h]
  · unfold commands
    rw [regAt_eq_none_of_le h]

/-- Settles O22: by `Plain.write`, by ADM_CTRL's own rule, and because the register map ends below 0x8000. -/
theorem registerWriteStores : Obligations.RegisterWriteStores :=
  ⟨fun _ _ _ _ _ h => (plain_of_plainReg h).write, fun t v s r h hv => ⟨admCtrl_write t v s r h hv, fun _ => admitNoted_first⟩,
    fun _ => regAt_eq_none_of_le, read_past_map, write_past_map⟩

/-- A bit written: W1C bits clear, stored bits take the value, and the others stay (R7). -/
theorem newWord_bit (s : State) (r : RegDef) (v : Word) (n : Nat) (hn : n < 64) :
    (s.newWord r false v).getLsbD n =
      if (r.maskOf [.W1C]).getLsbD n && v.getLsbD n then false
      else if (writable r false).getLsbD n then v.getLsbD n else (s.reg r.off).getLsbD n := by
  unfold State.newWord
  simp only [BitVec.getLsbD_and, BitVec.getLsbD_or, BitVec.getLsbD_not, hn, decide_true, Bool.true_and]
  by_cases clears : ((r.maskOf [.W1C]).getLsbD n && v.getLsbD n) = true
  · rw [if_pos clears, Bool.and_comm (v.getLsbD n) ((r.maskOf [.W1C]).getLsbD n), clears]
    simp
  · rw [if_neg clears, Bool.and_comm (v.getLsbD n) ((r.maskOf [.W1C]).getLsbD n), Bool.eq_false_iff.mpr clears]
    cases (writable r false).getLsbD n <;> simp

/-- Settles O23: each bit by the access codes of its register, and a read after a write of the register store. -/
theorem registerFields : Obligations.RegisterFields :=
  ⟨newWord_bit, fun _ _ _ => ⟨tget_tput_self .., fun _ h => tget_tput_other _ _ _ _ h, rfl⟩⟩

end Sys2Proof.Machine

namespace Sys2Proof.Machine

/-! # The exchange of port N, peer leases, and the waits that PEERWAIT ends -/

/-! ## What counting and tracing leave as it is -/

@[simp] theorem bumpN_led (c n : Nat) (s : State) : (bumpN c n s).led = s.led := by
  obtain ⟨l, h⟩ | ⟨l, h⟩ := bumpN_cases c n s
  · rw [h]
  · rw [h]; rfl

@[simp] theorem bumpN_deals (c n : Nat) (s : State) : (bumpN c n s).deals = s.deals := by
  obtain ⟨l, h⟩ | ⟨l, h⟩ := bumpN_cases c n s
  · rw [h]
  · rw [h]; rfl

@[simp] theorem bump_led (c : Nat) (s : State) : (bump c s).led = s.led := bumpN_led c 1 s

@[simp] theorem bump_deals (c : Nat) (s : State) : (bump c s).deals = s.deals := bumpN_deals c 1 s

/-- A counter outside the keep domain belongs to the observation state (R284, R285). -/
theorem bumpN_eq {c : Nat} (h : ¬(0xF0 ≤ c ∧ c ≤ 0xF7)) (n : Nat) (s : State) :
    bumpN c n s = { s with obs := (bumpN c n s).obs } := by
  unfold bumpN
  rw [if_neg h]

/-- A record that reaches the ingest changes the observation state alone, whether it is dropped, placed or fires. -/
theorem trace_cases (r : TraceRec) (s : State) : ∃ o, trace r s = { s with obs := o } := by
  unfold trace
  dsimp only
  repeat' split
  all_goals exact ⟨_, rfl⟩

@[simp] theorem trace_led (r : TraceRec) (s : State) : (trace r s).led = s.led := by
  obtain ⟨o, h⟩ := trace_cases r s
  rw [h]

@[simp] theorem trace_deals (r : TraceRec) (s : State) : (trace r s).deals = s.deals := by
  obtain ⟨o, h⟩ := trace_cases r s
  rw [h]

/-! ## Messages of port N -/

@[simp] theorem heard_accepts (peer : Nat) (s : State) (p : Port) (k cls beats : Nat) :
    (heard peer s).accepts p k cls beats = s.accepts p k cls beats := rfl

/-- A message of port N that its port takes acts in the state `received` gives, its sender heard. -/
theorem fromPeer_accepts {peer cls op : Nat} {word1 : Word} {beats : Nat} {f : State → State} {s : State}
    (h : s.accepts .N peer cls beats = true) (t : BitVec 64) :
    fromPeer peer cls op word1 beats f (tick t s) = finish (f (received .N peer cls op word1 beats (heard peer (tick t s)))) := by
  unfold fromPeer
  rw [taking_accepts (by rwa [heard_accepts, tick_accepts])]

theorem takes_iff {s : State} {p : Port} {peer cls : Nat} :
    s.takes p peer cls = true ↔ s.mainOn = true ∧ s.accepts p peer cls 0 = true := by
  unfold State.takes
  rw [Bool.and_eq_true]

/-- An outbound exchange message goes on to port N (R108, R258). -/
theorem clusterExchangeOut_of_open (t : BitVec 64) (q : Bool) (i g : BitVec 16) (el : BitVec 48) (layer : BitVec 12) (n : BitVec 4)
    (b : BitVec 40) (pay : List Word) (s : State) (on : s.mainOn = true) (opened : s.portOpen .F = true) :
    exec (.clusterExchangeOut t q i g el layer n (b, pay)) s = .next (finish (exchangeOut q i.toNat g.toNat el.toNat layer.toNat
      n.toNat b.toNat pay (bump 0xFE (tick t s)))) := by
  change execClusterExchangeOut t q i g el layer n (b, pay) s = _
  unfold execClusterExchangeOut
  simp only [on, tick_portOpen, opened, Bool.not_true, Bool.false_eq_true, if_false]

/-! ## Peer leases -/

/-- LEASE that port N takes lends (R112, R260). -/
theorem lease_of_takes (t : BitVec 64) (peer : BitVec 6) (el : BitVec 48) (len : BitVec 8) (n : BitVec 16) (b : BitVec 40) (s : State)
    (h : s.takes .N peer.toNat 2 = true) :
    exec (.lease t peer el len n b) s = .next (finish (leaseTaken peer.toNat el.toNat len.toNat n.toNat b.toNat
      (received .N peer.toNat 2 0x7A (pack [(48, el.toNat), (8, len.toNat), (8, 0)]) 0 (heard peer.toNat (tick t s))))) := by
  obtain ⟨on, accepted⟩ := takes_iff.mp h
  change execLease t peer el len n b s = _
  unfold execLease
  rw [if_neg (by simp [on]), fromPeer_accepts accepted]

/-- The leases lent to a peer that has stayed silent for PEERWAIT return and are counted, and nothing else moves (R112). -/
theorem leaseIdleExpiry_returns (t : BitVec 64) (peer : BitVec 6) (s : State) (on : s.mainOn = true) :
    ∃ u, exec (.leaseIdleExpiry t peer) s = .next u ∧ u = { tick t s with deals := u.deals, obs := u.obs } ∧
      u.deals = { s.deals with leases := s.deals.leases.filter fun l => !(l.lent && l.peer == peer.toNat && (tick t s).lapsed l) } := by
  change ∃ u, execLeaseIdleExpiry t peer s = .next u ∧ _
  unfold execLeaseIdleExpiry
  rw [if_neg (by simp [on])]
  refine ⟨_, rfl, ?_, ?_⟩
  · rw [bumpN_eq (by decide)]
    rfl
  · simp only [bumpN_deals, modDeals_deals, tick_deals]

/-! ## Waits for a peer -/

/-- A lead that has waited PEERWAIT for a PARTIAL: its wait ends, LINK reads 3, its rows are void and it closes with 0x40 (R19, R109). -/
theorem peerwaitLeadExpiry_closes (t : BitVec 64) (i : BitVec 16) (s : State) (w : PeerWait) (on : s.mainOn = true)
    (due : (s.deals.peerWaits.find? fun w => w.seat == i.toNat &&
      w.since.any fun b => decide (b + 1000 * s.fld F.HER_PEER_PEERWAIT ≤ (tick t s).now)) = some w) :
    ∃ x, exec (.peerwaitLeadExpiry t i) s =
      .next (finish (failSeat i.toNat 0x40 (voidRun i.toNat (modSplit i.toNat (fun e => { e with link := 3 }) x)))) ∧
      x.led = s.led ∧ x.deals = { s.deals with peerWaits := s.deals.peerWaits.filter fun w => w.seat != i.toNat } := by
  change ∃ x, execPeerwaitLeadExpiry t i s = _ ∧ _
  unfold execPeerwaitLeadExpiry
  rw [if_neg (by simp [on])]
  simp only [tick_deals, tick_fld, due]
  refine ⟨_, rfl, ?_, ?_⟩
  · simp only [modDeals_led, bump_led, trace_led, tick_led]
  · simp only [modDeals_deals, bump_deals, trace_deals, tick_deals]

/-- A follower that has waited PEERWAIT for a QUERY: it is left unbound, LINK reads 3 and it closes with 0x40 (R19, R109). -/
theorem peerwaitFollowerExpiry_closes (t : BitVec 64) (i : BitVec 16) (s : State) (w : Nat × Nat) (on : s.mainOn = true)
    (due : (s.deals.followWaits.find? fun w => w.1 == i.toNat && decide (w.2 + 1000 * s.fld F.HER_PEER_PEERWAIT ≤ (tick t s).now)) =
      some w) :
    ∃ x, exec (.peerwaitFollowerExpiry t i) s =
      .next (finish (failSeat i.toNat 0x40 (modSplit i.toNat (fun e => { e with link := 3 }) (unbind i.toNat x)))) ∧
      x.led = s.led ∧ x.deals = s.deals := by
  change ∃ x, execPeerwaitFollowerExpiry t i s = _ ∧ _
  unfold execPeerwaitFollowerExpiry
  rw [if_neg (by simp [on])]
  simp only [tick_deals, tick_fld, due]
  refine ⟨_, rfl, ?_, ?_⟩
  · simp only [bump_led, trace_led, tick_led]
  · simp only [bump_deals, trace_deals, tick_deals]

/-- Settles O52: each clause by what its command does once it is due. -/
theorem exchangeAndLeases : Obligations.ExchangeAndLeases :=
  ⟨clusterExchangeOut_of_open, lease_of_takes, leaseIdleExpiry_returns, peerwaitLeadExpiry_closes, peerwaitFollowerExpiry_closes⟩

end Sys2Proof.Machine

namespace Sys2Proof.Machine

/-! # The ledger: reset, OPEN, PROMPT and CANCEL, launch and layers, the write lock and the scrubber -/

/-! ## The state after reset -/

/-- The field of all 64 bits is the word. -/
theorem get_whole_word (off : Nat) (w : Word) : Fld.get ⟨off, 63, 0⟩ w = w.toNat := by
  show w.toNat / 2 ^ 0 % 2 ^ 64 = w.toNat
  rw [Nat.pow_zero, Nat.div_one, Nat.mod_eq_of_lt w.isLt]

theorem reset_portOpen {p : Port} (h : p ≠ .M) : State.reset.portOpen p = false := by
  cases p with
  | M => exact absurd rfl h
  | G | P | C | N | T | F => rfl

theorem reset_cnt (n : Nat) : State.reset.cnt n = 0 := by
  unfold State.cnt
  split <;> rfl

theorem reset_reg (off : Nat) : State.reset.reg off = regDefault .ab132 off := rfl

/-- After reset a field is in force at its value at start (R318). -/
theorem reset_rd (f : Fld) : State.reset.rd f = f.get (regDefault .ab132 f.off) := rfl

/-- Settles O3: the stores of `State.reset` list nothing, so every read of one gives its default. -/
theorem resetValues : Obligations.ResetValues :=
  ⟨fun _ => ⟨rfl, rfl⟩, rfl, rfl, rfl, rfl, rfl, fun _ _ => rfl, fun _ => reset_portOpen, reset_cnt, rfl, rfl, rfl,
    fun off => ⟨reset_reg off, (reset_rd _).trans (get_whole_word off _)⟩⟩

/-! ## Messages that their ports take -/

/-- A message that its port accepts is taken. -/
theorem arrive_of_accepts {p : Port} {peer cls beats : Nat} {s : State} (h : s.accepts p peer cls beats = true) (op : Nat)
    (word1 : Word) : arrive p peer cls op word1 beats s = (true, (arrive p peer cls op word1 beats s).2) :=
  Prod.ext ((arrive_fst ..).trans h) rfl

/-- What a message that port G takes finds: power, nothing held, and credit (R240 to R245, R274). -/
theorem gTakes_iff {s : State} {cls : Nat} :
    s.gTakes cls = true ↔ s.powered .G = true ∧ s.holding = false ∧ s.accepts .G 0 cls 0 = true := by
  unfold State.gTakes
  rw [Bool.and_eq_true, Bool.and_eq_true, Bool.not_eq_true', and_assoc]

/-! ## OPEN -/

/-- An OPEN that port G takes goes to the ledger at once (R21, R248). -/
theorem openReq_of_gTakes {t : BitVec 64} {m : OpenMsg} {s : State} (h : s.gTakes 0 = true) :
    exec (.openReq t m) s = .next (openGo m (arrive .G 0 0 0x10 m.reqid 0 (tick t s)).2) := by
  obtain ⟨power, free, accepted⟩ := gTakes_iff.mp h
  change execOpenReq t m s = _
  unfold execOpenReq handleOpen
  dsimp only
  rw [if_neg (by simp [power]), if_neg (by simp [free]), arrive_of_accepts (by rwa [tick_accepts])]

theorem openGo_of_badLen {m : OpenMsg} (h : openBadLen m = true) (s : State) : openGo m s = badLen .G 0 0 s := if_pos h

theorem openGo_of_goodLen {m : OpenMsg} (h : openBadLen m = false) (s : State) : openGo m s = drain (openTaken m s) :=
  if_neg (by simp [h])

/-- With no Free seat an OPEN is refused with 0x01 (R51 test 1). -/
theorem openTaken_of_no_seat {m : OpenMsg} {s : State} (h : (bump 0x00 s).freeSeatIdx = none) :
    openTaken m s = refuseBare m 0x01 (bump 0x00 s) := by
  unfold openTaken
  dsimp only
  rw [h]

/-- An OPEN of a live request id is refused with 0x08, its seat given back (R51 test 2). -/
theorem openTaken_of_duplicate {m : OpenMsg} {s : State} {i : Nat} (h : (bump 0x00 s).freeSeatIdx = some i)
    (live : ((bump 0x00 s).findReq m.reqid).isSome = true) :
    openTaken m s = refuseBare m 0x08 (bump 0x06 (freeSeat i (takeSeat i (bump 0x00 s)))) := by
  unfold openTaken
  dsimp only
  rw [h]
  exact if_pos live

/-- Settles O32: an OPEN that port G takes goes to `openGo`, and `openTaken` tests for a Free seat, then for a duplicate. -/
theorem openIsDecided : Obligations.OpenIsDecided := fun _ _ _ h =>
  ⟨fun bad => by rw [openReq_of_gTakes h, openGo_of_badLen bad], fun good => by rw [openReq_of_gTakes h, openGo_of_goodLen good],
    fun _ => openTaken_of_no_seat, fun _ _ => openTaken_of_duplicate⟩

/-! ## What a message's arrival leaves of the KV steward -/

@[simp] theorem bumpN_kv (c n : Nat) (s : State) : (bumpN c n s).kv = s.kv := by
  obtain ⟨l, h⟩ | ⟨l, h⟩ := bumpN_cases c n s
  · rw [h]
  · rw [h]; rfl

@[simp] theorem bump_kv (c : Nat) (s : State) : (bump c s).kv = s.kv := bumpN_kv c 1 s

@[simp] theorem portCnt_kv (p : Port) (k n : Nat) (s : State) : (portCnt p k n s).kv = s.kv := by
  unfold portCnt
  split
  · exact bumpN_kv ..
  · rfl

@[simp] theorem depart_kv (m : Msg) (s : State) : (depart m s).kv = s.kv := by
  unfold depart
  dsimp only
  split
  · rw [bump_kv, emit_kv]
  · rw [portCnt_kv]
    split <;> rfl

@[simp] theorem greeted_kv (p : Port) (peer cls beats : Nat) (s : State) : (greeted p peer cls beats s).2.kv = s.kv := by
  unfold greeted
  dsimp only
  split
  · rfl
  · split <;> rfl

@[simp] theorem overrun_kv (p : Port) (peer n : Nat) (s : State) : (overrun p peer n s).kv = s.kv := by
  unfold overrun
  rw [modSess_kv, setFlag_kv, bumpN_kv]

@[simp] theorem sendNotReady_kv (p : Port) (peer op : Nat) (word1 : Word) (s : State) : (sendNotReady p peer op word1 s).kv = s.kv := by
  unfold sendNotReady
  rw [setFlag_kv, portCnt_kv, depart_kv]

/-- Whether its port takes it or not, the arrival of a message leaves the KV steward as it was: each of the port's answers does. -/
@[simp] theorem arrive_kv (p : Port) (peer cls op : Nat) (word1 : Word) (beats : Nat) (s : State) :
    (arrive p peer cls op word1 beats s).2.kv = s.kv := by
  unfold arrive
  dsimp only
  repeat' split
  all_goals simp only [setFlag_kv, bump_kv, portCnt_kv, sendNotReady_kv, greeted_kv, modSess_kv, overrun_kv]

/-! ## PROMPT and CANCEL -/

/-- A PROMPT that neither waits in port G's hold buffer nor behind held prompts reaches the ledger (R249). -/
theorem prompt_reaches_ledger (t : BitVec 64) (p : Port) (peer : BitVec 6) (m : PromptMsg) (s : State) (wf : m.wf = true)
    (first : (p = .G ∧ s.holding = false ∧ s.kv.heldPrompts = []) ∨ p = .N) (power : s.powered p = true)
    (accepted : s.accepts p peer.toNat (if p = .N then 0 else 1) 0 = true) :
    exec (.prompt t p peer m) s = .next (finish (promptTaken p peer.toNat m
      (arrive p peer.toNat (if p = .N then 0 else 1) 0x11 m.reqid 0 (tick t s)).2)) := by
  have port : p = .G ∨ p = .N := first.imp_left And.left
  have notHeld : ¬(p = .G ∧ s.holding = true) := by
    rintro ⟨rfl, held⟩
    simp [held] at first
  have noneBefore : ¬(p = .G ∧ s.kv.heldPrompts ≠ []) := by
    rintro ⟨rfl, held⟩
    simp [held] at first
  have length : 1 ≤ m.toks.length ∧ m.toks.length ≤ 4096 := by simpa [PromptMsg.wf] using wf
  change execPrompt t p peer m s = _
  unfold execPrompt handlePrompt promptGo
  dsimp only
  rw [if_neg (by obtain rfl | rfl := port <;> simp [power]), if_neg (by simpa using notHeld),
    arrive_of_accepts (by rwa [tick_accepts])]
  dsimp only
  rw [if_neg (by omega), if_neg (by rwa [arrive_kv, tick_kv])]

/-- A CANCEL that port G takes reaches the ledger (R29). -/
theorem cancel_of_gTakes (t : BitVec 64) (r : Word) (s : State) (h : s.gTakes 2 = true) :
    exec (.cancel t r) s = .next (sievePump (cancelTaken r (received .G 0 2 0x16 r 0 (tick t s)))) := by
  obtain ⟨power, free, accepted⟩ := gTakes_iff.mp h
  change execCancel t r s = _
  unfold execCancel handleCancel
  dsimp only
  rw [if_neg (by simp [power]), if_neg (by simp [free]), arrive_of_accepts (by rwa [tick_accepts])]
  rfl

/-- A CANCEL of a request id that no seat holds is only counted (R29). -/
theorem cancelTaken_of_unknown (r : Word) (s : State) (h : (bump 0x04 s).findReq r = none) :
    cancelTaken r s = bump 0x05 (bump 0x04 s) := by
  unfold cancelTaken
  dsimp only
  rw [h]

/-- A prompt that has not come whole within PROMPTWAIT closes its seat with 0x7F (R249). -/
theorem promptwaitExpiry_closes (t : BitVec 64) (i : BitVec 16) (s : State) (on : s.mainOn = true)
    (waits : takesPrompt (s.seat i.toNat).state = true) (lead : (s.seat i.toNat).role ≠ 2) (new : (s.side i.toNat).kind ≠ 1)
    (short : (s.side i.toNat).toks.length < (s.seat i.toNat).promptLen.toNat)
    (late : 1000 * s.fld F.PORTG_STREAM_PROMPTWAIT ≤ (tick t s).sinceArrival i.toNat) :
    exec (.promptwaitExpiry t i) s = .next (finish (closeSeat i.toNat 0x7F (tick t s))) := by
  change execPromptwaitExpiry t i s = _
  unfold execPromptwaitExpiry
  simp only [tick_seat, tick_side, tick_fld]
  rw [if_neg (by simp [on]), if_pos ⟨waits, lead, new, short, by simpa using late⟩]

/-- Settles O33: each clause by what its command does once its port takes it, or once it is due. -/
theorem promptAndCancel : Obligations.PromptAndCancel :=
  ⟨⟨prompt_reaches_ledger, cancel_of_gTakes, cancelTaken_of_unknown⟩, promptwaitExpiry_closes⟩

/-! ## Launch and layers -/

/-- A handed-off deal launches once its feed has left and layer 0 is in (R27 step 9, R103). -/
theorem launch_of_due (t : BitVec 64) (s : State) (d : Deal) (on : s.mainOn = true) (handed : s.deals.handed = some d)
    (due : (tick t s).launchDue = true) (layer0 : (tick t s).layerIn d.model d.slot d.epoch 0 = true) :
    exec (.launch t) s = .next (finish (launchDeal d (tick t s))) := by
  change execLaunch t s = _
  unfold execLaunch
  simp only [tick_deals, handed]
  rw [if_neg (by simp [on]), if_pos (by simp [due, layer0])]

/-- Layers of the running deal are released as far ahead as R103 allows. -/
theorem layerRelease_of_running (t : BitVec 64) {s : State} {r : Running} (on : s.mainOn = true) (running : s.deals.running = some r) :
    exec (.layerRelease t) s = .next (finish (releaseLayers r (tick t s))) := by
  change execLayerRelease t s = _
  unfold execLayerRelease
  simp only [tick_deals, running]
  rw [if_neg (by simp [on])]

/-- The tree's layer-done value reaches the running deal (R100, R211). -/
theorem layerDone_of_running (t : BitVec 64) {s : State} {r : Running} (on : s.mainOn = true) (running : s.deals.running = some r)
    (n : BitVec 12) : exec (.layerDone t n) s = .next (finish (layerDone r n.toNat (tick t s))) := by
  change execLayerDone t n s = _
  unfold execLayerDone
  simp only [tick_deals, running]
  rw [if_neg (by simp [on])]

/-- Settles O47: the deal of each command is the one that the clock leaves handed off, or running. -/
theorem launchAndLayers : Obligations.LaunchAndLayers :=
  ⟨launch_of_due, fun t _ _ on running => ⟨layerRelease_of_running t on running, layerDone_of_running t on running⟩⟩

/-! ## The write lock -/

theorem lockAcquire_eq {t : BitVec 64} {s : State} (on : s.cmdOn = true) : exec (.lockAcquire t) s = .next (acquireLock (tick t s)) :=
  if_neg (by simp [on])

theorem acquireLock_of_unlocked {s : State} (h : s.pwr.locked = none) :
    acquireLock s = { s with pwr := { s.pwr with locked := some s.now } } := if_neg (by simp [h])

theorem acquireLock_of_locked {s : State} (h : s.pwr.locked.isSome = true) : acquireLock s = s := if_pos h

theorem releaseLock_of_none {s : State} (h : s.pwr.heldDone = none) : releaseLock s = unlock s := by
  unfold releaseLock
  rw [h]

theorem releaseLock_of_held {s : State} {e n ahead : Nat} {ab : Bool} {l : List OpsRec}
    (h : s.pwr.heldDone = some (e, n, ab, ahead, l)) : releaseLock s = epochDone e ahead ab l (unlock s) := by
  unfold releaseLock
  rw [h]

/-- From 43,691 ns on, past 65,536 cycles of 2/3 ns, the lock clears by itself with EXPIRED set (R320). -/
theorem lockExpiry_of_due (t : BitVec 64) (s : State) (a : Nat) (on : s.mainOn = true) (locked : s.pwr.locked = some a)
    (due : a + 43691 ≤ (tick t s).now) :
    exec (.lockExpiry t) s = .next (finish (setFlag F.STAT_WINDOW_EXPIRED (releaseLock (tick t s)))) := by
  change execLockExpiry t s = _
  unfold execLockExpiry
  simp only [tick_pwr, locked]
  rw [if_neg (by simp [on]), if_pos (by omega)]

/-- ACQUIRE sets LOCKED, and a second one before the lock ends changes nothing (R320). -/
theorem lockAcquire_sets_once (t : BitVec 64) (s : State) (on : s.cmdOn = true) :
    (s.pwr.locked = none → exec (.lockAcquire t) s = .next { tick t s with pwr := { s.pwr with locked := some (tick t s).now } }) ∧
    (s.pwr.locked.isSome = true → exec (.lockAcquire t) s = .next (tick t s)) := by
  rw [lockAcquire_eq on]
  constructor
  · intro unlocked
    rw [acquireLock_of_unlocked (by rwa [tick_pwr]), tick_pwr]
  · intro locked
    rw [acquireLock_of_locked (by rwa [tick_pwr])]

/-! ## The scrubber -/

/-- The calm view shows the retired indices and the scrubber: no close of a seat moves them. -/
theorem led_of_calm {s u : State} (h : u.calm = s.calm) : u.led.retired = s.led.retired ∧ u.led.scrub = s.led.scrub := by
  have retired := congrArg (fun x : State => x.led.retired) h
  have scrub := congrArg (fun x : State => x.led.scrub) h
  exact ⟨retired, scrub⟩

theorem failSeat_calm (i reason : Nat) (s : State) : (failSeat i reason s).calm = s.calm :=
  ite_calm (modSide_calm ..) (closeSeat_calm ..)

/-- An uncorrectable seat word retires the seat's index; what is lost with the word, and the close, move the list no further (R37). -/
theorem loseWord_retires (i w : Nat) (s : State) :
    ∃ x : State, x.calm = s.calm ∧
      (loseWord i w s).led.retired = (if x.led.retired.contains i then x.led.retired else x.led.retired ++ [i]) ∧
      (loseWord i w s).led.scrub = x.led.scrub := by
  unfold loseWord
  obtain ⟨retired, scrub⟩ := led_of_calm (failSeat_calm i 0x7F _)
  refine ⟨_, ?_, retired, scrub⟩
  refine ite_calm ((modSeat_calm ..).trans ?_) ?_
  all_goals exact ite_calm ((setFlag_calm ..).trans (bump_calm ..)) rfl

theorem loseWord_led (i w : Nat) (s : State) :
    (loseWord i w s).led.retired = (if s.led.retired.contains i then s.led.retired else s.led.retired ++ [i]) ∧
      (loseWord i w s).led.scrub = s.led.scrub := by
  obtain ⟨x, calm, retired, scrub⟩ := loseWord_retires i w s
  obtain ⟨keptRetired, keptScrub⟩ := led_of_calm calm
  rw [retired, scrub, keptRetired, keptScrub]
  exact ⟨rfl, rfl⟩

theorem mem_loseWord_retired {i w k : Nat} {s : State} : k ∈ (loseWord i w s).led.retired ↔ k = i ∨ k ∈ s.led.retired := by
  rw [(loseWord_led i w s).1]
  split
  case isTrue h =>
    have listed : i ∈ s.led.retired := by simpa using h
    exact ⟨.inr, fun h => h.elim (fun eq => eq ▸ listed) id⟩
  case isFalse => rw [List.mem_append, List.mem_singleton, or_comm]

/-- The scrubber goes on to the next seat word (R37). -/
def scrubOn (s : State) : State := { s with led := { s.led with scrub := (s.led.scrub + 1) % 2097152 } }

theorem scrubWord_clean (s : State) : scrubWord .clean s = scrubOn s := rfl

/-- The seat word that the scrubber finds uncorrectable is lost once the scrubber has gone on and the counters count it (R37). -/
theorem scrubWord_uncorrectable (s : State) :
    ∃ x, x.led = (scrubOn s).led ∧ scrubWord .uncorrectable s = loseWord (s.led.scrub / 32) (s.led.scrub % 32) x := by
  refine ⟨_, ?_, rfl⟩
  rw [bump_led]
  split
  · exact bump_led ..
  · rfl

theorem scrubWord_uncorrectable_led (s : State) :
    (s.led.scrub / 32) ∈ (scrubWord .uncorrectable s).led.retired ∧
      (scrubWord .uncorrectable s).led.scrub = (s.led.scrub + 1) % 2097152 ∧
      ∀ k, k ∈ s.led.retired → k ∈ (scrubWord .uncorrectable s).led.retired := by
  obtain ⟨x, led, lost⟩ := scrubWord_uncorrectable s
  rw [lost, (loseWord_led ..).2, led]
  refine ⟨mem_loseWord_retired.mpr (.inl rfl), rfl, fun k h => mem_loseWord_retired.mpr (.inr ?_)⟩
  rw [led]
  exact h

/-! ## Errors that reads of other memories find -/

/-- The context table's entry of a Free seat holds nothing to close. -/
theorem loseContext_of_free {i : Nat} {s : State} (h : (s.seat i).state = .free) : loseContext i s = s := if_pos (.inl h)

theorem mem_tmap {α : Type} [DecidableEq α] {d : α} {f : Nat → α → α} {l : List (Nat × α)} {e : Nat × α} (h : e ∈ tmap d f l) :
    ∃ v, (e.1, v) ∈ l ∧ e.2 = f e.1 v := by
  induction l with
  | nil => cases h
  | cons a l ih =>
    obtain ⟨k, v⟩ := a
    rw [tmap] at h
    split at h
    case isTrue =>
      obtain ⟨v, listed, eq⟩ := ih h
      exact ⟨v, .tail _ listed, eq⟩
    case isFalse =>
      obtain rfl | h := List.mem_cons.mp h
      · exact ⟨v, .head _, rfl⟩
      · obtain ⟨v, listed, eq⟩ := ih h
        exact ⟨v, .tail _ listed, eq⟩

/-- A dropped line stands in no bucket of the hot cache (R173). -/
theorem dropHot_drops {n : Nat} {s : State} {e : Nat × List Nat} (h : e ∈ (dropHot n s).kv.hot) : n ∉ e.2 := by
  obtain ⟨l, -, eq⟩ := mem_tmap h
  rw [eq]
  simp

/-- A directory entry that is lost does not move the scrubber (R37). -/
theorem loseEntry_scrub (i : Nat) (s : State) : (loseEntry i s).led.scrub = s.led.scrub := by
  unfold loseEntry
  dsimp only
  split
  · rw [setFlag_led, setFld_led, bump_led]
  · rw [modLed_led, setFlag_led, setFld_led, bump_led]

/-- Errors that reads of the context table, of the hot cache and of the directory find (R37, R169, R173). -/
theorem scrubWord_of_read (s : State) (i : BitVec 16) (n : BitVec 24) :
    scrubWord (.context i true) s = setFlag F.PKV_FLAGS_HOTCE (bump 0x8F s) ∧
    scrubWord (.hotLine n true) s = setFlag F.PKV_FLAGS_HOTCE (bump 0x8F s) ∧
    scrubWord (.directoryCorrected i) s = correctedWord s ∧
    ((s.seat i.toNat).state = .free → scrubWord (.context i false) s = setFlag F.PKV_FLAGS_HOTUE (bump 0x9F s)) ∧
    (∀ e, e ∈ (scrubWord (.hotLine n false) s).kv.hot → n.toNat ∉ e.2) ∧
    (scrubWord (.directory i) s).led.scrub = s.led.scrub := by
  refine ⟨rfl, rfl, rfl, fun free => loseContext_of_free ?_, fun _ => dropHot_drops, loseEntry_scrub ..⟩
  unfold State.seat keptEcc
  rwa [if_neg Bool.false_ne_true, setFlag_led, bump_led]

/-- Settles O58: the lock by `acquireLock` and `releaseLock`, a lost seat word by `loseWord_led`. -/
theorem writeLockAndScrubber : Obligations.WriteLockAndScrubber :=
  ⟨⟨lockAcquire_sets_once, fun _ _ => rfl, lockExpiry_of_due, fun _ => ⟨releaseLock_of_none, fun _ _ _ _ _ => releaseLock_of_held⟩⟩,
    fun _ _ _ => rfl, scrubWord_clean, scrubWord_uncorrectable_led, scrubWord_of_read⟩

end Sys2Proof.Machine

namespace Sys2Proof.Machine

/-! # Data registers behind a selector, and the prompt pool -/

/-! ## A gate's payload that its port takes -/

/-- An inbound payload that `gatedTakes` lets through acts at once, in the state `receivedGated` gives (R220). -/
theorem takingGated_of_gatedTakes {x : Gated} {op : Nat} {word1 : Word} {f : State → State} {s : State}
    (h : s.gatedTakes x op word1 = true) : takingGated x op word1 f s = f (receivedGated x op word1 s) := by
  obtain ⟨accepted, passes⟩ := Bool.and_eq_true_iff.mp h
  exact takingGated_passes accepted passes

/-! ## Shipments (R59, R193, R194) -/

/-- A shipment leaves for a routed seat that is ready, on a live session of port P, under the gate's TAG (R193, R220). -/
theorem prefillShip_leaves (t : BitVec 64) (i : BitVec 16) (s : State) (tag : Nat) (on : s.mainOn = true)
    (routed : (s.seat i.toNat).state = .routed) (ready : (tick t s).shipReady i.toNat = true) (live : s.live .P 0 = true)
    (free : (tick t s).shipTag = some tag) :
    exec (.prefillShip t i) s = .next (finish (sendShip i.toNat tag (tick t s))) := by
  change execPrefillShip t i s = _
  unfold execPrefillShip
  simp only [free, tick_seat, tick_live]
  rw [if_neg (by simp [on]), if_pos ⟨routed, ready, live⟩]

/-- A PREFILL_FAIL that port P takes acts in the state `received` gives: on a routed seat of that generation the shipment fails, and
any other is counted stale (R20, R194). -/
theorem prefillFail_of_takes {t : BitVec 64} {i g : BitVec 16} {code : BitVec 8} {s x : State} (h : s.takes .P 0 1 = true)
    (hx : x = received .P 0 1 0x22 (seatWord i.toNat g.toNat 0) 0 (tick t s)) :
    exec (.prefillFail t i g code) s =
      .next (if x.current i.toNat g.toNat = true ∧ (x.seat i.toNat).state = .routed then finish (shipFail i.toNat x)
        else bump 0x07 x) := by
  obtain ⟨on, accepted⟩ := takes_iff.mp h
  change execPrefillFail t i g code s = _
  unfold execPrefillFail
  rw [if_neg (by simp [on]), taking_accepts (by rwa [tick_accepts]), ← hx]

theorem prefillFail_acts (t : BitVec 64) (i g : BitVec 16) (code : BitVec 8) (s x : State) (h : s.takes .P 0 1 = true)
    (hx : x = received .P 0 1 0x22 (seatWord i.toNat g.toNat 0) 0 (tick t s)) :
    (x.current i.toNat g.toNat = true ∧ (x.seat i.toNat).state = .routed →
      exec (.prefillFail t i g code) s = .next (finish (shipFail i.toNat x))) ∧
    (x.current i.toNat g.toNat = false → exec (.prefillFail t i g code) s = .next (bump 0x07 x)) := by
  rw [prefillFail_of_takes h hx]
  exact ⟨fun current => by rw [if_pos current], fun stale => by rw [if_neg (by simp [stale])]⟩

/-- A shipment that has waited SHIPWAIT µs for a return fails (R194). -/
theorem shipwaitExpiry_fails (t : BitVec 64) (i : BitVec 16) (s : State) (h : Shipment) (on : s.mainOn = true)
    (ship : (s.side i.toNat).ship = some h) (sent : h.sent = true) (routed : (s.seat i.toNat).state = .routed)
    (late : h.lastAt + 1000 * s.fld F.PKV_WAIT_SHIPWAIT ≤ (tick t s).now) :
    exec (.shipwaitExpiry t i) s = .next (finish (shipFail i.toNat (tick t s))) := by
  change execShipwaitExpiry t i s = _
  unfold execShipwaitExpiry
  simp only [tick_side, tick_seat, tick_fld, ship]
  rw [if_neg (by simp [on]), if_pos ⟨sent, routed, late⟩]

/-! ## Returned blocks (R175, R178, R194) -/

/-- The next block of a seat's shipment is in place: complete and owned by its seat, and the shipment waits for the one after it. -/
def blockReturned (i gen b : Nat) (c : BlockTag) (h : Shipment) (s : State) : State :=
  let s := modBlk b (fun _ => { tagBlk c (s.blk b) with
    state := .complete, owner := i, ownerGen := gen, owned := true, stamp := s.stampNow }) s
  modSide i (fun d => { d with
    ship := some { h with nextBlock := h.nextBlock + 1, lastAt := s.now }, toIndex := d.toIndex ++ [h.nextBlock] }) s

/-- The first block of a run comes back in its turn, with a tag that matches: it is put in place, and the shipment ends with its last
block. The parent of a run's first block has the name 0 (R178). -/
theorem prefillKvIn_of_first {i gen tag b : Nat} {c : BlockTag} {h : Shipment} {s : State} (ship : (s.side i).ship = some h)
    (current : s.current i gen = true) (routed : (s.seat i).state = .routed) (sent : h.sent = true) (sameTag : h.tag = tag)
    (first : h.nextBlock = 1) (linked : (s.chain i)[0]? = some b)
    (matched : tagMatches s i 1 0 (tagBlk c (s.blk b)) = true) :
    prefillKvIn i gen h.nextBlock tag c s = finish (if h.nextBlock = (blockReturned i gen b c h s).shipEnd i
      then shipComplete i (blockReturned i gen b c h s) else blockReturned i gen b c h s) := by
  have index : h.nextBlock - 1 - s.blkBase i = 0 := by rw [first, Nat.sub_self, Nat.zero_sub]
  unfold prefillKvIn
  simp only [ship, index, linked]
  rw [if_neg (by simp [current, routed, sent, sameTag]), if_neg (by simpa [first] using matched)]
  rfl

theorem prefillKv_returns (t : BitVec 64) (i g : BitVec 16) (block : BitVec 18) (tag : BitVec 24) (c : BlockTag) (s x : State)
    (h : Shipment) (b : Nat) (q : Gated) (on : s.mainOn = true)
    (payload : q = ⟨.prefillKv t i g block tag c, 0, 4, tag.toNat, .P, 0, 0, beatsOf (tick t s).carrierBytes⟩)
    (passes : (tick t s).gatedTakes q 0x21 (payWord (tick t s).carrierBytes tag.toNat) = true)
    (hx : x = receivedGated q 0x21 (payWord (tick t s).carrierBytes tag.toNat) (tick t s))
    (ship : (x.side i.toNat).ship = some h) (current : x.current i.toNat g.toNat = true)
    (routed : (x.seat i.toNat).state = .routed) (sent : h.sent = true) (sameTag : h.tag = tag.toNat)
    (inTurn : block.toNat = h.nextBlock) (first : h.nextBlock = 1) (_base : x.blkBase i.toNat = 0)
    (linked : (x.chain i.toNat)[0]? = some b) (matched : tagMatches x i.toNat 1 0 (tagBlk c (x.blk b)) = true) :
    ∃ y, y = modSide i.toNat (fun d => { d with
        ship := some { h with nextBlock := 2, lastAt := x.now }, toIndex := d.toIndex ++ [1] })
      (modBlk b (fun _ => { tagBlk c (x.blk b) with
        state := .complete, owner := i.toNat, ownerGen := g.toNat, owned := true, stamp := x.stampNow }) x) ∧
      exec (.prefillKv t i g block tag c) s = .next (finish (if 1 = y.shipEnd i.toNat then shipComplete i.toNat y else y)) := by
  refine ⟨blockReturned i.toNat g.toNat b c h x, by rw [blockReturned, first]; rfl, ?_⟩
  change execPrefillKv t i g block tag c s = _
  unfold execPrefillKv
  dsimp only
  rw [if_neg (by simp [on]), ← payload, takingGated_of_gatedTakes passes, ← hx, inTurn,
    prefillKvIn_of_first ship current routed sent sameTag first linked matched, first]

/-- Settles O35: each clause by what its command does once its port and gate take it, or once it is due. -/
theorem promptPool : Obligations.PromptPool :=
  ⟨⟨prefillShip_leaves, prefillFail_acts, shipwaitExpiry_fails⟩, prefillKv_returns⟩

/-! ## Data registers behind a selector -/

/-- A word without ones in its reserved bits reaches the selected tenant (R40, R66); only word 0 has such bits. -/
theorem tenantWrite_of_reserved_zero {i : Nat} {v : Word} {s : State} (h : i ≠ 0 ∨ bitsOf v 47 40 = 0) :
    tenantWrite i v s = .next (modTenant (s.fld F.ADM_TSEL_TENANT) (tenantWord i v) s) :=
  if_neg fun bad => h.elim (fun other => other bad.1) bad.2

/-- A change of a tenant record reaches that tenant and no other. -/
theorem modTenant_tenant_self (n : Nat) (f : Tenant → Tenant) (s : State) : (modTenant n f s).tenant n = f (s.tenant n) :=
  tget_tput_self ..

theorem modTenant_tenant_other {n k : Nat} (f : Tenant → Tenant) (s : State) (h : k ≠ n) : (modTenant n f s).tenant k = s.tenant k :=
  tget_tput_other _ _ _ _ h

theorem tenantDataWrite_selected (i : BitVec 2) (v : Word) (s : State) (h : i ≠ 0 ∨ bitsOf v 47 40 = 0) :
    ∃ u, exec (.tenantDataWrite i v) s = .next u ∧ u = { s with tenants := u.tenants } ∧
      u.tenant (s.fld F.ADM_TSEL_TENANT) = tenantWord i.toNat v (s.tenant (s.fld F.ADM_TSEL_TENANT)) ∧
      ∀ k, k ≠ s.fld F.ADM_TSEL_TENANT → u.tenant k = s.tenant k :=
  ⟨_, tenantWrite_of_reserved_zero (h.imp_left fun other zero => other (BitVec.eq_of_toNat_eq zero)), rfl,
    modTenant_tenant_self .., fun _ => modTenant_tenant_other _ s⟩

/-- An entry of the slot table within its ranges goes to the shadow bank: bank A while bank B is active, and bank B otherwise
(R77, R81). -/
theorem slotDataWrite_shadow (v : Word) (s : State) (reserved : bitsOf v 13 0 = 0) (chunk : (slotOf v).chunkCap ≤ 1024)
    (seat : (slotOf v).seatCap ≤ 16384) :
    exec (.slotDataWrite v) s = .next { s with deals :=
      if s.deals.active then { s.deals with
        bankA := tput (slotDefault (s.fld F.DEAL_SLOTSEL_SLOT)) s.deals.bankA (s.fld F.DEAL_SLOTSEL_SLOT) (slotOf v) }
      else { s.deals with
        bankB := tput (slotDefault (s.fld F.DEAL_SLOTSEL_SLOT)) s.deals.bankB (s.fld F.DEAL_SLOTSEL_SLOT) (slotOf v) } } := by
  change slotWrite v s = _
  unfold slotWrite
  dsimp only
  rw [if_neg (by simpa using reserved), if_neg (by omega)]
  rfl

/-- A word of the split-seat table reaches the selected word of the selected entry (R106). -/
theorem splitDataWrite_selected (v : Word) (s : State) (word : s.fld F.HER_SPLITSEL_WORD ≤ 35)
    (reserved : splitReserved (s.fld F.HER_SPLITSEL_WORD) v = 0) :
    exec (.splitDataWrite v) s = .next { s with deals := { s.deals with
      splits := tput SplitEnt.empty s.deals.splits (s.fld F.HER_SPLITSEL_ENTRY)
        (splitWord (s.fld F.HER_SPLITSEL_WORD) v (tget SplitEnt.empty s.deals.splits (s.fld F.HER_SPLITSEL_ENTRY))) } } := by
  change splitWrite v s = _
  unfold splitWrite
  dsimp only
  rw [if_neg (by omega), if_neg (by simpa using reserved)]
  rfl

/-- A digest word without ones in its reserved bits reaches the selected entry (R294). -/
theorem digDataWrite_selected (v : Word) (s : State) (reserved : v.toNat % 2 ^ 31 = 0) :
    exec (.digDataWrite v) s = .next { s with obs := { s.obs with dig := tput 0 s.obs.dig (s.fld F.DIG_SEL_ENTRY) v } } :=
  if_neg fun bad => bad reserved

/-- Settles O24: each data register by the entry that its selector names. -/
theorem dataRegisterWrites : Obligations.DataRegisterWrites :=
  ⟨tenantDataWrite_selected, slotDataWrite_shadow, splitDataWrite_selected, digDataWrite_selected⟩

end Sys2Proof.Machine

namespace Sys2Proof.Machine

/-! # The Dealer: the words of a deal, composition and hand-off -/

/-! ## The fields of a packed word -/

/-- The number that `pack` cuts to a word, from `acc` on. -/
def packNat (acc : Nat) (fs : List (Nat × Nat)) : Nat := fs.foldl (fun w f => w * 2 ^ f.1 + f.2 % 2 ^ f.1) acc

/-- How many bits the fields take. -/
def widthOf (fs : List (Nat × Nat)) : Nat := (fs.map Prod.fst).sum

theorem pack_toNat (fs : List (Nat × Nat)) : (pack fs).toNat = packNat 0 fs % 2 ^ 64 := BitVec.toNat_ofNat ..

theorem packNat_cons (acc w v : Nat) (fs : List (Nat × Nat)) :
    packNat acc ((w, v) :: fs) = packNat (acc * 2 ^ w + v % 2 ^ w) fs := rfl

theorem widthOf_cons (w v : Nat) (fs : List (Nat × Nat)) : widthOf ((w, v) :: fs) = w + widthOf fs := List.sum_cons

/-- What was packed before some fields stands above them. -/
theorem packNat_div_widthOf (acc : Nat) (fs : List (Nat × Nat)) : packNat acc fs / 2 ^ widthOf fs = acc := by
  induction fs generalizing acc with
  | nil => exact Nat.div_one acc
  | cons f fs ih =>
    obtain ⟨w, v⟩ := f
    rw [packNat_cons, widthOf_cons, Nat.add_comm w, Nat.pow_add, ← Nat.div_div_eq_div_mul, ih, Nat.mul_comm acc,
      Nat.mul_add_div (Nat.two_pow_pos w), Nat.div_eq_of_lt (Nat.mod_lt v (Nat.two_pow_pos w)), Nat.add_zero]

/-- A field stands above the fields after it, cut to its width (R5). -/
theorem packNat_field {fs : List (Nat × Nat)} {i w v : Nat} (acc : Nat) (field : fs[i]? = some (w, v)) :
    packNat acc fs / 2 ^ widthOf (fs.drop (i + 1)) % 2 ^ w = v % 2 ^ w := by
  induction fs generalizing acc i with
  | nil => cases field
  | cons f fs ih =>
    cases i with
    | zero =>
      cases field
      rw [packNat_cons, List.drop_succ_cons, List.drop_zero, packNat_div_widthOf, Nat.mul_add_mod_self_right, Nat.mod_mod]
    | succ i => exact ih _ field

/-- The bits of field `i` of a packed word hold its value, where the value is within the field's width. -/
theorem bitsOf_pack {fs : List (Nat × Nat)} {w v hi lo : Nat} (i : Nat) (field : fs[i]? = some (w, v))
    (low : widthOf (fs.drop (i + 1)) = lo) (top : lo ≤ hi ∧ hi < 64 ∧ hi - lo + 1 = w) (small : v < 2 ^ w) :
    bitsOf (pack fs) hi lo = v := by
  obtain ⟨ordered, inWord, width⟩ := top
  have split : (2 : Nat) ^ 64 = 2 ^ lo * 2 ^ (64 - lo) := by rw [← Nat.pow_add]; congr 1; omega
  have inside : 2 ^ w ∣ 2 ^ (64 - lo) := Nat.pow_dvd_pow 2 (by omega)
  rw [bitsOf, pack_toNat, width, split, Nat.mod_mul_right_div_self, Nat.mod_mod_of_dvd _ inside, ← low, packNat_field 0 field,
    Nat.mod_eq_of_lt small]

/-! ## The words of DEAL_SUIT and DEAL_END -/

theorem suitMsg_words (p : SuitPart) : (suitMsg p).words =
    [pack [(8, 0x42), (12, 2), (14, p.id), (8, p.slot), (16, p.members), (6, 0)], pack [(32, p.head), (24, p.shared), (8, 0)]] :=
  rfl

theorem endMsg_words (d : Deal) : (endMsg d).words = [pack [(8, 0x44), (12, 2), (44, 0)], pack [(48, d.epoch), (16, 0)]] := rfl

/-- Settles O44: each field of R87 is a field of a packed word. R87 gives SUITID 14 bits, two more than 4,095 needs. -/
theorem dealSuitFormat : Obligations.DealSuitFormat := by
  intro p id slot members head shared
  exact ⟨_, _, suitMsg_words p, bitsOf_pack 0 rfl rfl (by decide) (by decide), bitsOf_pack 1 rfl rfl (by decide) (by decide),
    bitsOf_pack 2 rfl rfl (by decide) (by omega), bitsOf_pack 3 rfl rfl (by decide) slot,
    bitsOf_pack 4 rfl rfl (by decide) members, bitsOf_pack 5 rfl rfl (by decide) (by decide),
    bitsOf_pack 0 rfl rfl (by decide) head, bitsOf_pack 1 rfl rfl (by decide) shared,
    bitsOf_pack 2 rfl rfl (by decide) (by decide)⟩

/-- Settles O45: each field of R89 is a field of a packed word. -/
theorem dealEndFormat : Obligations.DealEndFormat := by
  intro d epoch
  exact ⟨_, _, endMsg_words d, bitsOf_pack 0 rfl rfl (by decide) (by decide), bitsOf_pack 1 rfl rfl (by decide) (by decide),
    bitsOf_pack 2 rfl rfl (by decide) (by decide), bitsOf_pack 0 rfl rfl (by decide) epoch,
    bitsOf_pack 1 rfl rfl (by decide) (by decide)⟩

/-! ## Composition and hand-off -/

@[simp] theorem tick_tableOk (t : BitVec 64) (s : State) : (tick t s).tableOk = s.tableOk := by
  simp only [State.tableOk, State.denseSlots, State.streamSlots, State.slots, State.slotIn, tick_deals]

/-- A finished composition leaves for port F (R82, R85). -/
theorem dealHandOff_of_mainOn (t : BitVec 64) (s : State) (on : s.mainOn = true) :
    exec (.dealHandOff t) s = .next (finish (handOff (tick t s))) := by
  change execDealHandOff t s = _
  unfold execDealHandOff
  rw [if_neg (by simp [on])]

/-- Without a composition there is nothing to hand off. -/
theorem handOff_of_composing_none (s : State) (idle : s.deals.composing = none) : handOff s = s := by
  unfold handOff
  rw [idle]

/-- A composition begins at its time (R82, R84). -/
theorem composeBegin_of_due (t : BitVec 64) (s : State) (on : s.mainOn = true) (may : (tick t s).mayCompose = true)
    (due : (tick t s).composeTime = true) : exec (.composeBegin t) s = .next (finish (composeNext (tick t s))) := by
  change execComposeBegin t s = _
  unfold execComposeBegin
  rw [if_neg (by simp [on])]
  exact if_pos (by rw [may, due]; rfl)

/-- On an idle node where R328's conditions hold, the choice of a model decides between a composition and requests for hot sets
(R68, R213). -/
theorem idleComposeStart_of_idle (t : BitVec 64) (s : State) (on : s.mainOn = true) (may : (tick t s).mayCompose = true)
    (idle : (tick t s).idle = true) (enabled : s.on F.DEAL_CTRL_ENABLE = true) (table : s.tableOk = true) :
    exec (.idleComposeStart t) s = if (tick t s).chooseModel.1.isSome then .next (finish (compose true (tick t s)))
      else .next (askHots (tick t s).chooseModel.2 (tick t s)) := by
  change execIdleComposeStart t s = _
  unfold execIdleComposeStart
  rw [if_neg (by simp [on])]
  exact if_pos (by rw [may, idle, tick_on, enabled, tick_tableOk, table]; rfl)

/-- Settles O46: a hand-off, a composition that is due, and on an idle node the two answers to the choice of a model. -/
theorem compositionAndHandOff : Obligations.CompositionAndHandOff := by
  refine ⟨dealHandOff_of_mainOn, handOff_of_composing_none, composeBegin_of_due, ?_⟩
  intro t s on may idle enabled table
  rw [idleComposeStart_of_idle t s on may idle enabled table]
  constructor
  · intro chosen
    rw [if_pos chosen]
  · intro unchosen
    rw [if_neg (by simp [unchosen])]

end Sys2Proof.Machine

namespace Sys2Proof.Machine

/-! # The Herald: stops and GO, split seats, joint deals -/

/-! ## Stops and GO -/

@[simp] theorem setFld_cmdOn (f : Fld) (v : Nat) (s : State) : (setFld f v s).cmdOn = s.cmdOn := rfl

/-- STOPEPOCH is stored before the boundary stop is requested (R115, R325). -/
theorem stopBoundary_of_cmdOn (t : BitVec 64) (e : BitVec 48) {s : State} (on : s.cmdOn = true) :
    exec (.stopBoundary t e) s =
      .next (finish (boundaryStop e.toNat (setFld F.HER_STOPCTL_STOPEPOCH e.toNat (tick t s)))) :=
  if_pos (by rwa [setFld_cmdOn, tick_cmdOn])

theorem stopImmediate_of_cmdOn (t : BitVec 64) {s : State} (on : s.cmdOn = true) :
    exec (.stopImmediate t) s = .next (finish (immediateStop (tick t s))) := if_neg (by simp [on])

theorem stopGo_of_cmdOn (t : BitVec 64) {s : State} (on : s.cmdOn = true) :
    exec (.stopGo t) s = .next (finish (goNode (tick t s))) := if_neg (by simp [on])

/-- A boundary stop of a node that is stopped or stopping is only counted (R115). -/
theorem boundaryStop_of_halting (e : Nat) {s : State} (halting : s.deals.stopped = true ∨ s.deals.stopping = true) :
    boundaryStop e s = bump 0x5C s := if_pos (Bool.or_eq_true_iff.mpr halting)

/-- An immediate stop of a node that is stopped or stopping is only counted (R115). -/
theorem immediateStop_of_halting {s : State} (halting : s.deals.stopped = true ∨ s.deals.stopping = true) :
    immediateStop s = bump 0x5C s := if_pos (Bool.or_eq_true_iff.mpr halting)

/-- GO before STOPPED reads 1 is only counted (R118). -/
theorem goNode_of_not_stopped {s : State} (h : s.deals.stopped = false) : goNode s = bump 0x5C s := if_pos (by simp [h])

/-- While a deal runs, a boundary stop waits for the deal's boundary at the earliest, and it takes the place of one that waits
already (R115; log entry 35, DEDUCED). -/
theorem boundaryStop_of_running (e : Nat) {s : State} {r : Running} (notStopped : s.deals.stopped = false)
    (notStopping : s.deals.stopping = false) (running : s.deals.running = some r) :
    boundaryStop e s = modDeals (fun d => { d with pendStop := some (max e r.deal.epoch) }) s := by
  unfold boundaryStop
  rw [if_neg (by simp [notStopped, notStopping])]
  simp only [running]

/-- Settles O49: the three commands by their requests, and each request by where the node stands. The last clause asks nothing of
a stop that waits already, which the new one replaces (log entry 35, DEDUCED; R115 does not say). -/
theorem stops : Obligations.Stops :=
  ⟨fun t e _ on => ⟨stopBoundary_of_cmdOn t e on, stopImmediate_of_cmdOn t on, stopGo_of_cmdOn t on⟩,
    fun e _ halting => ⟨boundaryStop_of_halting e halting, immediateStop_of_halting halting⟩,
    fun _ => goNode_of_not_stopped,
    fun e s _ notStopped notStopping running => by
      rw [boundaryStop_of_running e notStopped notStopping running, modDeals_deals]⟩

/-! ## Split seats (R114, R116, R198, R256) -/

/-- A well-formed SPLIT_OPEN that port N takes opens a follower's seat (R198). -/
theorem splitOpen_of_accepts (t : BitVec 64) (peer : BitVec 6) (m : SplitOpenMsg) (s : State) (n : Nat) (on : s.mainOn = true)
    (beats : n = beatsOf (8 * m.handles.length)) (accepted : s.accepts .N peer.toNat 0 n = true) (wf : m.wf = true) :
    exec (.splitOpen t peer m) s = .next (finish (splitOpenTaken peer.toNat m (received .N peer.toNat 0 0x70
      (payWord (8 * m.handles.length) m.tag.toNat) n (heard peer.toNat (tick t s))))) := by
  change execSplitOpen t peer m s = _
  unfold execSplitOpen
  dsimp only
  rw [if_neg (by simp [on]), ← beats, fromPeer_accepts accepted]
  exact congrArg (fun u => Host.Outcome.next (finish u)) (if_pos wf)

/-- A SPLIT_OPENED that port N takes reaches the lead's seat (R45, R198). -/
theorem splitOpened_of_takes (t : BitVec 64) (peer : BitVec 6) (q : Word) (i g : BitVec 16) (k : BitVec 5) (no : Bool)
    (h : BitVec 18) (s : State) (takes : s.takes .N peer.toNat 1 = true) :
    exec (.splitOpened t peer q i g k no h) s = .next (finish (splitOpenedTaken peer.toNat q i.toNat g.toNat k.toNat no h.toNat
      (received .N peer.toNat 1 0x71 q 0 (heard peer.toNat (tick t s))))) := by
  obtain ⟨on, accepted⟩ := takes_iff.mp takes
  change execSplitOpened t peer q i g k no h s = _
  unfold execSplitOpened
  rw [if_neg (by simp [on]), fromPeer_accepts accepted]

section
variable (t : BitVec 64) (peer : BitVec 6) (i g : BitVec 16) {s x : State} (takes : s.takes .N peer.toNat 1 = true)
include takes

/-- A SPLIT_CLOSE that port N takes closes the follower's seat that it names, or is counted stale (R19, R20). -/
theorem splitClose_of_takes (hx : x = received .N peer.toNat 1 0x72 0 0 (heard peer.toNat (tick t s))) (why : BitVec 8) :
    exec (.splitClose t peer i g why) s =
      .next (finish (if x.splitRef i.toNat g.toNat 2 then closeSeat i.toNat why.toNat x else bump 0x07 x)) := by
  obtain ⟨on, accepted⟩ := takes_iff.mp takes
  change execSplitClose t peer i g why s = _
  unfold execSplitClose
  rw [if_neg (by simp [on]), fromPeer_accepts accepted, hx]

/-- A SPLIT_PAUSE that port N takes leaves the follower's seat that it names unbound, with PAUSEREQ set, or is counted stale
(R20, R114). -/
theorem splitPause_of_takes (hx : x = received .N peer.toNat 1 0x73 0 0 (heard peer.toNat (tick t s))) :
    exec (.splitPause t peer i g) s = .next (finish (if x.splitRef i.toNat g.toNat 2
      then modSeat i.toNat (fun a => { a with pauseReq := true }) (unbind i.toNat x) else bump 0x07 x)) := by
  obtain ⟨on, accepted⟩ := takes_iff.mp takes
  change execSplitPause t peer i g s = _
  unfold execSplitPause
  rw [if_neg (by simp [on]), fromPeer_accepts accepted, hx]

/-- A SPLIT_RESUME that port N takes resumes the follower's seat that it names, or is counted stale (R20, R114). -/
theorem splitResume_of_takes (hx : x = received .N peer.toNat 1 0x74 0 0 (heard peer.toNat (tick t s))) :
    exec (.splitResume t peer i g) s =
      .next (finish (if x.splitRef i.toNat g.toNat 2 then resumeSeat i.toNat x else bump 0x07 x)) := by
  obtain ⟨on, accepted⟩ := takes_iff.mp takes
  change execSplitResume t peer i g s = _
  unfold execSplitResume
  rw [if_neg (by simp [on]), fromPeer_accepts accepted, hx]

end

/-- Settles O50: each message by what it does once port N takes it; those that name a seat by whether the reference holds. -/
theorem splitSeats : Obligations.SplitSeats := by
  refine ⟨splitOpen_of_accepts, splitOpened_of_takes, fun t peer i g s x op takes hx => ⟨fun current => ?_, fun stale => ?_⟩⟩
  · refine ⟨?_, ?_, ?_⟩ <;> rintro rfl
    · intro why
      rw [splitClose_of_takes t peer i g takes hx, if_pos current]
    · rw [splitPause_of_takes t peer i g takes hx, if_pos current]
    · rw [splitResume_of_takes t peer i g takes hx, if_pos current]
  · have notCurrent : ¬x.splitRef i.toNat g.toNat 2 = true := Bool.eq_false_iff.mp stale
    refine ⟨?_, ?_, ?_⟩ <;> rintro rfl
    · intro why
      rw [splitClose_of_takes t peer i g takes hx, if_neg notCurrent]
    · rw [splitPause_of_takes t peer i g takes hx, if_neg notCurrent]
    · rw [splitResume_of_takes t peer i g takes hx, if_neg notCurrent]

/-! ## Messages of port N under a peer lease (R112, R244) -/

@[simp] theorem heard_ports (peer : Nat) (s : State) : (heard peer s).ports = s.ports := rfl

@[simp] theorem tick_lentTo (t : BitVec 64) (s : State) (peer el n : Nat) : (tick t s).lentTo peer el n = s.lentTo peer el n := by
  simp only [State.lentTo, tick_deals]

/-- A JOINT_OFFER or JOINT_GO draws on a peer lease that covers its lead epoch (R112, R244). -/
theorem fromPeerJoint_of_lent {peer op el : Nat} {word1 : Word} {f : State → State} {s : State} (t : BitVec 64)
    (lent : s.lentTo peer el 0 = true) (live : s.live .N peer = true) (opened : s.portOpen .N = true) :
    fromPeerJoint peer op el word1 f (tick t s) = finish (f (drawLent peer el 0 (portCnt .N 0 1 (heard peer (tick t s))))) :=
  if_pos (by simp [lent, live, opened])

/-- Where no lease covers its lead epoch, it draws on the credit of its class (R243; the model's choice, log entry 56). -/
theorem fromPeerJoint_of_unlent {peer op el : Nat} {word1 : Word} {f : State → State} {s : State} (t : BitVec 64)
    (unlent : s.lentTo peer el 0 = false) (accepted : s.accepts .N peer 1 0 = true) :
    fromPeerJoint peer op el word1 f (tick t s) = finish (f (received .N peer 1 op word1 0 (heard peer (tick t s)))) := by
  unfold fromPeerJoint
  rw [if_neg (by simp [unlent]), fromPeer_accepts accepted]

/-- A payload without beats passes its gate. -/
theorem gateTakes_of_no_beats {x : Gated} (h : x.beats = 0) (s : State) : s.gateTakes x = true := by
  unfold State.gateTakes
  rw [h]
  rfl

/-- A message that moves under a peer lease, within a session on an open port: with a live lease it acts as its gate lets it
through, and outside every lease it is discarded (R112, R220). -/
theorem fromPeerLeased_of_live {t : BitVec 64} {c : Instr} {gate r tag peer n el op : Nat} {word1 : Word} {f : State → State}
    {s x : State} {ok : Bool} (live : s.live .N peer = true) (opened : s.portOpen .N = true)
    (lease : underLease peer el n (portCnt .N 0 1 (heard peer (tick t s))) = (ok, x))
    (passes : ok = true → x.gateTakes ⟨c, gate, r, tag, .N, peer, 3, n⟩ = true) :
    fromPeerLeased ⟨c, gate, r, tag, .N, peer, 3, n⟩ op el word1 f (tick t s) = finish (if ok then f x else x) := by
  have ports : (portCnt .N 0 1 (heard peer (tick t s))).ports = s.ports := by simp
  unfold fromPeerLeased
  dsimp only
  rw [live_of_ports ports, portOpen_of_ports ports, if_neg (by simp [live]), if_neg (by simp [opened]), lease]
  cases ok with
  | false => rfl
  | true =>
    dsimp only
    rw [if_pos rfl, if_pos rfl, gatedIn, if_pos (passes rfl), freeGated, if_pos rfl]

/-! ## Joint deals (R106 to R109) -/

theorem jointOffer_of_mainOn (t : BitVec 64) (peer : BitVec 6) (el : BitVec 48) (i g : BitVec 16) (n : BitVec 4) {s : State}
    (on : s.mainOn = true) :
    exec (.jointOffer t peer el i g n) s = .next (fromPeerJoint peer.toNat 0x75 el.toNat (pack [(48, el.toNat), (16, 0)])
      (offerTaken peer.toNat el.toNat i.toNat g.toNat n.toNat) (tick t s)) := if_neg (by simp [on])

theorem jointGo_of_mainOn (t : BitVec 64) (peer : BitVec 6) (el : BitVec 48) (i g : BitVec 16) (n : BitVec 4) (p : BitVec 24)
    (l : List (BitVec 20)) {s : State} (on : s.mainOn = true) :
    exec (.jointGo t peer el i g n p l) s = .next (fromPeerJoint peer.toNat 0x77 el.toNat (pack [(48, el.toNat), (16, 0)])
      (goTaken peer.toNat el.toNat i.toNat g.toNat n.toNat l) (tick t s)) := if_neg (by simp [on])

section
variable (t : BitVec 64) (peer : BitVec 6) (el : BitVec 48) (i g : BitVec 16) {s x : State} {ok : Bool} {n : Nat}
  (on : s.mainOn = true) (live : s.live .N peer.toNat = true) (opened : s.portOpen .N = true)
  (lease : underLease peer.toNat el.toNat n (portCnt .N 0 1 (heard peer.toNat (tick t s))) = (ok, x))
include on live opened lease

/-- JOINT_BIND reaches the lead (R107). -/
theorem jointBind_underLease (noBeats : n = 0) (no : Bool) (ef : BitVec 48) :
    exec (.jointBind t peer el i g no ef) s = .next (finish (if ok then bindTaken el.toNat i.toNat g.toNat no x else x)) := by
  subst noBeats
  change execJointBind t peer el i g no ef s = _
  unfold execJointBind
  dsimp only
  rw [if_neg (by simp [on]), fromPeerLeased_of_live live opened lease fun _ => gateTakes_of_no_beats rfl x]

/-- QUERY reaches the follower (R108). -/
theorem query_underLease (layer : BitVec 12) (k : BitVec 4) (p : Payload) (beats : n = beatsOf p.bytes.toNat)
    (passes : ok = true → x.gateTakes ⟨.query t peer el layer (k, p) i g, 2, 1, p.tag.toNat, .N, peer.toNat, 3, n⟩ = true) :
    exec (.query t peer el layer (k, p) i g) s = .next (finish (if ok
      then queryTaken el.toNat layer.toNat k.toNat i.toNat g.toNat p x else x)) := by
  subst beats
  change execQuery t peer el layer (k, p) i g s = _
  unfold execQuery
  dsimp only
  rw [if_neg (by simp [on]), fromPeerLeased_of_live live opened lease passes]

/-- PARTIAL reaches the lead (R108). -/
theorem partialMsg_underLease (layer : BitVec 12) (k : BitVec 5) (p : Payload) (beats : n = beatsOf p.bytes.toNat)
    (passes : ok = true → x.gateTakes ⟨.partialMsg t peer el layer i g (k, p), 2, 0, p.tag.toNat, .N, peer.toNat, 3, n⟩ = true) :
    exec (.partialMsg t peer el layer i g (k, p)) s = .next (finish (if ok
      then partialTaken el.toNat layer.toNat i.toNat g.toNat k.toNat p x else x)) := by
  subst beats
  change execPartialMsg t peer el layer i g (k, p) s = _
  unfold execPartialMsg
  dsimp only
  rw [if_neg (by simp [on]), fromPeerLeased_of_live live opened lease passes]

end

/-- Settles O51: JOINT_OFFER and JOINT_GO by the credit that pays for them (log entry 56 where no lease does), the other three by the
lease that `underLease` finds. -/
theorem jointDeals : Obligations.JointDeals := by
  refine ⟨fun t peer el i g n s y on paid => ?_,
    fun t peer el i g s x ok n on live opened lease => ⟨jointBind_underLease t peer el i g on live opened lease,
      query_underLease t peer el i g on live opened lease, partialMsg_underLease t peer el i g on live opened lease⟩⟩
  have acts (op : Nat) (f : State → State) :
      fromPeerJoint peer.toNat op el.toNat (pack [(48, el.toNat), (16, 0)]) f (tick t s) = finish (f (y op)) := by
    obtain ⟨lent, live, opened, hy⟩ | ⟨unlent, accepted, hy⟩ := paid
    · rw [fromPeerJoint_of_lent t lent live opened, hy]
    · rw [fromPeerJoint_of_unlent t unlent accepted, hy]
  constructor
  · rw [jointOffer_of_mainOn t peer el i g n on, acts]
  · intro p l
    rw [jointGo_of_mainOn t peer el i g n p l on, acts]

end Sys2Proof.Machine

namespace Sys2Proof.Machine

/-! # The Sieve: canonical order, the held list of a row, candidate lists and drafts -/

/-! ## Logits by value (R124)

The data of binary32 are ordered by their kind (NaN, -∞, finite, +∞), and finite ones by their whole multiple of the least exponent. -/

/-- The whole number that stands for a dyadic over a finer exponent. -/
theorem Dy.scaled_eq_mul {a : Dy} {c e : Int} (ce : c ≤ e) (ea : e ≤ a.e) :
    a.scaled c = a.scaled e * (2 ^ (e - c).toNat : Nat) := by
  have bits : (a.e - c).toNat = (a.e - e).toNat + (e - c).toNat := by omega
  rw [Dy.scaled, Dy.scaled, bits, Nat.pow_add, Int.natCast_mul, Int.mul_assoc]

/-- Dyadics compare over any common exponent. -/
theorem Dy.lt_iff_scaled {a b : Dy} {c : Int} (ca : c ≤ a.e) (cb : c ≤ b.e) : a.lt b = true ↔ a.scaled c < b.scaled c := by
  have pos : (0 : Int) < (2 ^ (min a.e b.e - c).toNat : Nat) := Int.natCast_pos.mpr (Nat.two_pow_pos _)
  rw [Dy.lt, decide_eq_true_iff, Dy.scaled_eq_mul (c := c) (e := min a.e b.e) (by omega) (by omega),
    Dy.scaled_eq_mul (a := b) (c := c) (e := min a.e b.e) (by omega) (by omega), Int.mul_lt_mul_right pos]

/-- Kinds of binary32 data in rising order. -/
def F32.kind : F32 → Nat
  | .nan => 0
  | .inf true => 1
  | .fin _ => 2
  | .inf false => 3

/-- A finite datum as a multiple of 2^(-149), the least binary32 value above 0; 0 for the other kinds. -/
def F32.units : F32 → Int
  | .fin v => v.scaled (-149)
  | _ => 0

theorem f32_exponent {l : Nat} {v : Dy} (h : f32 l = .fin v) : -149 ≤ v.e := by
  unfold f32 at h
  dsimp only at h
  split at h
  · split at h <;> cases h
  · cases h
    dsimp only
    omega

/-- By the kinds of the two data: two finite ones compare by value, any others by kind alone. -/
theorem logitLt_iff (a b : Nat) : logitLt a b = true ↔
    (f32 a).kind < (f32 b).kind ∨ (f32 a).kind = (f32 b).kind ∧ (f32 a).units < (f32 b).units := by
  have finite (v w : Dy) (hv : f32 a = .fin v) (hw : f32 b = .fin w) : v.lt w = true ↔ v.scaled (-149) < w.scaled (-149) :=
    Dy.lt_iff_scaled (f32_exponent hv) (f32_exponent hw)
  unfold logitLt
  generalize f32 a = x at *
  generalize f32 b = y at *
  obtain _ | (_ | _) | v := x <;> obtain _ | (_ | _) | w := y <;> simp [F32.kind, F32.units, finite]

theorem logitEq_iff (a b : Nat) : logitEq a b = true ↔ (f32 a).kind = (f32 b).kind ∧ (f32 a).units = (f32 b).units := by
  have less := logitLt_iff a b
  have greater := logitLt_iff b a
  rw [logitEq, Bool.and_eq_true, Bool.not_eq_true', Bool.not_eq_true', ← Bool.not_eq_true, ← Bool.not_eq_true, less, greater]
  omega

/-! ## Canonical order (R124) -/

/-- Canonical order is lexicographic: by falling kind, then falling value, then rising token id. -/
theorem precedes_iff (l i k j : Nat) : precedes l i k j = true ↔ (f32 k).kind < (f32 l).kind ∨ (f32 k).kind = (f32 l).kind ∧
    ((f32 k).units < (f32 l).units ∨ (f32 k).units = (f32 l).units ∧ i < j) := by
  rw [precedes, Bool.or_eq_true, Bool.and_eq_true, decide_eq_true_iff, logitLt_iff, logitEq_iff]
  omega

theorem precedes_irrefl (l k : Nat) : precedes l k l k = false := by
  rw [← Bool.not_eq_true, precedes_iff]
  omega

theorem precedes_trans {a i b j c k : Nat} (h : precedes a i b j = true) (h' : precedes b j c k = true) : precedes a i c k = true := by
  rw [precedes_iff] at h h' ⊢
  omega

/-- Of two entries with different token ids exactly one precedes the other. -/
theorem precedes_iff_not_precedes {a i b j : Nat} (ids : i ≠ j) : precedes a i b j = true ↔ precedes b j a i = false := by
  rw [← Bool.not_eq_true, precedes_iff, precedes_iff]
  omega

/-- Where the values agree the token ids decide. -/
theorem precedes_of_f32_eq {l k : Nat} (h : f32 l = f32 k) (i j : Nat) : precedes l i k j = decide (i < j) := by
  rw [Bool.eq_iff_iff, precedes_iff, decide_eq_true_iff, h]
  omega

theorem f32_negZero : f32 0x80000000 = f32 0 := by decide

theorem f32_posInf : f32 0x7F800000 = .inf false := by decide

/-- +∞ stands above every other datum but NaN and itself. -/
theorem precedes_posInf {b : Nat} (notNan : isNan b = false) (notInf : isPinf b = false) (i j : Nat) :
    precedes 0x7F800000 i b j = true := by
  have below : (f32 b).kind < (F32.inf false).kind := by
    unfold isNan at notNan
    unfold isPinf at notInf
    generalize f32 b = x at *
    obtain _ | (_ | _) | v := x
    case nan => cases notNan
    case inf.false => cases notInf
    case inf.true => decide
    case fin => exact (by decide : 2 < 3)
  rw [precedes_iff, f32_posInf]
  exact .inl below

/-- Settles O42: canonical order is lexicographic, and its clauses are those of a linear order. -/
theorem canonicalOrder : Obligations.CanonicalOrder :=
  ⟨precedes_irrefl, fun _ _ _ _ _ _ _ _ _ => precedes_trans, fun _ _ _ _ _ _ => precedes_iff_not_precedes,
    fun i j => ⟨precedes_of_f32_eq f32_negZero i j, precedes_of_f32_eq f32_negZero.symm i j⟩,
    fun _ i j notNan notInf => precedes_posInf notNan notInf i j⟩

/-! ## A held list in canonical order (R128, R130)

Such a list is a finite map from token ids: its entries are found by token id, and two lists that agree at every token id are equal. -/

/-- One held entry stands before another: it precedes it, and their token ids differ. -/
def Held.Ahead (x y : Held) : Prop := precedes x.logit x.tok y.logit y.tok = true ∧ x.tok ≠ y.tok

theorem Held.Ahead.trans {x y z : Held} (h : x.Ahead y) (h' : y.Ahead z) (ids : x.tok ≠ z.tok) : x.Ahead z :=
  ⟨precedes_trans h.1 h'.1, ids⟩

theorem Held.Ahead.asymm {x y : Held} (h : x.Ahead y) : ¬y.Ahead x := fun h' =>
  Bool.false_ne_true (((precedes_iff_not_precedes h.2).mp h.1).symm.trans h'.1)

/-- Where an entry comes from: its shard, and the round in which it came. -/
def Held.origin (h : Held) : Nat × Nat := (h.shard, h.round)

/-- A held list in canonical order without a repeated token id. -/
def CanonicalHeld (l : List Held) : Prop := l.Pairwise Held.Ahead

/-- The held entry with a token id. -/
def heldAt (l : List Held) (k : Nat) : Option Held := l.find? fun x => x.tok == k

theorem CanonicalHeld.eq_of_tok_eq {l : List Held} (h : CanonicalHeld l) {x y : Held} (hx : x ∈ l) (hy : y ∈ l)
    (ids : x.tok = y.tok) : x = y := by
  induction l with
  | nil => cases hx
  | cons z l ih =>
    obtain ⟨first, rest⟩ := List.pairwise_cons.mp h
    obtain atX | inX := List.mem_cons.mp hx <;> obtain atY | inY := List.mem_cons.mp hy
    · exact atX.trans atY.symm
    · exact absurd (atX ▸ ids) (first y inY).2
    · exact absurd (atY ▸ ids.symm) (first x inX).2
    · exact ih rest inX inY

theorem CanonicalHeld.heldAt_eq_some_iff {l : List Held} (h : CanonicalHeld l) {k : Nat} {x : Held} :
    heldAt l k = some x ↔ x ∈ l ∧ x.tok = k := by
  constructor
  · intro found
    exact ⟨List.mem_of_find?_eq_some found, by simpa using List.find?_some found⟩
  · rintro ⟨hx, rfl⟩
    cases found : heldAt l x.tok with
    | none => simpa using List.find?_eq_none.mp found x hx
    | some y =>
      have same : y.tok = x.tok := by simpa using List.find?_some found
      rw [h.eq_of_tok_eq (List.mem_of_find?_eq_some found) hx same]

theorem CanonicalHeld.ext {l l' : List Held} (h : CanonicalHeld l) (h' : CanonicalHeld l')
    (agree : ∀ k, heldAt l k = heldAt l' k) : l = l' := by
  have nodup {l : List Held} (h : CanonicalHeld l) : l.Nodup := h.imp fun ahead same => ahead.2 (congrArg Held.tok same)
  refine List.Perm.eq_of_pairwise (fun x y _ _ hxy hyx => absurd hyx hxy.asymm) h h' ?_
  refine (List.perm_ext_iff_of_nodup (nodup h) (nodup h')).mpr fun x => ?_
  have here := h.heldAt_eq_some_iff (k := x.tok) (x := x)
  have there := h'.heldAt_eq_some_iff (k := x.tok) (x := x)
  simp only [and_true] at here there
  rw [← here, ← there, agree]

theorem mem_heldIns {h x : Held} {l : List Held} : x ∈ heldIns h l ↔ x = h ∨ x ∈ l := by
  induction l with
  | nil => simp [heldIns]
  | cons y l ih =>
    rw [heldIns]
    split
    · exact List.mem_cons
    · rw [List.mem_cons, ih, List.mem_cons, or_left_comm]

theorem CanonicalHeld.ins {h : Held} {l : List Held} (canonical : CanonicalHeld l) (fresh : ∀ x ∈ l, h.tok ≠ x.tok) :
    CanonicalHeld (heldIns h l) := by
  induction l with
  | nil => exact List.pairwise_singleton ..
  | cons y l ih =>
    obtain ⟨first, rest⟩ := List.pairwise_cons.mp canonical
    obtain ⟨freshHead, freshTail⟩ := List.forall_mem_cons.mp fresh
    rw [heldIns]
    split
    case isTrue before =>
      have ahead : h.Ahead y := ⟨before, freshHead⟩
      exact List.pairwise_cons.mpr
        ⟨List.forall_mem_cons.mpr ⟨ahead, fun x hx => ahead.trans (first x hx) (freshTail x hx)⟩, canonical⟩
    case isFalse notBefore =>
      have ahead : y.Ahead h := ⟨(precedes_iff_not_precedes freshHead.symm).mpr (Bool.eq_false_iff.mpr notBefore), freshHead.symm⟩
      refine List.pairwise_cons.mpr ⟨fun x hx => ?_, ih rest freshTail⟩
      obtain rfl | hx := mem_heldIns.mp hx
      · exact ahead
      · exact first x hx

/-! ## An entry that arrives (R125, R128, R130) -/

/-- What stands for a token id once an entry with it has arrived: the entry itself, or the one of the two that dedup keeps. -/
def mergeHeld (e : Held) : Option Held → Held
  | none => e
  | some old => { (if dedupKeeps e old then e else old) with dup := true }

/-- The held list once a valid entry has arrived. -/
def takeHeld (e : Held) (l : List Held) : List Held :=
  heldIns (mergeHeld e (heldAt l e.tok)) (l.filter fun x => x.tok != e.tok)

/-- The row once a valid entry has arrived. -/
def Row.takeValid (e : Held) (r : Row) : Row :=
  { r with held := takeHeld e r.held, dups := r.dups + bit (heldAt r.held e.tok).isSome }

theorem takeEntry_of_nan {thresh : Nat} {e : Held} (nan : isNan e.logit = true) (r : Row) :
    (takeEntry thresh e r).1 = { r with nanIn := true } := by
  rw [takeEntry, if_pos nan]

theorem takeEntry_of_invalid {thresh : Nat} {e : Held} (notNan : isNan e.logit = false) (invalid : validLogit thresh e.logit = false)
    (r : Row) : (takeEntry thresh e r).1 = r := by
  rw [takeEntry, if_neg (by simp [notNan]), if_pos (by simp [invalid])]

theorem takeEntry_of_valid {thresh : Nat} {e : Held} (valid : validLogit thresh e.logit = true) (r : Row) :
    (takeEntry thresh e r).1 = r.takeValid e := by
  have notNan : isNan e.logit = false := by
    rw [validLogit, Bool.and_eq_true, Bool.and_eq_true] at valid
    simpa using valid.1.1
  have search : (r.held.find? fun x => x.tok == e.tok) = heldAt r.held e.tok := rfl
  rw [takeEntry, if_neg (by simp [notNan]), if_neg (by simp [valid]), search, Row.takeValid, takeHeld]
  cases found : heldAt r.held e.tok with
  | none =>
    have others : r.held.filter (fun x => x.tok != e.tok) = r.held :=
      List.filter_eq_self.mpr fun x hx => by simpa using List.find?_eq_none.mp found x hx
    rw [others]
    rfl
  | some old => rfl

/-- An entry arrives in one of three ways, whatever the row: it is a NaN, it is dropped, or it joins the held list. -/
theorem takeEntry_cases (thresh : Nat) (e : Held) :
    (∀ r, (takeEntry thresh e r).1 = { r with nanIn := true }) ∨ (∀ r, (takeEntry thresh e r).1 = r) ∨
      ∀ r, (takeEntry thresh e r).1 = r.takeValid e := by
  cases nan : isNan e.logit with
  | true => exact .inl (takeEntry_of_nan nan)
  | false =>
    cases valid : validLogit thresh e.logit with
    | false => exact .inr (.inl (takeEntry_of_invalid nan valid))
    | true => exact .inr (.inr (takeEntry_of_valid valid))

theorem CanonicalHeld.mergeHeld_tok {l : List Held} (h : CanonicalHeld l) (e : Held) : (mergeHeld e (heldAt l e.tok)).tok = e.tok := by
  cases found : heldAt l e.tok with
  | none => rfl
  | some old =>
    have same : old.tok = e.tok := (h.heldAt_eq_some_iff.mp found).2
    unfold mergeHeld
    dsimp only
    split
    · rfl
    · exact same

theorem CanonicalHeld.take {l : List Held} (h : CanonicalHeld l) (e : Held) : CanonicalHeld (takeHeld e l) :=
  CanonicalHeld.ins (h.filter _) fun x hx => by
    have other : x.tok ≠ e.tok := by simpa using (List.mem_filter.mp hx).2
    rw [h.mergeHeld_tok]
    exact other.symm

/-- An entry that arrives changes what is held for its own token id alone. -/
theorem CanonicalHeld.heldAt_takeHeld {l : List Held} (h : CanonicalHeld l) (e : Held) (k : Nat) :
    heldAt (takeHeld e l) k = if k = e.tok then some (mergeHeld e (heldAt l e.tok)) else heldAt l k := by
  refine Option.ext fun x => ?_
  rw [(h.take e).heldAt_eq_some_iff, takeHeld, mem_heldIns, List.mem_filter]
  have merged := h.mergeHeld_tok e
  split
  case isTrue same =>
    subst same
    grind
  case isFalse other =>
    rw [h.heldAt_eq_some_iff]
    grind

/-! ## The order of arrival (R128) -/

/-- Dedup keeps the lower of two origins, by shard and then by round. -/
theorem dedupKeeps_iff (x y : Held) : dedupKeeps x y = true ↔
    x.origin.1 < y.origin.1 ∨ x.origin.1 = y.origin.1 ∧ x.origin.2 < y.origin.2 := by
  simp only [dedupKeeps, Held.origin, Bool.or_eq_true, Bool.and_eq_true, decide_eq_true_iff, beq_iff_eq]

theorem dedupKeeps_trans {x y z : Held} (h : dedupKeeps x y = true) (h' : dedupKeeps y z = true) : dedupKeeps x z = true := by
  rw [dedupKeeps_iff] at h h' ⊢
  omega

/-- Of two entries of different origins dedup keeps exactly one. -/
theorem dedupKeeps_flip {x y : Held} (differ : x.origin ≠ y.origin) : dedupKeeps y x = !dedupKeeps x y := by
  have parts : x.origin.1 ≠ y.origin.1 ∨ x.origin.2 ≠ y.origin.2 := by
    rw [← Decidable.not_and_iff_not_or_not]
    exact fun same => differ (Prod.ext same.1 same.2)
  rw [Bool.eq_iff_iff, Bool.not_eq_true', ← Bool.not_eq_true, dedupKeeps_iff, dedupKeeps_iff]
  omega

/-- An entry already marked as a duplicate has the origin it had. -/
theorem dedupKeeps_mark (x y : Held) : dedupKeeps x { y with dup := true } = dedupKeeps x y := rfl

/-- Dedup keeps the same one of three entries for a token id, in whatever order the last two arrive: the one with the least origin
(R130). -/
theorem mergeHeld_comm {a b : Held} {o : Option Held} (differ : a.origin ≠ b.origin)
    (older : ∀ x, o = some x → x.origin ≠ a.origin ∧ x.origin ≠ b.origin) :
    mergeHeld b (some (mergeHeld a o)) = mergeHeld a (some (mergeHeld b o)) := by
  have flip := dedupKeeps_flip differ
  cases o with
  | none => cases first : dedupKeeps a b <;> simp [mergeHeld, flip, first]
  | some x =>
    obtain ⟨oldA, oldB⟩ := older x rfl
    cases ax : dedupKeeps a x <;> cases bx : dedupKeeps b x
    case false.false => simp [mergeHeld, dedupKeeps_mark, ax, bx]
    case false.true =>
      have xa : dedupKeeps x a = true := by rw [dedupKeeps_flip oldA.symm, ax, Bool.not_false]
      have ba : dedupKeeps b a = true := dedupKeeps_trans bx xa
      have ab : dedupKeeps a b = false := by rw [dedupKeeps_flip differ.symm, ba, Bool.not_true]
      simp [mergeHeld, dedupKeeps_mark, ax, bx, ab]
    case true.false =>
      have xb : dedupKeeps x b = true := by rw [dedupKeeps_flip oldB.symm, bx, Bool.not_false]
      have ab : dedupKeeps a b = true := dedupKeeps_trans ax xb
      have ba : dedupKeeps b a = false := by rw [dedupKeeps_flip differ, ab, Bool.not_true]
      simp [mergeHeld, dedupKeeps_mark, ax, bx, ba]
    case true.true => cases first : dedupKeeps a b <;> simp [mergeHeld, dedupKeeps_mark, ax, bx, flip, first]

/-- Two valid entries leave the same held list in either order. -/
theorem CanonicalHeld.takeHeld_comm {l : List Held} (h : CanonicalHeld l) {a b : Held}
    (older : ∀ e ∈ [a, b], ∀ x ∈ l, x.tok = e.tok → x.origin ≠ e.origin) (differ : a.tok = b.tok → a.origin ≠ b.origin) :
    takeHeld b (takeHeld a l) = takeHeld a (takeHeld b l) := by
  refine CanonicalHeld.ext ((h.take a).take b) ((h.take b).take a) fun k => ?_
  simp only [(h.take a).heldAt_takeHeld, (h.take b).heldAt_takeHeld, h.heldAt_takeHeld]
  by_cases same : a.tok = b.tok
  · have old : ∀ x, heldAt l b.tok = some x → x.origin ≠ a.origin ∧ x.origin ≠ b.origin := fun x found => by
      obtain ⟨hx, ids⟩ := h.heldAt_eq_some_iff.mp found
      exact ⟨older a (by simp) x hx (ids.trans same.symm), older b (by simp) x hx ids⟩
    by_cases here : k = b.tok
    · simp only [same, here, if_true, mergeHeld_comm (differ same) old]
    · simp only [same, here, if_false]
  · grind

/-- A token id that is held already makes a duplicate, and so does the second of two with one token id. -/
theorem CanonicalHeld.dups_comm {l : List Held} (h : CanonicalHeld l) (a b : Held) :
    bit (heldAt l a.tok).isSome + bit (heldAt (takeHeld a l) b.tok).isSome =
      bit (heldAt l b.tok).isSome + bit (heldAt (takeHeld b l) a.tok).isSome := by
  rw [h.heldAt_takeHeld, h.heldAt_takeHeld]
  by_cases same : a.tok = b.tok
  · simp [same]
  · rw [if_neg (Ne.symm same), if_neg same, Nat.add_comm]

theorem Row.takeValid_comm {r : Row} (h : CanonicalHeld r.held) {a b : Held}
    (older : ∀ e ∈ [a, b], ∀ x ∈ r.held, x.tok = e.tok → x.origin ≠ e.origin) (differ : a.tok = b.tok → a.origin ≠ b.origin) :
    (r.takeValid a).takeValid b = (r.takeValid b).takeValid a := by
  unfold Row.takeValid
  dsimp only
  rw [h.takeHeld_comm older differ, Nat.add_assoc, h.dups_comm a b, Nat.add_assoc]

/-- Settles O43: a NaN and a dropped entry leave the held list alone, and two entries that join it commute. -/
theorem arrivalOrderDoesNotMatter : Obligations.ArrivalOrderDoesNotMatter := by
  intro thresh r a b canonical older differ
  have origins : ∀ x y : Held, (x.shard, x.round) ≠ (y.shard, y.round) → x.origin ≠ y.origin := fun _ _ h h' => h h'
  obtain ha | ha | ha := takeEntry_cases thresh a <;> obtain hb | hb | hb := takeEntry_cases thresh b <;> simp only [ha, hb]
  case inl.inr.inr | inr.inr.inl => rfl
  case inr.inr.inr.inr =>
    refine Row.takeValid_comm canonical (fun e he x hx same => ?_) fun same => origins a b (differ same)
    obtain ⟨-, olderA, olderB⟩ := older x hx
    obtain rfl | rfl : e = a ∨ e = b := by simpa using he
    · exact origins x e (olderA same)
    · exact origins x e (olderB same)

/-! ## What counting leaves of the Sieve -/

@[simp] theorem bumpN_sieve (c n : Nat) (s : State) : (bumpN c n s).sieve = s.sieve := by
  obtain ⟨l, h⟩ | ⟨l, h⟩ := bumpN_cases c n s
  · rw [h]
  · rw [h]; rfl

@[simp] theorem bump_sieve (c : Nat) (s : State) : (bump c s).sieve = s.sieve := bumpN_sieve c 1 s

@[simp] theorem bumpN_free (c n : Nat) (s : State) : (bumpN c n s).free = s.free := by
  obtain ⟨l, h⟩ | ⟨l, h⟩ := bumpN_cases c n s
  · rw [h]
  · rw [h]; rfl

@[simp] theorem bump_free (c : Nat) (s : State) : (bump c s).free = s.free := bumpN_free c 1 s

@[simp] theorem bump_seat (c : Nat) (s : State) (i : Nat) : (bump c s).seat i = s.seat i := by simp only [State.seat, bump_led]

@[simp] theorem bump_run (c : Nat) (s : State) (i : Nat) : (bump c s).run i = s.run i := by simp only [State.run, bump_sieve]

@[simp] theorem tick_run (t : BitVec 64) (s : State) (i : Nat) : (tick t s).run i = s.run i := by simp only [State.run, tick_sieve]

/-! ## Candidate lists (R126 to R131, R142) -/

theorem candList_of_open (t : BitVec 64) (m : CandMsg) {s : State} (on : s.mainOn = true) (opened : s.portOpen .F = true) :
    exec (.candList t m) s = .next (candIn m (candBack (bump 0xFE (tick t s)))) := by
  change execCandList t m s = _
  unfold execCandList
  rw [if_neg (by simp [on]), if_neg (by simp [opened])]

/-- Port F keeps back no list that is stray (R129). -/
theorem laneFull_of_stray {m : CandMsg} {x : State} (h : strayList x m = true) : x.laneFull m = false := by
  unfold State.laneFull
  split
  · simp [h]
  · rfl

theorem candIn_of_laneFull {m : CandMsg} {x : State} (full : x.laneFull m = true) :
    candIn m x = { x with sieve := { x.sieve with back := x.sieve.back ++ [m] } } := if_pos full

theorem candIn_of_stray {m : CandMsg} {x : State} (h : strayList x m = true) :
    candIn m x = setFlag F.SIEVE_FLAGS_STRAY (bump 0x63 x) := by
  rw [candIn, if_neg (by simp [laneFull_of_stray h]), candTaken, if_pos h, stray]

theorem candIn_of_row {m : CandMsg} {x : State} {r : Row} (room : x.laneFull m = false) (inTurn : strayList x m = false)
    (row : x.row m.seat.toNat m.row.toNat = some r) : candIn m x =
      if (mergeList r m x).1.want.isEmpty then roundDone (mergeList r m x).1 (mergeList r m x).2 else (mergeList r m x).2 := by
  rw [candIn, if_neg (by simp [room]), candTaken, if_neg (by simp [inTurn]), row]

theorem refillRoomFreed_of_mainOn (t : BitVec 64) (lane : BitVec 5) {s : State} (on : s.mainOn = true) :
    exec (.refillRoomFreed t lane) s =
      .next (serveWaiting ((candBack (tick t s)).waitingRows lane.toNat) (candBack (tick t s))) := if_neg (by simp [on])

/-! ## DRAFTS (R129, R148) -/

/-- DRAFTS belong to the running deal when it is not abandoned and they name its epoch. -/
def State.draftsDue (s : State) (m : DraftsMsg) : Bool := s.deals.running.any fun r => r.deal.epoch == m.epoch.toNat && !r.abandoned

theorem draftsDue_of_running {m : DraftsMsg} {s : State} {r : Running} (running : s.deals.running = some r)
    (epoch : r.deal.epoch = m.epoch.toNat) (going : r.abandoned = false) : s.draftsDue m = true := by
  simp [State.draftsDue, running, epoch, going]

/-- A trick that the DRAFTS name has ended and had none yet. -/
def State.awaitsLate (s : State) (m : DraftsMsg) : Bool :=
  s.sieve.results.any fun r => r.seat == m.seat.toNat && r.gen == m.gen.toNat && r.kind == 2 && !r.drafted

section
variable (t : BitVec 64) (m : DraftsMsg) {s : State} (on : s.mainOn = true) (opened : s.portOpen .F = true)
include on opened

/-- DRAFTS of a seat without a run are late. -/
theorem drafts_of_run_none (idle : s.run m.seat.toNat = none) :
    exec (.drafts t m) s = .next (draftsLate (s.draftsDue m) m (bump 0xFE (tick t s))) := by
  change execDrafts t m s = _
  unfold execDrafts
  dsimp only
  rw [if_neg (by simp [on]), if_neg (by simp [opened]), bump_run, tick_run, idle, bump_deals, tick_deals, State.draftsDue]
  cases s.deals.running <;> rfl

/-- DRAFTS in their turn let the seat's run go on. -/
theorem drafts_of_run {r : Running} {q : SeatRun} (running : s.deals.running = some r) (epoch : r.deal.epoch = m.epoch.toNat)
    (going : r.abandoned = false) (run : s.run m.seat.toNat = some q) (gen : q.gen = m.gen.toNat)
    (seatGen : (s.seat m.seat.toNat).gen = m.gen) (trick : q.kind = 2) (waits : q.drafts = none) :
    exec (.drafts t m) s = .next (pumpRun q.seat pumpFuel (modRun q.seat
      (fun p => { p with drafts := some (draftsOf q m (bump 0xFE (tick t s))).1 }) (draftsOf q m (bump 0xFE (tick t s))).2)) := by
  change execDrafts t m s = _
  unfold execDrafts
  dsimp only
  rw [if_neg (by simp [on]), if_neg (by simp [opened]), bump_run, tick_run, run, bump_deals, tick_deals, running, bump_seat,
    tick_seat]
  dsimp only
  exact if_neg (by simp [epoch, going, gen, seatGen, trick, waits])

end

theorem draftsLate_of_none_waiting {ok : Bool} {m : DraftsMsg} {s : State} (h : s.awaitsLate m = false) :
    draftsLate ok m s = stray 0x79 s := by
  have notFirst : ¬(ok && (s.seat m.seat.toNat).gen == m.gen && s.awaitsLate m) = true := by simp [h]
  exact if_neg notFirst

/-- The first DRAFTS of a trick that has ended are noted in its result alone. -/
theorem draftsLate_of_waiting {m : DraftsMsg} {s : State} (gen : (s.seat m.seat.toNat).gen = m.gen) (late : s.awaitsLate m = true) :
    ∃ l, draftsLate true m s = { s with sieve := { s.sieve with results := l } } := by
  have first : (true && (s.seat m.seat.toNat).gen == m.gen && s.awaitsLate m) = true := by simp [gen, late]
  exact ⟨_, if_pos first⟩

theorem draftsOf_of_le {q : SeatRun} {m : DraftsMsg} (h : m.drafts.length ≤ q.dlen) (s : State) :
    draftsOf q m s = (m.drafts.map (·.toNat), s) := if_pos h

/-- More drafts than D leave D free values (the model's choice, log entry 62). -/
theorem draftsOf_of_gt {q : SeatRun} {m : DraftsMsg} (h : q.dlen < m.drafts.length) (s : State) :
    ∃ l : List Nat, l.length = q.dlen ∧ draftsOf q m s = (l, { s with free := s.free + q.dlen }) :=
  ⟨_, by rw [List.length_map, List.length_range], if_neg (by omega)⟩

/-- Settles O41: a candidate list by whether its lane has room for it and whether it is stray (that port F keeps a list back whole is
the model's choice, log entry 57), and DRAFTS by whether the seat still runs. -/
theorem candidatesAndDrafts : Obligations.CandidatesAndDrafts := by
  refine ⟨⟨fun t m s => candList_of_open t m, fun m x => ⟨candIn_of_laneFull, candIn_of_stray, fun r => candIn_of_row⟩⟩,
    fun t lane s x on hx => hx ▸ refillRoomFreed_of_mainOn t lane on, fun t m s on opened idle => ⟨fun noTrick => ?_, ?_⟩,
    fun t m s r q on opened running epoch going run gen seatGen trick waits => ?_⟩
  · have noneWaits : (bump 0xFE (tick t s)).awaitsLate m = false := by
      rw [State.awaitsLate, bump_sieve, tick_sieve, noTrick]
    rw [drafts_of_run_none t m on opened idle, draftsLate_of_none_waiting noneWaits, stray]
  · intro r running epoch going seatGen late
    have waits : (bump 0xFE (tick t s)).awaitsLate m = true := by
      rw [State.awaitsLate, bump_sieve, tick_sieve, late]
    obtain ⟨l, h⟩ := draftsLate_of_waiting (by rwa [bump_seat, tick_seat]) waits
    refine ⟨_, by rw [drafts_of_run_none t m on opened idle, draftsDue_of_running running epoch going, h], rfl, ?_⟩
    simp only [bump_sieve, tick_sieve]
  · have go := drafts_of_run t m on opened running epoch going run gen seatGen trick waits
    refine ⟨fun fits => ?_, fun more => ?_⟩
    · rw [go, draftsOf_of_le fits]
    · obtain ⟨l, length, h⟩ := draftsOf_of_gt more (bump 0xFE (tick t s))
      exact ⟨l, _, length, rfl, by rw [go, h, bump_free, tick_free]⟩

end Sys2Proof.Machine

namespace Sys2Proof.Machine

/-! # The cache pool: its answers, its directory, and the lookup that reads it -/

/-- A message of a main-domain port that the port takes acts, from the command's instant, in the state `received` gives. -/
theorem main_taking_of_takes {p : Port} {peer cls : Nat} {s : State} (h : s.takes p peer cls = true) (t : BitVec 64) (op : Nat)
    (word1 : Word) (f : State → State) :
    (if !s.mainOn then .next (tick t s) else .next (taking p peer cls op word1 0 f (tick t s)) : Host.Outcome State Fault Refusal) =
      .next (f (received p peer cls op word1 0 (tick t s))) := by
  obtain ⟨on, accepted⟩ := takes_iff.mp h
  rw [if_neg (by simp [on]), taking_accepts (by rwa [tick_accepts])]

/-! ## The answers of the cache pool (R181, R182, R191 to R195) -/

/-- A KV_DATA whose payload port C takes and the C-link gate lets through acts on what its tag names (R181, R220). -/
theorem kvData_passes (t : BitVec 64) (tag : BitVec 24) (h : BitVec 32) (c : BlockTag) (s : State) (q : Gated) (on : s.mainOn = true)
    (payload : q = ⟨.kvData t tag h c, 0, (tick t s).fetchUnit tag.toNat, tag.toNat, .C, 0, 0, beatsOf (tick t s).carrierBytes⟩)
    (passes : (tick t s).gatedTakes q 0x31 (payWord (tick t s).carrierBytes tag.toNat) = true) :
    exec (.kvData t tag h c) s = .next (finish (fetchData tag.toNat c
      (receivedGated q 0x31 (payWord (tick t s).carrierBytes tag.toNat) (tick t s)))) := by
  change execKvData t tag h c s = _
  unfold execKvData
  dsimp only
  rw [if_neg (by simp [on]), ← payload, takingGated_of_gatedTakes passes, kvDataIn]

/-- An IMAGE_DATA whose payload port C takes and the C-link gate lets through acts on what its tag names (R52, R192, R220). -/
theorem imageData_passes (t : BitVec 64) (tag : BitVec 24) (h : BitVec 32) (m : Image) (s : State) (q : Gated) (n : Nat)
    (on : s.mainOn = true) (bytes : n = 256 + 32 * m.blocks.length + 8 * m.pct.length + 512)
    (payload : q = ⟨.imageData t tag h m, 0, 1, tag.toNat, .C, 0, 0, beatsOf n⟩)
    (passes : (tick t s).gatedTakes q 0x38 (payWord n tag.toNat) = true) :
    exec (.imageData t tag h m) s =
      .next (finish (imageData tag.toNat m (receivedGated q 0x38 (payWord n tag.toNat) (tick t s)))) := by
  change execImageData t tag h m s = _
  unfold execImageData
  dsimp only
  rw [if_neg (by simp [on]), ← bytes, ← payload, takingGated_of_gatedTakes passes, imageDataIn]

section
variable (t : BitVec 64) (tag : BitVec 24) {s : State} (takes : s.takes .C 0 2 = true)
include takes

/-- A KV_MISS that port C takes misses the fetch that its tag names (R182). -/
theorem kvMiss_of_takes (h : BitVec 32) : exec (.kvMiss t tag h) s =
    .next (finish (fetchMissed tag.toNat (received .C 0 2 0x32 (handleTag h.toNat tag.toNat) 0 (tick t s)))) :=
  main_taking_of_takes takes t 0x32 _ fun s => finish (fetchMissed tag.toNat s)

/-- A PUT_ACK that port C takes answers the offer that its tag names with a handle (R191). -/
theorem putAck_of_takes (h : BitVec 32) : exec (.putAck t tag h) s =
    .next (finish (putAnswered tag.toNat (some h.toNat) (received .C 0 2 0x34 (handleTag h.toNat tag.toNat) 0 (tick t s)))) :=
  main_taking_of_takes takes t 0x34 _ fun s => finish (putAnswered tag.toNat (some h.toNat) s)

/-- A PUT_DECLINE that port C takes is counted and declines the offer that its tag names (R191, R195). -/
theorem putDecline_of_takes : exec (.putDecline t tag) s =
    .next (finish (putAnswered tag.toNat none (bump 0x89 (received .C 0 2 0x35 (handleTag 0 tag.toNat) 0 (tick t s))))) :=
  main_taking_of_takes takes t 0x35 _ fun s => finish (putAnswered tag.toNat none (bump 0x89 s))

end

@[simp] theorem tick_tagUse (t : BitVec 64) (s : State) (n : Nat) : (tick t s).tagUse n = s.tagUse n := by
  simp only [State.tagUse, tick_kv]

section
variable (t : BitVec 64) (tag : BitVec 24) {s : State} (on : s.mainOn = true)
  (due : tget 0 s.kv.tagAt tag.toNat + 1000 * s.fld F.PKV_WAIT_FETCHWAIT ≤ (tick t s).now)
include on due

/-- A fetch that no answer has met within FETCHWAIT counts as missed (R181, R182). -/
theorem fetchwaitExpiry_misses {i g j b k : Nat} (use : s.tagUse tag.toNat = some (.fetch i g j b k)) :
    exec (.fetchwaitExpiry t tag) s = .next (finish (fetchMissed tag.toNat (tick t s))) := by
  change execFetchwaitExpiry t tag s = _
  unfold execFetchwaitExpiry
  dsimp only
  rw [if_neg (by simp [on]), if_pos (by rwa [tick_kv, tick_fld]), tick_tagUse, use]

/-- An offer to publish that no answer has met within FETCHWAIT counts as declined (R191, R195). -/
theorem fetchwaitExpiry_declines {b : Nat} (use : s.tagUse tag.toNat = some (.putPublish b)) :
    exec (.fetchwaitExpiry t tag) s = .next (finish (putAnswered tag.toNat none (tick t s))) := by
  change execFetchwaitExpiry t tag s = _
  unfold execFetchwaitExpiry
  dsimp only
  rw [if_neg (by simp [on]), if_pos (by rwa [tick_kv, tick_fld]), tick_tagUse, use]

end

/-- Settles O36: each answer by what its command does once port C, and for a payload the C-link gate, takes it, and the two timeouts by
what the tag stands for (that an idle gate grants a payload at once is the model's choice, log entry 59). -/
theorem cachePoolAnswers : Obligations.CachePoolAnswers :=
  ⟨kvData_passes,
    fun t tag h _ takes => ⟨kvMiss_of_takes t tag takes h, putAck_of_takes t tag takes h, putDecline_of_takes t tag takes⟩,
    imageData_passes,
    fun t tag _ on due => ⟨fun _ _ _ _ _ => fetchwaitExpiry_misses t tag on due, fun _ => fetchwaitExpiry_declines t tag on due⟩⟩

/-! ## What the traffic of a port leaves as it was -/

/-- The state behind the ports: all but the registers, the counts and the trace, the ports' own state, what was sent, and the free
values. -/
def State.behindPorts (s : State) : State :=
  { s with
    keep := State.reset.keep, regs := [], ports := State.reset.ports, obs := State.reset.obs, egress := [], free := 0 }

theorem setFlag_behindPorts (f : Fld) (s : State) : (setFlag f s).behindPorts = s.behindPorts := rfl

theorem modSess_behindPorts (p : Port) (peer : Nat) (f : Sess → Sess) (s : State) :
    (modSess p peer f s).behindPorts = s.behindPorts := rfl

theorem bumpN_behindPorts (c n : Nat) (s : State) : (bumpN c n s).behindPorts = s.behindPorts := by
  unfold bumpN
  split <;> rfl

theorem bump_behindPorts (c : Nat) (s : State) : (bump c s).behindPorts = s.behindPorts := bumpN_behindPorts c 1 s

theorem portCnt_behindPorts (p : Port) (k n : Nat) (s : State) : (portCnt p k n s).behindPorts = s.behindPorts := by
  unfold portCnt
  split
  · exact bumpN_behindPorts ..
  · rfl

/-- A message that leaves by another port than N keeps no lease alive (R112), so nothing behind the ports moves. -/
theorem depart_behindPorts {m : Msg} (notN : m.port ≠ .N) (s : State) : (depart m s).behindPorts = s.behindPorts := by
  unfold depart
  dsimp only
  split
  · exact bump_behindPorts ..
  · exact portCnt_behindPorts ..

theorem overrun_behindPorts (p : Port) (peer n : Nat) (s : State) : (overrun p peer n s).behindPorts = s.behindPorts := by
  unfold overrun
  rw [modSess_behindPorts, setFlag_behindPorts, bumpN_behindPorts]
  rfl

theorem greeted_behindPorts (p : Port) (peer cls beats : Nat) (s : State) :
    (greeted p peer cls beats s).2.behindPorts = s.behindPorts := by
  unfold greeted
  dsimp only
  split
  · rfl
  · split <;> rfl

section
variable {p : Port} (notN : p ≠ .N) (peer cls op : Nat) (word1 : Word) (beats : Nat) (s : State)
include notN

theorem sendNotReady_behindPorts : (sendNotReady p peer op word1 s).behindPorts = s.behindPorts := by
  unfold sendNotReady
  rw [setFlag_behindPorts, portCnt_behindPorts, depart_behindPorts notN]

/-- Every answer of a port to an arriving message stays in front of the ports. -/
theorem arrive_behindPorts : (arrive p peer cls op word1 beats s).2.behindPorts = s.behindPorts := by
  unfold arrive
  dsimp only
  repeat' split
  all_goals simp only [setFlag_behindPorts, bump_behindPorts, portCnt_behindPorts, sendNotReady_behindPorts notN, greeted_behindPorts,
    modSess_behindPorts, overrun_behindPorts]

theorem returnCredit_behindPorts (n : Nat) : (returnCredit p peer cls n beats s).behindPorts = s.behindPorts := by
  unfold returnCredit
  dsimp only
  split
  · rfl
  · split
    · rfl
    · rw [sendCredit, bump_behindPorts, depart_behindPorts notN, modSess_behindPorts]

/-- A message is counted and its credit consumed and returned in front of the ports alone (R242, R285). -/
theorem received_behindPorts : (received p peer cls op word1 beats s).behindPorts = s.behindPorts := by
  rw [received, returnCredit_behindPorts notN, arrive_behindPorts notN]

end

/-! ## Directory messages (R174, R184, R196, R255) -/

/-- A directory message that port C takes acts when it has 1 to 1,364 entries; with any other number it is counted and flagged (R238,
R255). -/
theorem dirTaken_of_takes {s : State} (takes : s.takes .C 0 1 = true) (t : BitVec 64) (op n : Nat) (f : State → State) :
    (if !s.mainOn then .next (tick t s) else .next (dirTaken op n f (tick t s)) : Host.Outcome State Fault Refusal) =
      .next (if 1 ≤ n ∧ n ≤ 1364 then f (received .C 0 1 op 0 0 (tick t s))
        else setFlag (F.PORT_FLAGS_BADLEN 2) (bump 0xFA (received .C 0 1 op 0 0 (tick t s)))) :=
  main_taking_of_takes takes t op 0 _

section
variable (t : BitVec 64) {es : List DirEntry} {s : State} (takes : s.takes .C 0 1 = true)
include takes

/-- A DIR_ADD that port C takes inserts each of its keys in order, or none while R184 forbids hits (R174, R184, R196). -/
theorem dirAdd_of_takes {x : State} (hx : x = received .C 0 1 0x3A 0 0 (tick t s)) :
    exec (.dirAdd t es) s = .next (if 1 ≤ es.length ∧ es.length ≤ 1364 then
        bumpN 0x90 es.length (if x.noHits then x else
          each (fun e x => insertKey e.key (.dir e.handle.toNat e.depth.toNat) x) es x)
      else setFlag (F.PORT_FLAGS_BADLEN 2) (bump 0xFA x)) := by
  rw [hx]
  exact dirTaken_of_takes takes t 0x3A es.length _

/-- A DIR_DROP that port C takes clears POOL for each of its keys in order (R196). -/
theorem dirDrop_of_takes {x : State} (hx : x = received .C 0 1 0x3B 0 0 (tick t s)) :
    exec (.dirDrop t es) s = .next (if 1 ≤ es.length ∧ es.length ≤ 1364 then bumpN 0x91 es.length (each dropDir es x)
      else setFlag (F.PORT_FLAGS_BADLEN 2) (bump 0xFA x)) := by
  rw [hx]
  exact dirTaken_of_takes takes t 0x3B es.length fun s => bumpN 0x91 es.length (each dropDir es s)

/-- A REPLAY_END that port C takes ends the replay, and nothing else moves behind the ports (R197). -/
theorem replayEnd_of_takes (n : Word) : ∃ u, exec (.replayEnd t n) s = .next u ∧ u.pwr.replay = false ∧ u.core = (tick t s).core ∧
    u.led = s.led ∧ u.kv = s.kv ∧ u.deals = s.deals ∧ u.tenants = s.tenants := by
  have done : exec (.replayEnd t n) s =
      .next (modPwr (fun p => { p with replay := false }) (received .C 0 1 0x3C n 0 (tick t s))) :=
    main_taking_of_takes takes t 0x3C n _
  have behind : (received .C 0 1 0x3C n 0 (tick t s)).behindPorts = (tick t s).behindPorts :=
    received_behindPorts (by decide) 0 1 0x3C n 0 (tick t s)
  refine ⟨_, done, rfl, (execReplayEnd_quiet t n s _ done).core, ?_, ?_, ?_, ?_⟩
  · exact (congrArg State.led behind).trans (tick_led t s)
  · exact (congrArg State.kv behind).trans (tick_kv t s)
  · exact (congrArg State.deals behind).trans (tick_deals t s)
  · exact (congrArg State.tenants behind).trans (tick_tenants t s)

end

/-! ## The steps of a seat's lookup (R169 to R173, R178, R179) -/

/-- A seat without a lookup is left as it is by each step of one. -/
theorem lookup_steps_of_none {i : Nat} {s : State} (idle : (s.side i).lookup = none) :
    hashNext i s = s ∧ probeDone i s = s ∧ residentVerified i s = s := by
  refine ⟨?_, ?_, ?_⟩
  · rw [hashNext, idle]
  · rw [probeDone, idle]
  · rw [residentVerified, idle]

/-- With main power each event of the lookup's engines takes the seat's lookup one step on. -/
theorem lookup_events_of_mainOn (t : BitVec 64) (i : BitVec 16) {s : State} (on : s.mainOn = true) :
    exec (.blockHashDone t i) s = .next (finish (hashNext i.toNat (tick t s))) ∧
    exec (.indexProbeDone t i) s = .next (finish (probeDone i.toNat (tick t s))) ∧
    exec (.residentBlockVerified t i) s = .next (finish (residentVerified i.toNat (tick t s))) :=
  have powered : ¬(!s.mainOn) = true := by simp [on]
  ⟨if_neg powered, if_neg powered, if_neg powered⟩

/-- Settles O37: a directory message by whether its number of entries is allowed and whether R184 forbids hits, and each step of a lookup
by whether the seat has one. -/
theorem directoryAndLookup : Obligations.DirectoryAndLookup := by
  refine ⟨fun t s takes => ⟨fun es x nonempty fits hx => ⟨fun hits => ?_, fun noHits => ?_⟩, fun es nonempty fits => ?_,
    fun es misfits => ?_, replayEnd_of_takes t takes⟩,
    fun t i s on => lookup_events_of_mainOn t i on, fun i s => lookup_steps_of_none⟩
  · rw [dirAdd_of_takes t takes hx, if_pos ⟨nonempty, fits⟩, if_neg (by simp [hits])]
  · rw [dirAdd_of_takes t takes hx, if_pos ⟨nonempty, fits⟩, if_pos noHits]
  · rw [dirDrop_of_takes t takes rfl, if_pos ⟨nonempty, fits⟩]
  · have outside : ¬(1 ≤ es.length ∧ es.length ≤ 1364) := by omega
    exact ⟨by rw [dirAdd_of_takes t takes rfl, if_neg outside], by rw [dirDrop_of_takes t takes rfl, if_neg outside]⟩

end Sys2Proof.Machine

namespace Sys2Proof.Machine

/-! # Weight traffic on ports T, C and N, and the tiers that TSTATUS names -/

@[simp] theorem tick_outCredit (t : BitVec 64) (s : State) (p : Port) (peer cls : Nat) :
    (tick t s).outCredit p peer cls = s.outCredit p peer cls := by
  simp only [State.outCredit, tick_sess]

@[simp] theorem tick_model (t : BitVec 64) (s : State) (m v : Nat) : (tick t s).model m v = s.model m v := by
  simp only [State.model, tick_seq]

@[simp] theorem tick_desc (t : BitVec 64) (s : State) (m v o : Nat) : (tick t s).desc m v o = s.desc m v o := by
  simp only [State.desc, tick_seq, tick_model]

@[simp] theorem tick_peerOf (t : BitVec 64) (s : State) (node : Nat) : (tick t s).peerOf node = s.peerOf node := by
  simp only [State.peerOf, tick_ports]

@[simp] theorem tick_secPort (t : BitVec 64) (s : State) (m v : Nat) : (tick t s).secPort m v = s.secPort m v := by
  simp only [State.secPort, tick_model, tick_live, tick_portOpen, tick_peerOf]

theorem received_core (p : Port) (peer cls op : Nat) (word1 : Word) (beats : Nat) (s : State) :
    (received p peer cls op word1 beats s).core = s.core := by
  rw [received, returnCredit_core, arrive_core]

/-! ## The weight streamer (R209, R211, R214) -/

/-- The streamer's next fetch leaves while the sequencer is enabled and open port T holds credit (R209, R211). -/
theorem tfetch_leaves (t : BitVec 64) (s : State) (on : s.mainOn = true) (enabled : s.on F.MOD_CTRL_ENABLE = true)
    (live : s.live .T 0 = true) (opened : s.portOpen .T = true) (credit : 0 < s.outCredit .T 0 0) :
    exec (.tfetch t) s = .next (holdStep (issueNext (tick t s))) := by
  have ready : (tick t s).on F.MOD_CTRL_ENABLE = true ∧ (tick t s).live .T 0 = true ∧ (tick t s).portOpen .T = true ∧
      0 < (tick t s).outCredit .T 0 0 := by
    simp only [tick_on, tick_live, tick_portOpen, tick_outCredit]
    exact ⟨enabled, live, opened, credit⟩
  change execTfetch t s = _
  unfold execTfetch
  rw [if_neg (by simp [on]), if_pos ready]

/-- A TDONE that port T takes acts on the fetch that its tag names (R209, R214). -/
theorem tdone_of_takes (t : BitVec 64) (tag : BitVec 24) (st : BitVec 4) (a : Word) {s : State} (takes : s.takes .T 0 0 = true) :
    exec (.tdone t tag st a) s = .next (holdStep (drain (idleActions
      (tdoneTaken tag.toNat st.toNat (received .T 0 0 0x62 a 0 (tick t s)))))) :=
  main_taking_of_takes takes t 0x62 a fun s => holdStep (drain (idleActions (tdoneTaken tag.toNat st.toNat s)))

/-- A TERR that port T takes acts on every object whose home holds its address (R214). -/
theorem terr_of_takes (t : BitVec 64) (a : Word) {s : State} (takes : s.takes .T 0 0 = true) :
    exec (.terr t a) s = .next (holdStep (drain (idleActions (each terrOne ((received .T 0 0 0x63 a 0 (tick t s)).homesAt a.toNat)
      (received .T 0 0 0x63 a 0 (tick t s)))))) :=
  main_taking_of_takes takes t 0x63 a fun s => holdStep (drain (idleActions (each terrOne (s.homesAt a.toNat) s)))

/-! ## Second sources (R214, R220, R257) -/

/-- An answer without payload needs no gate: it acts in the state `received` gives (R242). -/
theorem takingGated_of_no_beats {x : Gated} (noBeats : x.beats = 0) (ownCredit : x.cls ≠ 3) {op : Nat} {word1 : Word}
    {f : State → State} {s : State} (accepted : s.accepts x.port x.peer x.cls 0 = true) :
    takingGated x op word1 f s = f (received x.port x.peer x.cls op word1 0 s) := by
  rw [takingGated_passes (by rwa [noBeats]) (gateTakes_of_no_beats noBeats _), receivedGated, freeGated, if_neg ownCredit, noBeats,
    received]

section
variable (t : BitVec 64) (p : Port) (peer : Nat) (tag : BitVec 24) (st : BitVec 4) (s : State) (m v o d e w : Nat)
  (on : s.mainOn = true) (use : s.tagUse tag.toNat = some (.repair m v o d e w)) (source : s.secPort m v = some (p, peer))
include on use source

/-- An OBJ_DATA that answers a repair comes from the version's second source through REPAIR's requester of its port's gate; only STATUS 0
brings payload, the object's (R214, R220, R257). -/
theorem objData_of_repair {n : Nat} (bytes : (if st = 0 then 4096 * (s.desc m v o).bytes.toNat else 0) = n) :
    exec (.objData t p tag st) s = .next (takingGated
      ⟨.objData t p tag st, if p = .N then 2 else 0, if p = .N then 2 else 5, tag.toNat, p, peer, 0, beatsOf n⟩
      0x3E (payWord n tag.toNat) (objDataIn tag.toNat (st == 0)) (tick t s)) := by
  change execObjData t p tag st s = _
  unfold execObjData
  dsimp only
  rw [if_neg (by simp [on]), tick_tagUse, use]
  dsimp only
  rw [tick_secPort, source, tick_desc, bytes, apply_ite Prod.fst, apply_ite Prod.snd]

/-- With another STATUS the second source has failed (R214). -/
theorem objData_fails (failed : st ≠ 0) (accepted : s.accepts p peer 0 0 = true) :
    exec (.objData t p tag st) s = .next (holdStep (drain (idleActions
      (objDataTaken tag.toNat false (received p peer 0 0x3E (payWord 0 tag.toNat) 0 (tick t s)))))) := by
  have status : (st == 0) = false := beq_eq_false_iff_ne.mpr failed
  rw [objData_of_repair t p peer tag st s m v o d e w on use source (if_neg failed),
    takingGated_of_no_beats rfl (by decide : 0 ≠ 3) (by rwa [tick_accepts]), status, objDataIn]

/-- With STATUS 0 the object comes as its gate lets its payload through (R220, R257). -/
theorem objData_brings (good : st = 0) (q : Gated) (n : Nat) (bytes : n = 4096 * (s.desc m v o).bytes.toNat)
    (payload : q = ⟨.objData t p tag st, if p = .N then 2 else 0, if p = .N then 2 else 5, tag.toNat, p, peer, 0, beatsOf n⟩)
    (passes : (tick t s).gatedTakes q 0x3E (payWord n tag.toNat) = true) :
    exec (.objData t p tag st) s = .next (holdStep (drain (idleActions
      (objDataTaken tag.toNat true (receivedGated q 0x3E (payWord n tag.toNat) (tick t s)))))) := by
  have status : (st == 0) = true := beq_iff_eq.mpr good
  rw [objData_of_repair t p peer tag st s m v o d e w on use source ((if_pos good).trans bytes.symm), ← payload,
    takingGated_of_gatedTakes passes, status, objDataIn]

end

/-- A second-source fetch that no answer has met within SECWAIT µs has failed (R214). -/
theorem secwaitExpiry_fails (t : BitVec 64) (tag : BitVec 24) (s : State) (on : s.mainOn = true)
    (due : tget 0 s.kv.tagAt tag.toNat + 1000 * s.fld F.MOD_CTRL_SECWAIT ≤ (tick t s).now) :
    exec (.secwaitExpiry t tag) s = .next (holdStep (drain (idleActions (objDataTaken tag.toNat false (tick t s))))) := by
  change execSecwaitExpiry t tag s = _
  unfold execSecwaitExpiry
  dsimp only
  rw [if_neg (by simp [on]), if_pos (by rwa [tick_kv, tick_fld])]

/-- An OBJ_FETCH that port N takes is answered (R257). -/
theorem objFetch_of_takes (t : BitVec 64) (peer : BitVec 6) (tag : BitVec 24) (h : Word) (n : BitVec 32) (s : State)
    (takes : s.takes .N peer.toNat 2 = true) :
    exec (.objFetch t peer tag h n) s = .next (objFetchTaken peer.toNat tag.toNat h
      (received .N peer.toNat 2 0x3D (pack [(40, 0), (24, tag.toNat)]) 0 (tick t s))) :=
  main_taking_of_takes takes t 0x3D _ (objFetchTaken peer.toNat tag.toNat h)

/-! ## The tiers (R207, R217, R275) -/

@[simp] theorem admissionOpens_seq (s : State) : (admissionOpens s).seq = s.seq := by
  unfold admissionOpens
  split <;> rfl

/-- The tiers read as TSTATUS named them (R217). -/
theorem tiersChange_tiers (f h : Bool) (s : State) : (tiersChange f h s).seq.flashUp = f ∧ (tiersChange f h s).seq.hbmUp = h := by
  unfold tiersChange
  rw [admissionOpens_seq]
  exact ⟨rfl, rfl⟩

/-- The calm view shows the tiers: the end of a command moves neither. -/
theorem tiers_of_calm {s u : State} (h : u.calm = s.calm) : u.seq.flashUp = s.seq.flashUp ∧ u.seq.hbmUp = s.seq.hbmUp := by
  have flash := congrArg (fun x : State => x.seq.flashUp) h
  have hbm := congrArg (fun x : State => x.seq.hbmUp) h
  exact ⟨flash, hbm⟩

/-- Outside a wake no hold buffer waits for the tiers (R275). -/
theorem wakeReady_of_not_waking {s : State} (awake : s.pwr.state ≠ 4) : s.wakeReady = false := by
  simp [State.wakeReady, awake]

/-- A TSTATUS that port T takes changes the tiers, and a wake that waited for them lets the hold buffer go (R207, R217, R275). -/
theorem tstatus_of_takes (t : BitVec 64) (f h : Bool) {s y : State} (takes : s.takes .T 0 0 = true)
    (hy : y = finish (tiersChange f h (received .T 0 0 0x64 0 0 (tick t s)))) :
    exec (.tstatus t f h) s = .next (if y.wakeReady then deliverHold y else y) := by
  obtain ⟨on, accepted⟩ := takes_iff.mp takes
  change execTstatus t f h s = _
  unfold execTstatus
  rw [if_neg (by simp [on]), taking_accepts (by rwa [tick_accepts]), ← hy]

/-- TSTATUS moves nothing of the core until a hold buffer goes, so the node is in a wake exactly if it was in one before. -/
theorem tstatus_tells (t : BitVec 64) (f h : Bool) (s y : State) (takes : s.takes .T 0 0 = true)
    (hy : y = finish (tiersChange f h (received .T 0 0 0x64 0 0 (tick t s)))) :
    exec (.tstatus t f h) s = .next (if y.wakeReady then deliverHold y else y) ∧ y.seq.flashUp = f ∧ y.seq.hbmUp = h ∧
      y.core = (tick t s).core ∧ (s.pwr.state ≠ 4 → exec (.tstatus t f h) s = .next y) := by
  have acts := tstatus_of_takes t f h takes hy
  have core : y.core = (tick t s).core := by rw [hy, finish_core, tiersChange_core, received_core]
  have state : y.pwr.state = s.pwr.state := (congrArg Core.state core).trans (congrArg Power.state (tick_pwr t s))
  obtain ⟨flashKept, hbmKept⟩ := tiers_of_calm (finish_calm (tiersChange f h (received .T 0 0 0x64 0 0 (tick t s))))
  obtain ⟨flash, hbm⟩ := tiersChange_tiers f h (received .T 0 0 0x64 0 0 (tick t s))
  refine ⟨acts, ?_, ?_, core, fun awake => ?_⟩
  · rw [hy, flashKept, flash]
  · rw [hy, hbmKept, hbm]
  · rw [acts, wakeReady_of_not_waking (by rwa [state]), if_neg Bool.false_ne_true]

/-- Settles O39: each message by what its command does once its port, and for a payload its gate, takes it, the fetch and the timeout once
they are due, and TSTATUS by what it leaves of the core (that an idle gate grants a payload at once is the model's choice, log
entry 59). -/
theorem weightTraffic : Obligations.WeightTraffic :=
  ⟨⟨tfetch_leaves, fun t tag st a _ takes => ⟨tdone_of_takes t tag st a takes, terr_of_takes t a takes⟩,
    fun t p peer tag st s m v o d e w on use source =>
      ⟨objData_fails t p peer tag st s m v o d e w on use source, objData_brings t p peer tag st s m v o d e w on use source⟩,
    secwaitExpiry_fails, objFetch_of_takes⟩, tstatus_tells⟩

end Sys2Proof.Machine

namespace Sys2Proof.Machine

/-! # The contests and the requests of the transfer gates -/

/-! ## A gate after a change of it -/

@[simp] theorem modGate_gate (g : Nat) (f : GateSt → GateSt) (s : State) : (modGate g f s).gate g = f (s.gate g) :=
  tget_tput_self ..

theorem modPath_gate_path (g p : Nat) (f : PathSt → PathSt) (s : State) :
    ((modPath g p f s).gate g).path p = f ((s.gate g).path p) := by
  rw [modPath, modGate_gate]
  by_cases zero : p = 0 <;> simp [GateSt.path, zero]

theorem modPath_gate_req (g p q r : Nat) (f : PathSt → PathSt) (s : State) :
    ((modPath g p f s).gate g).req q r = (s.gate g).req q r := by
  rw [modPath, modGate_gate]
  split <;> rfl

theorem modReq_gate_req (g p r : Nat) (f : Req → Req) (s : State) :
    ((modReq g p r f s).gate g).req p r = f ((s.gate g).req p r) := by
  rw [modReq, modGate_gate]
  exact tget_tput_self ..

theorem modReq_gate_req_other {p r q k : Nat} (other : 16 * q + k ≠ 16 * p + r) (g : Nat) (f : Req → Req) (s : State) :
    ((modReq g p r f s).gate g).req q k = (s.gate g).req q k := by
  rw [modReq, modGate_gate]
  exact tget_tput_other _ _ _ _ other

/-! ## What counting, tracing and returning credit leave of the gates -/

theorem gate_of_gates {s u : State} (same : u.gates = s.gates) (g : Nat) : u.gate g = s.gate g := by
  rw [State.gate, State.gate, same]

theorem ite_gates {b : Prop} [Decidable b] {x s : State} (same : x.gates = s.gates) : (if b then x else s).gates = s.gates := by
  split
  · exact same
  · rfl

theorem modPath_gates_congr {s u : State} (same : u.gates = s.gates) (g p : Nat) (f : PathSt → PathSt) :
    (modPath g p f u).gates = (modPath g p f s).gates := by
  simp only [modPath, modGate, State.gate, same]

@[simp] theorem bumpN_gates (c n : Nat) (s : State) : (bumpN c n s).gates = s.gates := by
  obtain ⟨l, h⟩ | ⟨l, h⟩ := bumpN_cases c n s
  · rw [h]
  · rw [h]; rfl

@[simp] theorem bump_gates (c : Nat) (s : State) : (bump c s).gates = s.gates := bumpN_gates c 1 s

@[simp] theorem unbump_gates (c : Nat) (s : State) : (unbump c s).gates = s.gates := by
  unfold unbump
  split <;> rfl

@[simp] theorem traceWait_gates (kind epoch wf waiter layer start detail : Nat) (s : State) :
    (traceWait kind epoch wf waiter layer start detail s).gates = s.gates := by
  unfold traceWait
  dsimp only
  split
  · obtain ⟨o, h⟩ := trace_cases (mkTrc kind epoch wf waiter layer start (s.now - start) false detail) s
    rw [h]
  · rfl

@[simp] theorem takeFree_gates (s : State) : (takeFree s).2.gates = s.gates := rfl

@[simp] theorem markFrozen_gates (g : Nat) (s : State) : (markFrozen g s).gates = s.gates := by
  unfold markFrozen
  dsimp only
  split <;> rfl

@[simp] theorem giveBack_gates (p : Port) (n : Nat) (s : State) : (giveBack p n s).gates = s.gates := by
  unfold giveBack
  split <;> rfl

@[simp] theorem returnKept_gates (g tag : Nat) (s : State) : (returnKept g tag s).gates = s.gates := by
  unfold returnKept
  split
  · split
    · exact giveBack_gates ..
    · rfl
  · rfl

@[simp] theorem contestFor_gates (g p : Nat) (waiter : Bool) (s : State) : (contestFor g p waiter s).2.gates = s.gates := by
  unfold contestFor waiterWinner
  split
  · split <;> rfl
  · rfl

/-! ## Who requests what -/

/-- What a request asks for: whether it is raised, whether its lease lapsed, and its transfer (R220, R232). -/
def Req.asks (q : Req) : Bool × Bool × Nat := (q.requesting, q.lapsed, q.tag)

/-- What a requester of a gate asks for on a path. -/
def State.asks (s : State) (g p r : Nat) : Bool × Bool × Nat := ((s.gate g).req p r).asks

theorem asks_of_gates {s u : State} (same : u.gates = s.gates) (g p r : Nat) : u.asks g p r = s.asks g p r := by
  rw [State.asks, State.asks, gate_of_gates same]

theorem modPath_asks (g p q r : Nat) (f : PathSt → PathSt) (s : State) : (modPath g p f s).asks g q r = s.asks g q r :=
  congrArg Req.asks (modPath_gate_req ..)

/-- A change of a request that leaves what the request asks for leaves what every request of the gate asks for. -/
theorem modReq_asks {f : Req → Req} {g p r : Nat} {s : State} (keeps : (f ((s.gate g).req p r)).asks = s.asks g p r) (q k : Nat) :
    (modReq g p r f s).asks g q k = s.asks g q k := by
  by_cases key : 16 * q + k = 16 * p + r
  · have same : ∀ u : State, u.asks g q k = u.asks g p r := fun u => by rw [State.asks, State.asks, GateSt.req, GateSt.req, key]
    rw [same, same, State.asks, modReq_gate_req, keeps]
  · exact congrArg Req.asks (modReq_gate_req_other key ..)

theorem moveBeats_asks (g p n q r : Nat) (s : State) : (moveBeats g p n s).asks g q r = s.asks g q r := by
  unfold moveBeats
  dsimp only
  split
  · rfl
  · rw [asks_of_gates (bumpN_gates ..), State.asks, modGate_gate]
    exact (modReq_asks rfl q r).trans (modPath_asks ..)

theorem freeBeats_asks (g p q r : Nat) (s : State) : (freeBeats g p s).asks g q r = s.asks g q r := by
  unfold freeBeats
  dsimp only
  split
  · rfl
  · exact (moveBeats_asks ..).trans (asks_of_gates (takeFree_gates s) ..)

theorem otherBeats_asks (g p q r : Nat) (s : State) : (otherBeats g p s).asks g q r = s.asks g q r := by
  unfold otherBeats
  split
  · exact freeBeats_asks ..
  · rfl

/-! ## What the beats of the other path leave of a contest's terms (R222) -/

@[simp] theorem bumpN_regs (c n : Nat) (s : State) : (bumpN c n s).regs = s.regs := by
  obtain ⟨l, h⟩ | ⟨l, h⟩ := bumpN_cases c n s
  · rw [h]
  · rw [h]; rfl

@[simp] theorem moveBeats_regs (g p n : Nat) (s : State) : (moveBeats g p n s).regs = s.regs := by
  unfold moveBeats
  dsimp only
  split
  · rfl
  · rw [bumpN_regs]; rfl

theorem otherBeats_regs (g p : Nat) (s : State) : (otherBeats g p s).regs = s.regs := by
  unfold otherBeats freeBeats
  dsimp only
  split
  · split
    · rfl
    · exact moveBeats_regs ..
  · rfl

@[simp] theorem otherBeats_fld (g p : Nat) (s : State) (f : Fld) : (otherBeats g p s).fld f = s.fld f := by
  have grade : (otherBeats g p s).grade = s.grade := congrArg Core.grade (otherBeats_core g p s)
  rw [State.fld, State.fld, State.reg, State.reg, otherBeats_regs, grade]

theorem otherBeats_prio (g p : Nat) (s : State) : (otherBeats g p s).prio g = s.prio g :=
  funext fun _ => otherBeats_fld ..

theorem otherBeats_wants (g p q r : Nat) (s : State) : (otherBeats g p s).wants g q r = s.wants g q r := by
  have requesting := congrArg Prod.fst (otherBeats_asks g p q r s)
  simp only [State.asks, Req.asks] at requesting
  rw [State.wants, State.wants, State.on, State.on, otherBeats_fld, requesting]

theorem otherBeats_contesters (g p q : Nat) (s : State) : (otherBeats g p s).contesters g q = s.contesters g q := by
  simp only [State.contesters, otherBeats_wants]

/-! ## A contest (R223, R224) -/

theorem mem_contesters {s : State} {g p r : Nat} : r ∈ s.contesters g p ↔ r ∈ requesters g ∧ s.wants g p r = true :=
  List.mem_filter

theorem contesters_rising (s : State) (g p : Nat) : (s.contesters g p).Pairwise (· < ·) :=
  List.pairwise_lt_range.filter _

/-- The next grant of a path is a waiter grant: its number or one passed over makes it one, unless it follows a revocation by
priority (R224). -/
def State.waiterNext (s : State) (g p : Nat) (byPrio : Bool) : Bool :=
  (((s.gate g).path p).waiterDue || (((s.gate g).path p).grants + 1) % max 1 (s.fld (F.GATE_CFG_ROTN g)) == 0) && !byPrio

theorem waiterNext_false {s : State} {g p : Nat} {byPrio : Bool}
    (plain : byPrio = true ∨ (((s.gate g).path p).waiterDue = false ∧
      (((s.gate g).path p).grants + 1) % max 1 (s.fld (F.GATE_CFG_ROTN g)) ≠ 0)) : s.waiterNext g p byPrio = false := by
  unfold State.waiterNext
  obtain revoked | ⟨notDue, number⟩ := plain
  · rw [revoked, Bool.not_true, Bool.and_false]
  · rw [notDue, beq_eq_false_iff_ne.mpr number, Bool.or_false, Bool.false_and]

/-- A contest leaves the state as it is where none is held or no one wins; otherwise it makes its winner the owner of the path, and
beside the beats of the other path it changes no other path and no request. -/
theorem contest_cases (g p prev : Nat) (byPrio : Bool) (s : State) :
    ((((s.gate g).path p).owner.isSome ∨ s.contesters g p = [] ∨ s.gateFrozen g = true ∨
        (contestFor g p (s.waiterNext g p byPrio) (otherBeats g p s)).1 = none) ∧ contest g p prev byPrio s = s) ∨
      ∃ r f, (contestFor g p (s.waiterNext g p byPrio) (otherBeats g p s)).1 = some r ∧ (∀ x, (f x).owner = some r) ∧
        (contest g p prev byPrio s).gates = (modPath g p f (otherBeats g p s)).gates := by
  unfold contest
  dsimp only
  split
  case isTrue closed =>
    obtain owned | empty | frozen := closed
    · exact .inl ⟨.inl owned, rfl⟩
    · exact .inl ⟨.inr (.inl empty), rfl⟩
    · exact .inl ⟨.inr (.inr (.inl frozen)), rfl⟩
  case isFalse =>
    split
    case h_1 nobody => exact .inl ⟨.inr (.inr (.inr nobody)), rfl⟩
    case h_2 r won =>
      refine .inr ⟨r, ?_⟩
      apply Exists.intro
      refine ⟨won, ?owner, ?gates⟩
      case gates =>
        rw [traceWait_gates, bump_gates, ite_gates (bump_gates ..)]
        exact modPath_gates_congr (contestFor_gates ..) g p _
      case owner => exact fun _ => rfl

/-! ## The winner of a plain contest (R223) -/

theorem bestOf_isSome {α : Type} (lt : α → α → Bool) {l : List α} (nonempty : l ≠ []) : (bestOf lt l).isSome = true := by
  cases l with
  | nil => exact absurd rfl nonempty
  | cons a l =>
    unfold bestOf
    split
    · rfl
    · split <;> rfl

section
variable {lt : Nat → Nat → Bool} (asymm : ∀ a b, lt a b = true → lt b a = false)
  (notTrans : ∀ a b c, lt a b = false → lt b c = false → lt a c = false)
include asymm notTrans

/-- On a list in rising order, nothing is better than the best of it, and what the best is not better than stands behind it. -/
theorem bestOf_rising {l : List Nat} (rising : l.Pairwise (· < ·)) {r : Nat} (best : bestOf lt l = some r) :
    r ∈ l ∧ ∀ k, k ∈ l → lt k r = false ∧ (lt r k = true ∨ r ≤ k) := by
  have irrefl (a : Nat) : lt a a = false := Bool.eq_false_iff.mpr fun h => Bool.false_ne_true ((asymm a a h).symm.trans h)
  induction l generalizing r with
  | nil => cases best
  | cons a l ih =>
    obtain ⟨least, rising⟩ := List.pairwise_cons.mp rising
    unfold bestOf at best
    split at best
    case h_1 nobody =>
      have empty : l = [] := Classical.byContradiction fun nonempty =>
        Bool.false_ne_true ((congrArg Option.isSome nobody).symm.trans (bestOf_isSome lt nonempty))
      cases best
      subst empty
      refine ⟨List.mem_cons_self, fun k member => ?_⟩
      obtain rfl := List.mem_singleton.mp member
      exact ⟨irrefl k, .inr (Nat.le_refl k)⟩
    case h_2 b bestRest =>
      obtain ⟨mem, greatest⟩ := ih rising bestRest
      split at best
      case isTrue better =>
        cases best
        refine ⟨List.mem_cons_of_mem _ mem, fun k member => ?_⟩
        obtain rfl | member := List.mem_cons.mp member
        · exact ⟨asymm _ _ better, .inl better⟩
        · exact greatest k member
      case isFalse notBetter =>
        cases best
        refine ⟨List.mem_cons_self, fun k member => ?_⟩
        obtain rfl | member := List.mem_cons.mp member
        · exact ⟨irrefl k, .inr (Nat.le_refl k)⟩
        · obtain ⟨notAbove, _⟩ := greatest k member
          exact ⟨notTrans k b a notAbove (Bool.eq_false_iff.mpr notBetter), .inr (Nat.le_of_lt (least k member))⟩

end

/-- A requester beats another in a plain contest before the index is asked: by PRIO, then by the counter (R223). -/
def State.beats (s : State) (g a b : Nat) : Bool :=
  decide (s.prio g b < s.prio g a) || (s.prio g a == s.prio g b && decide (s.gateCredit g b < s.gateCredit g a))

theorem contestWinner_eq (s : State) (g : Nat) (l : List Nat) : s.contestWinner g l = bestOf (s.beats g) l := rfl

theorem beats_iff {s : State} {g a b : Nat} : s.beats g a b = true ↔
    s.prio g b < s.prio g a ∨ (s.prio g a = s.prio g b ∧ s.gateCredit g b < s.gateCredit g a) := by
  rw [State.beats, Bool.or_eq_true, Bool.and_eq_true, decide_eq_true_iff, decide_eq_true_iff, beq_iff_eq]

theorem beats_asymm (s : State) (g a b : Nat) (h : s.beats g a b = true) : s.beats g b a = false := by
  rw [← Bool.not_eq_true, beats_iff]
  rw [beats_iff] at h
  omega

theorem not_beats_trans (s : State) (g a b c : Nat) (h : s.beats g a b = false) (k : s.beats g b c = false) :
    s.beats g a c = false := by
  rw [← Bool.not_eq_true, beats_iff] at *
  omega

/-- The winner of a plain contest has the highest PRIO, then the fullest counter, then the lowest index (R223). -/
theorem contestWinner_best {s : State} {g : Nat} {l : List Nat} (rising : l.Pairwise (· < ·)) {r : Nat}
    (won : s.contestWinner g l = some r) :
    r ∈ l ∧ ∀ k, k ∈ l → s.prio g k < s.prio g r ∨
      (s.prio g k = s.prio g r ∧ (s.gateCredit g k < s.gateCredit g r ∨ (s.gateCredit g k = s.gateCredit g r ∧ r ≤ k))) := by
  rw [contestWinner_eq] at won
  obtain ⟨mem, greatest⟩ := bestOf_rising (beats_asymm s g) (not_beats_trans s g) rising won
  refine ⟨mem, fun k member => ?_⟩
  obtain ⟨unbeaten, before⟩ := greatest k member
  rw [← Bool.not_eq_true, beats_iff] at unbeaten
  rw [beats_iff] at before
  omega

/-- Settles O53: a contest that is no waiter's gives the path to the winner by PRIO, counter and index, read once the other path's beats
are known (R222, R223; that a free number of them has moved is the model's choice, log entry 59). -/
theorem contestPicksOwner : Obligations.ContestPicksOwner := by
  intro s g p prev byPrio idle thawed plain contested
  obtain ⟨k, member, wants⟩ := contested
  have waits : s.contesters g p ≠ [] := List.ne_nil_of_mem (mem_contesters.mpr ⟨member, wants⟩)
  have winner : (contestFor g p (s.waiterNext g p byPrio) (otherBeats g p s)).1 =
      (otherBeats g p s).contestWinner g (s.contesters g p) := by
    rw [waiterNext_false plain, contestFor, if_neg Bool.false_ne_true, otherBeats_contesters]
  have picked := contest_cases g p prev byPrio s
  rw [winner] at picked
  obtain ⟨owned | empty | frozen | nobody, _⟩ | ⟨r, f, won, owns, gates⟩ := picked
  · simp [idle] at owned
  · exact absurd empty waits
  · simp [thawed] at frozen
  · have won : ((otherBeats g p s).contestWinner g (s.contesters g p)).isSome = true := bestOf_isSome _ waits
    simp [nobody] at won
  · obtain ⟨mem, best⟩ := contestWinner_best (contesters_rising s g p) won
    obtain ⟨listed, wants⟩ := mem_contesters.mp mem
    rw [otherBeats_prio] at best
    refine ⟨r, otherBeats g p s, rfl, fun other => if_neg other, ?_, listed, wants,
      fun k listed wants => best k (mem_contesters.mpr ⟨listed, wants⟩)⟩
    rw [gate_of_gates gates, modPath_gate_path, owns]

/-! ## What the steps of a request leave of it (R220, R225, R232) -/

theorem contest_asks (g p prev : Nat) (byPrio : Bool) (q r : Nat) (s : State) :
    (contest g p prev byPrio s).asks g q r = s.asks g q r := by
  obtain ⟨_, same⟩ | ⟨_, f, _, _, gates⟩ := contest_cases g p prev byPrio s
  · rw [same]
  · rw [asks_of_gates gates, modPath_asks, otherBeats_asks]

theorem rejoin_asks (g p q r : Nat) (s : State) : (rejoin g p s).asks g q r = s.asks g q r := by
  have waiter (b : Bool) : (contestFor g p b s).2.asks g q r = s.asks g q r := asks_of_gates (contestFor_gates ..) ..
  unfold rejoin
  dsimp only
  split
  · rfl
  · split
    · rfl
    · split
      · exact waiter _
      · rw [asks_of_gates (bump_gates ..), asks_of_gates (ite_gates (bump_gates ..)), modPath_asks, asks_of_gates (unbump_gates ..),
          asks_of_gates (ite_gates (unbump_gates ..)), waiter]

/-- The end of a grant drops a request only where its lease has lapsed (R232). -/
theorem endGrant_asks {g p r : Nat} {s : State} (kept : ((s.gate g).req p r).lapsed = false) :
    (endGrant g p s).asks g p r = s.asks g p r := by
  unfold endGrant
  dsimp only
  split
  case h_1 => rfl
  case h_2 k _ =>
    rw [asks_of_gates (ite_gates (returnKept_gates ..))]
    by_cases owner : r = k
    · subst owner
      refine (modReq_asks ?_ p r).trans (modPath_asks ..)
      simp [State.asks, Req.asks, modPath_gate_req, kept]
    · exact (congrArg Req.asks (modReq_gate_req_other (by omega) ..)).trans (modPath_asks ..)

theorem revokeGrant_asks {g p r : Nat} {s : State} (kept : ((s.gate g).req p r).lapsed = false) :
    (revokeGrant g p s).asks g p r = s.asks g p r := by
  unfold revokeGrant
  dsimp only
  split
  · rfl
  · have flagged (c n : Nat) (f : Fld) : (bump c (setFld f n s)).gates = s.gates := bump_gates ..
    rw [endGrant_asks (by rwa [gate_of_gates (flagged ..)]), asks_of_gates (flagged ..)]

theorem preempt_asks {g p r : Nat} {s : State} (kept : ((s.gate g).req p r).lapsed = false) :
    (preempt g p s).asks g p r = s.asks g p r := by
  unfold preempt
  dsimp only
  split
  · rfl
  · split
    · rw [contest_asks, revokeGrant_asks kept]
    · rfl

theorem lapsed_of_asks {s u : State} {g p r : Nat} (same : u.asks g p r = s.asks g p r) :
    ((u.gate g).req p r).lapsed = ((s.gate g).req p r).lapsed :=
  congrArg (fun a => a.2.1) same

/-- A requester that may raise its request does so with the transfer's TAG, whatever becomes of the path (R220, R225). -/
theorem gateRequest_asks {g p r tag : Nat} {s : State} (n : Nat) (may : s.mayRequest g p r tag = true)
    (idle : ((s.gate g).req p r).requesting = false) (covered : ((s.gate g).req p r).lapsed = false) :
    (gateRequest g p r tag n s).asks g p r = (true, false, tag) := by
  unfold gateRequest
  dsimp only
  rw [if_neg (by simp [may, idle, covered])]
  generalize raised : moveBeats g p n (modReq g p r _ s) = y
  have asks : y.asks g p r = (true, false, tag) := by
    rw [← raised, moveBeats_asks, State.asks, modReq_gate_req]
    rfl
  have kept : ((y.gate g).req p r).lapsed = false := congrArg (fun a => a.2.1) asks
  rw [← asks]
  split
  case isTrue frozen => exact asks_of_gates (markFrozen_gates ..) ..
  case isFalse =>
    split
    case h_1 pathIdle => rw [modPath_asks, contest_asks]
    case h_2 =>
      have joined : (rejoin g p (takeFree y).2).asks g p r = y.asks g p r := rejoin_asks ..
      split
      · split
        · rw [preempt_asks ((lapsed_of_asks joined).trans kept), joined]
        · exact preempt_asks kept
      · exact preempt_asks kept

/-- A request that is raised already, that names no transfer of its requester's, or whose lapsed lease is not drawn anew, is not raised. -/
theorem gateRequest_of_refused {g p r tag : Nat} {s : State} (n : Nat) (refused : s.mayRequest g p r tag = false ∨
    ((s.gate g).req p r).requesting = true ∨
    (((s.gate g).req p r).lapsed = true ∧ ((s.gate g).req p r).tag = tag ∧ s.leasedAgain g tag = false)) :
    gateRequest g p r tag n s = s := by
  unfold gateRequest
  dsimp only
  refine if_pos ?_
  obtain may | raised | ⟨lapsed, same, lease⟩ := refused
  · simp [may]
  · simp [raised]
  · simp [lapsed, same, lease]

@[simp] theorem tick_mayRequest (t : BitVec 64) (s : State) (g p r tag : Nat) :
    (tick t s).mayRequest g p r tag = s.mayRequest g p r tag := by
  simp only [State.mayRequest, tick_seq, tick_desc]

theorem gateRequest_of_mainOn (t : BitVec 64) (g : Gate) (r : BitVec 4) (p : BitVec 1) (tag : BitVec 24) (n : BitVec 32)
    {s : State} (on : s.mainOn = true) : exec (.gateRequest t g r p tag n) s =
      .next (gateDone (gateRequest (gateNo g) p.toNat r.toNat tag.toNat n.toNat (tick t s))) := by
  change execGateRequest t g r p tag n s = _
  unfold execGateRequest
  rw [if_neg (by simp [on])]

/-- Settles O54: by what the request asks for after it is raised, which neither the beats, nor a contest, nor a revocation of the owner
moves, and by the frame of the gates' work. (The model's own operation has the obligation's name.) -/
theorem gateRequestRaised : Obligations.GateRequest := by
  refine ⟨fun t g r p tag n s on may idle covered => ?_, fun g p r tag n s refused => gateRequest_of_refused n refused⟩
  have asks : (gateRequest (gateNo g) p.toNat r.toNat tag.toNat n.toNat (tick t s)).asks (gateNo g) p.toNat r.toNat =
      (true, false, tag.toNat) :=
    gateRequest_asks n.toNat (by rwa [tick_mayRequest]) (by rwa [tick_gate]) (by rwa [tick_gate])
  exact ⟨_, gateRequest_of_mainOn t g r p tag n on, congrArg (·.1) asks, congrArg (·.2.2) asks, gateRequest_gateFrame ..⟩

end Sys2Proof.Machine

namespace Sys2Proof.Machine

/-! # Links, credit, unknown messages and the opening of ports -/

/-! ## Counters after a count -/

theorem bumpN_cnt_self (c n : Nat) (s : State) : (bumpN c n s).cnt c = satAdd48 (s.cnt c) n := by
  unfold bumpN State.cnt
  split
  · exact tget_tput_self ..
  · exact tget_tput_self ..

theorem bumpN_cnt_other {c d : Nat} (other : d ≠ c) (n : Nat) (s : State) : (bumpN c n s).cnt d = s.cnt d := by
  unfold bumpN State.cnt
  split
  · split
    · exact tget_tput_other _ _ _ _ other
    · rfl
  · split
    · rfl
    · exact tget_tput_other _ _ _ _ other

/-- The counters of a port belong to the observation state (R285). -/
theorem portCnt_eq (p : Port) {k : Nat} (three : k < 3) (n : Nat) (s : State) :
    portCnt p k n s = { s with obs := (portCnt p k n s).obs } := by
  unfold portCnt
  split
  · exact bumpN_eq (by omega) n s
  · rfl

/-- A port counts nothing on the counters that all ports share (R285). -/
theorem portCnt_cnt_shared (p : Port) {k c : Nat} (three : k < 3) (shared : 0xF0 ≤ c) (n : Nat) (s : State) :
    (portCnt p k n s).cnt c = s.cnt c := by
  unfold portCnt
  split
  · exact bumpN_cnt_other (by omega) n s
  · rfl

/-! ## A session after a change of it -/

@[simp] theorem modSess_sess (p : Port) (peer : Nat) (f : Sess → Sess) (s : State) :
    (modSess p peer f s).sess p peer = f (s.sess p peer) := tget_tput_self ..

/-! ## Links (R240, R265, R321) -/

/-- The block takes reports of a link: of a port with sessions, after the start and before a sag, and of port G alone in fallow. -/
theorem linkReport_taken {p : Port} {s : State} (sessions : hasSessions p = true) (started : s.pwr.started = true)
    (noSag : s.pwr.state ≠ 5) (awake : p = .G ∨ s.pwr.state ≠ 3) :
    (!hasSessions p || !s.pwr.started || s.pwr.state == 5 || (p != .G && s.pwr.state == 3)) = false := by
  simp only [sessions, started, beq_eq_false_iff_ne.mpr noSag, Bool.not_true, Bool.false_or]
  obtain rfl | notFallow := awake
  · rfl
  · rw [beq_eq_false_iff_ne.mpr notFallow, Bool.and_false]

/-- A message that leaves moves the record of what left, the counts, and the leases that it keeps alive (R112, R285). -/
theorem depart_eq (m : Msg) (s : State) : depart m s = { s with
    egress := m :: s.egress, obs := (depart m s).obs, deals := { s.deals with leases := (depart m s).deals.leases } } := by
  unfold depart
  dsimp only
  split
  · rw [bump, bumpN_eq (by decide)]
    rfl
  · rw [portCnt_eq _ (by decide)]
    split <;> rfl

section
variable (m : Msg) (s : State)

@[simp] theorem depart_regs : (depart m s).regs = s.regs := by rw [depart_eq]

@[simp] theorem depart_led : (depart m s).led = s.led := by rw [depart_eq]

@[simp] theorem depart_tenants : (depart m s).tenants = s.tenants := by rw [depart_eq]

@[simp] theorem depart_ports : (depart m s).ports = s.ports := by rw [depart_eq]

@[simp] theorem depart_egress : (depart m s).egress = m :: s.egress := by rw [depart_eq]

theorem depart_deals : (depart m s).deals = { s.deals with leases := (depart m s).deals.leases } := by rw [depart_eq]

end

/-- HELLO leaves its port, and the session knows that it has (R240, R247). -/
theorem sendHello_eq (p : Port) (peer : Nat) (s : State) : ∃ m, m.port = p ∧ m.peer = peer ∧ m.op = 0x01 ∧
    sendHello p peer s = modSess p peer (fun e => { e with heloOut := true }) (depart m s) :=
  ⟨_, rfl, rfl, rfl, rfl⟩

section
variable {p : Port} {peer : Nat} {s : State} (down : (s.sess p peer).linkUp = false)
include down

theorem linkRaise_of_powered (power : s.powered p = true) :
    linkRaise p peer s = sendHello p peer (modSess p peer (fun e => { e with linkUp := true }) s) := by
  unfold linkRaise
  rw [if_neg (by simp [down])]
  exact if_pos power

/-- Without power the port notes that its link is up; HELLO leaves when power comes (log entry 17). -/
theorem linkRaise_of_unpowered (dark : s.powered p = false) :
    linkRaise p peer s = modSess p peer (fun e => { e with linkUp := true }) s := by
  unfold linkRaise
  rw [if_neg (by simp [down])]
  exact if_neg (Bool.eq_false_iff.mp dark)

end

theorem linkUp_raises (t : BitVec 64) {p : Port} (peer : BitVec 6) {s : State} (sessions : hasSessions p = true)
    (started : s.pwr.started = true) (noSag : s.pwr.state ≠ 5) (awake : p = .G ∨ s.pwr.state ≠ 3) :
    exec (.linkUp t p peer) s = .next (linkRaise p peer.toNat (tick t s)) := by
  change execLinkUp t p peer s = _
  unfold execLinkUp
  simp only [tick_pwr]
  exact if_neg (Bool.eq_false_iff.mp (linkReport_taken sessions started noSag awake))

/-- Settles O25: with power HELLO leaves, which is one message more, and without it only the session's report of the link changes
(log entry 17). -/
theorem linkUp : Obligations.LinkUp := by
  intro t p peer s sessions started noSag awake down
  have down : ((tick t s).sess p peer.toNat).linkUp = false := by rwa [tick_sess]
  refine ⟨_, linkUp_raises t peer sessions started noSag awake, ?_⟩
  rw [linkRaise_core, ← tick_powered t]
  cases power : (tick t s).powered p with
  | false =>
    rw [linkRaise_of_unpowered down power]
    exact ⟨by rw [modSess_sess], nofun, fun _ => rfl, rfl, tick_led .., tick_tenants .., tick_regs ..,
      by rw [modSess_deals, tick_deals]⟩
  | true =>
    obtain ⟨m, -, -, -, hello⟩ := sendHello_eq p peer.toNat (modSess p peer.toNat (fun e => { e with linkUp := true }) (tick t s))
    rw [linkRaise_of_powered down power, hello]
    refine ⟨?_, fun _ => ⟨by rw [modSess_sess], ?_⟩, nofun, rfl, ?_⟩
    · rw [modSess_sess, sess_of_ports (depart_ports ..), modSess_sess]
    · simp only [modSess_egress, depart_egress, List.length_cons, tick_egress]
    · simp only [modSess_led, depart_led, modSess_tenants, depart_tenants, modSess_regs, depart_regs, tick_led, tick_tenants, tick_regs,
        true_and]
      rw [modSess_deals, depart_deals, modSess_deals, tick_deals]

theorem linkDown_drops (t : BitVec 64) (p : Port) (peer : BitVec 6) (s : State) (sessions : hasSessions p = true)
    (started : s.pwr.started = true) (noSag : s.pwr.state ≠ 5) (awake : p = .G ∨ s.pwr.state ≠ 3) :
    exec (.linkDown t p peer) s = .next (finish (linkDrop p peer.toNat (tick t s))) := by
  change execLinkDown t p peer s = _
  unfold execLinkDown
  simp only [tick_pwr]
  exact if_neg (Bool.eq_false_iff.mp (linkReport_taken sessions started noSag awake))

/-- PORT_DROP that the port takes: every live session of it ends (R241, R262, R322). -/
theorem portDrop_ends (t : BitVec 64) (p : Port) (s : State) (power : s.powered p = true) (taken : p = .G ∨ s.cmdOn = true) :
    exec (.portDrop t p) s = .next (finish (dropPort p (tick t s))) := by
  change execPortDrop t p s = _
  unfold execPortDrop portDropWrite
  rw [tick_powered, tick_cmdOn, if_neg (by obtain rfl | on := taken <;> simp [*])]

/-- Settles O26: by what `linkDrop` and `dropPort` do to a live session, which is to end it. A partner's NODEID and ERA stay with a link
that is down (log entry 24). -/
theorem linkDownAndDrop : Obligations.LinkDownAndDrop := by
  refine ⟨fun t p peer s sessions started noSag awake => ?_, fun t p s power taken => ?_⟩
  · rw [linkDown_drops t p peer s sessions started noSag awake, linkDrop, dropSession, tick_live]
  · rw [portDrop_ends t p s power taken, dropPort, tick_peersOf]

/-! ## CREDIT (R240, R242, R245, R247, R258) -/

theorem credit_of_powered (t : BitVec 64) {p : Port} (peer : BitVec 6) (opened : Bool) (beats : BitVec 40)
    (es : List (BitVec 4 × BitVec 20)) {s : State} (sessions : hasSessions p = true) (power : s.powered p = true) :
    exec (.credit t p peer opened beats es) s = .next (finish (creditTaken p peer.toNat opened beats.toNat es (tick t s))) := by
  change execCredit t p peer opened beats es s = _
  unfold execCredit
  simp only [tick_powered]
  exact if_neg (by simp [sessions, power])

@[simp] theorem portCnt_live (q : Port) (k n : Nat) (s : State) (p : Port) (peer : Nat) :
    (portCnt q k n s).live p peer = s.live p peer := live_of_ports (portCnt_ports ..) ..

section
variable {p : Port} {peer : Nat} (opened : Bool) (beats : Nat) {es : List (BitVec 4 × BitVec 20)} {s : State}

/-- CREDIT outside a session is STRAY (R240). -/
theorem creditTaken_of_stray (dead : s.live p peer = false) : creditTaken p peer opened beats es s =
    setFlag (F.PORT_FLAGS_STRAY (portNo p)) (bump 0xFB (portCnt p 0 1 s)) := by
  unfold creditTaken
  simp only [portCnt_live, dead, Bool.not_false, if_true]

/-- CREDIT of a live session, within the entries that its format allows, is added (R242, R245, R247). -/
theorem creditTaken_of_live (live : s.live p peer = true) (short : es.length ≤ 8) : creditTaken p peer opened beats es s =
    modSess p peer (fun e =>
      let e := Sess.moveOwed (each addCredit es { e with outPay := e.outPay + beats })
      if opened then { e with popen := true, ogreet := 0 } else e) (portCnt p 0 1 s) := by
  unfold creditTaken
  simp only [portCnt_live, live, Bool.not_true, Bool.false_eq_true, if_false, if_neg (Nat.not_lt.mpr short)]

end

theorem egressCredit_added (t : BitVec 64) (g : BitVec 6) (n : BitVec 32) (s : State) (on : s.mainOn = true) :
    exec (.fabricEgressCredit t g n) s = .next (finish (drainF (modPorts (fun q => { q with
      fCredit := tput 0 q.fCredit g.toNat (tget 0 q.fCredit g.toNat + n.toNat) }) (tick t s)))) := by
  change execFabricEgressCredit t g n s = _
  unfold execFabricEgressCredit
  rw [if_neg (by simp [on])]

/-- Settles O28: CREDIT by whether its session is live, and egress credit by its command. -/
theorem creditAdds : Obligations.CreditAdds := by
  refine ⟨fun t p peer opened beats es s sessions power short => ?_, egressCredit_added⟩
  rw [credit_of_powered t peer opened beats es sessions power]
  refine ⟨fun live => ?_, fun dead => ?_⟩
  · rw [creditTaken_of_live _ _ (by rwa [tick_live]) short]
  · rw [creditTaken_of_stray _ _ (by rwa [tick_live])]

/-! ## Messages that a port does not carry (R238, R285) -/

/-- A message that its open port does not carry, or of a wrong LENGTH, is flagged and counted after the port's own count. -/
theorem unknownTaken_of_open {p : Port} {peer op : Nat} {bad : Bool} {s : State}
    (taken : p = .F ∨ (s.live p peer = true ∧ s.portOpen p = true ∧ (op ≠ 3 ∨ bad = true))) (w : Word) :
    ∃ x, unknownTaken p peer bad op w s =
        setFlag (if bad then F.PORT_FLAGS_BADLEN (portNo p) else F.PORT_FLAGS_BADOP (portNo p)) (bump 0xFA x) ∧
      x = { s with obs := x.obs } ∧ x.cnt 0xFA = s.cnt 0xFA := by
  by_cases fabric : p = .F
  · exact ⟨bump 0xFE s, if_pos fabric, bumpN_eq (by decide) 1 s, bumpN_cnt_other (by decide) 1 s⟩
  · obtain ⟨live, opened, notReady⟩ := taken.resolve_left fabric
    have opened : (portCnt p 0 1 s).portOpen p = true := (portOpen_of_ports (portCnt_ports ..) p).trans opened
    have carried : ¬(op = 3 ∧ bad = false) := fun ⟨three, good⟩ => notReady.elim (absurd three) (by simp [good])
    refine ⟨portCnt p 0 1 s, ?_, portCnt_eq p (by decide) 1 s, portCnt_cnt_shared p (by decide) (by decide) 1 s⟩
    unfold unknownTaken
    simp only [if_neg fabric, portCnt_live, live, opened, if_neg carried, Bool.not_true, Bool.false_eq_true, if_false]

theorem unknownMessage_of_powered (t : BitVec 64) {p : Port} (peer : BitVec 6) (bad : Bool) (op : BitVec 8) (w : Word) {s : State}
    (notM : p ≠ .M) (power : s.powered p = true) :
    exec (.unknownMessage t p peer bad op w) s = .next (unknownTaken p peer.toNat bad op.toNat w (tick t s)) := by
  change execUnknownMessage t p peer bad op w s = _
  unfold execUnknownMessage
  simp only [tick_powered]
  exact if_neg (by simp [notM, power])

/-- Settles O29: the message is flagged and counted, and nothing acts. -/
theorem unknownMessagesCounted : Obligations.UnknownMessagesCounted := by
  intro t p peer bad op w s notM power taken
  have taken : p = .F ∨ ((tick t s).live p peer.toNat = true ∧ (tick t s).portOpen p = true ∧ (op.toNat ≠ 3 ∨ bad = true)) := by
    rw [tick_live, tick_portOpen]
    exact taken.imp_right (And.imp_right (And.imp_right (Or.imp_left fun other three => other (BitVec.eq_of_toNat_eq three))))
  obtain ⟨x, discarded, front, sameCount⟩ := unknownTaken_of_open taken w
  refine ⟨_, unknownMessage_of_powered t peer bad op w notM power, ?_, ?_⟩
  · rw [discarded, bump, bumpN_eq (by decide), front]
    rfl
  · rw [discarded, ← tick_cnt t s, ← sameCount]
    exact bumpN_cnt_self 0xFA 1 x

/-! ## Which ports are open (R245)

The opening of a port moves the payloads that wait for its gate (R220, R272), so every effect that such a payload can have is read here:
none of them opens or closes a port. -/

/-- The ports that have left their greeting phase (R245), read from the calm view so that its laws say what keeps them. -/
abbrev State.opened (s : State) : List Nat := s.calm.ports.open_

theorem portOpen_eq (s : State) (p : Port) : s.portOpen p = (s.opened.contains (portNo p) || p == .M) := rfl

theorem opened_of_calm {s u : State} (h : u.calm = s.calm) : u.opened = s.opened := congrArg (·.ports.open_) h

theorem opened_of_gateFrame {s u : State} (h : gateFrame s u) : u.opened = s.opened := by
  rw [h]
  rfl

theorem ite_opened {c : Prop} [Decidable c] (a b : State) : (if c then a else b).opened = if c then a.opened else b.opened := by
  split <;> rfl

theorem each_opened {α : Type} {f : α → State → State} (h : ∀ a s, (f a s).opened = s.opened) (l : List α) (s : State) :
    (each f l s).opened = s.opened := by
  induction l generalizing s with
  | nil => rfl
  | cons a l ih => exact (ih _).trans (h a s)

theorem each2_opened {α β : Type} {f : α → β × State → β × State} (h : ∀ a p, (f a p).2.opened = p.2.opened) (l : List α)
    (p : β × State) : (each f l p).2.opened = p.2.opened := by
  induction l generalizing p with
  | nil => rfl
  | cons a l ih => exact (ih _).trans (h a p)

theorem modKv_opened (f : Kv → Kv) (s : State) : (modKv f s).opened = s.opened := rfl

theorem modDeals_opened (f : Deals → Deals) (s : State) : (modDeals f s).opened = s.opened := rfl

theorem modSeq_opened (f : Seq → Seq) (s : State) : (modSeq f s).opened = s.opened := rfl

theorem modSieve_opened (f : SieveSt → SieveSt) (s : State) : (modSieve f s).opened = s.opened := rfl

theorem modPwr_opened (f : Power → Power) (s : State) : (modPwr f s).opened = s.opened := rfl

/-! ### A seat's lookup and its route (R169 to R179, R193) -/

theorem modLookup_opened (i : Nat) (f : Lookup → Lookup) (s : State) : (modLookup i f s).opened = s.opened := rfl

theorem endTag_opened (n : Nat) (s : State) : (endTag n s).opened = s.opened := rfl

theorem discardFetch_opened (b : Nat) (s : State) : (discardFetch b s).opened = s.opened := by
  simp only [discardFetch, State.opened, clearLocal_calm, modBlk_calm]

theorem traceFetchWait_opened (b since i : Nat) (s : State) : (traceFetchWait b since i s).opened = s.opened := by
  unfold traceFetchWait
  split <;> simp only [State.opened, traceWait_calm]

theorem linkRun_opened : ∀ (l : List Nat) (s : State), (linkRun l s).opened = s.opened
  | _ :: b :: r, _ => linkRun_opened (b :: r) _
  | [_], _ => rfl
  | [], _ => rfl

theorem routeLocal_opened (i : Nat) (s : State) : (routeLocal i s).opened = s.opened := rfl

theorem appendBlock_opened (i b : Nat) (s : State) : (appendBlock i b s).opened = s.opened := by
  simp only [appendBlock, State.opened, modBlk_calm, modSeat_calm, ite_opened, ite_self]

theorem takeBlock_opened {s u : State} {b : Nat} (h : takeBlock s = some (b, u)) : u.opened = s.opened := by
  unfold takeBlock at h
  split at h
  · cases h
    rfl
  · split at h
    · cases h
      simp only [State.opened, bump_calm, modBlk_calm, clearLocal_calm]
    · cases h

theorem newBlock_opened {i : Nat} {st : BlkState} {s u : State} {b : Nat} (h : newBlock i st s = some (b, u)) :
    u.opened = s.opened := by
  unfold newBlock at h
  split at h
  · cases h
  · next taken =>
    cases h
    have before := takeBlock_opened taken
    exact (opened_of_calm (modBlk_calm ..)).trans before

theorem growChain_opened (i : Nat) (st : BlkState) (n : Nat) (s : State) : (growChain i st n s).2.opened = s.opened := by
  induction n generalizing s with
  | zero => rfl
  | succ n ih =>
    unfold growChain
    split
    · rfl
    · next block => rw [ih, appendBlock_opened, newBlock_opened block]

theorem raiseShared_opened (i : Nat) (run : List Nat) (s : State) : (raiseShared i run s).opened = s.opened :=
  each2_opened (fun _ _ => by simp only [State.opened, ite_opened, modSeat_calm, ite_self]) run (0, s)

theorem recordLookup_opened (i : Nat) (run : List Nat) (fetched why : Nat) (s : State) :
    (recordLookup i run fetched why s).opened = s.opened := by
  simp only [recordLookup, State.opened, raiseShared_opened, bump_calm, bumpN_calm, modSeat_calm, setReg_calm]

theorem updHitFrac_opened (i h : Nat) (s : State) : (updHitFrac i h s).opened = s.opened := by
  simp only [updHitFrac, State.opened, modTenant_calm, ite_opened, ite_self]

theorem shipSeat_opened (i : Nat) (s : State) : (shipSeat i s).opened = s.opened := by
  simp only [shipSeat, State.opened, routeLocal_opened, growChain_opened, bump_calm, modSeat_calm, modSess_calm, modSide_calm,
    putBlock_calm, setFlag_calm, stretchFail_calm, each_opened, implies_true, ite_opened, ite_self]

theorem routeSeat_opened (i : Nat) (s : State) : (routeSeat i s).opened = s.opened := by
  simp only [routeSeat, State.opened, routeLocal_opened, shipSeat_opened, ite_opened, ite_self]

theorem fillStretch_opened (i : Nat) (s : State) : (fillStretch i s).opened = s.opened := by
  unfold fillStretch
  dsimp only
  split
  · rfl
  · split
    · exact shipSeat_opened ..
    · split
      · simp only [State.opened, stretchFail_calm, setFlag_calm, bump_calm, growChain_opened]
      · exact (each2_opened (by intros; rfl) _ _).trans (growChain_opened ..)

theorem endFollowerLookup_opened (i : Nat) (run : List Nat) (fetched why : Nat) (s : State) :
    (endFollowerLookup i run fetched why s).opened = s.opened := by
  simp only [endFollowerLookup, freePagesOf, State.opened, linkRun_opened, recordLookup_opened, fillStretch_opened,
    modSide_calm, sendSplitOpened_calm, setChain_calm]

theorem endLookup_opened (i : Nat) (run : List Nat) (fetched why : Nat) (s : State) :
    (endLookup i run fetched why s).opened = s.opened := by
  simp only [endLookup, freePagesOf, State.opened, linkRun_opened, recordLookup_opened, updHitFrac_opened, routeSeat_opened,
    endFollowerLookup_opened, debit_calm, modSeat_calm, modSide_calm, setChain_calm, ite_opened, ite_self]

theorem tryEndLookup_opened (i : Nat) (s : State) : (tryEndLookup i s).opened = s.opened := by
  unfold tryEndLookup
  split <;> simp only [State.opened, endLookup_opened, ite_opened, ite_self]

theorem cutRun_opened (i n why : Nat) (s : State) : (cutRun i n why s).opened = s.opened := by
  unfold cutRun
  split <;> simp only [State.opened, modLookup_opened, dropRef_calm, each_opened, implies_true]

theorem verifyOne_opened (i k : Nat) (s : State) : (verifyOne i k s).opened = s.opened := by
  unfold verifyOne
  repeat' split
  all_goals simp only [State.opened, modLookup_opened, cutRun_opened, mismatch_calm]

theorem verifyArrived_opened (i f : Nat) (s : State) : (verifyArrived i f s).opened = s.opened := by
  induction f generalizing s with
  | zero => rfl
  | succ f ih =>
    unfold verifyArrived
    repeat' split
    all_goals simp only [ih, verifyOne_opened]

theorem afterVerify_opened (i : Nat) (s : State) : (afterVerify i s).opened = s.opened := by
  unfold afterVerify
  split <;> simp only [State.opened, tryEndLookup_opened, verifyArrived_opened]

theorem fetchArrived_opened (b since : Nat) (c : BlockTag) (s : State) : (fetchArrived b since c s).opened = s.opened := by
  simp only [fetchArrived, State.opened, each_opened, traceFetchWait_opened, afterVerify_opened, bump_calm, modBlk_calm, implies_true]

/-! ### A spilled seat that comes back (R59, R175) -/

theorem backDone_opened (i : Nat) (s : State) : (backDone i s).opened = s.opened := by
  simp only [backDone, State.opened, bump_calm, dropImage_calm, modSeat_calm, modSide_calm]

theorem tryBackDone_opened (i : Nat) (s : State) : (tryBackDone i s).opened = s.opened := by
  unfold tryBackDone
  split <;> simp only [State.opened, backDone_opened, ite_opened, ite_self]

theorem backArrived_opened (i g b : Nat) (c : BlockTag) (s : State) : (backArrived i g b c s).opened = s.opened := by
  simp only [backArrived, State.opened, tryBackDone_opened, bump_calm, closeSeat_calm, mismatch_calm, modBlk_calm, modSide_calm,
    ite_opened, ite_self]

/-! ### Fetched blocks (R178, R194) -/

theorem fetchData_opened (tag : Nat) (c : BlockTag) (s : State) : (fetchData tag c s).opened = s.opened := by
  unfold fetchData
  split <;> simp only [State.opened, endTag_opened, discardFetch_opened, fetchArrived_opened, backArrived_opened, bump_calm,
    modBlk_calm, stretchStep_calm, ite_opened, ite_self]

theorem kvDataIn_opened (tag : Nat) (c : BlockTag) (s : State) : (kvDataIn tag c s).opened = s.opened := by
  simp only [kvDataIn, State.opened, fetchData_opened, finish_calm]

/-! ### An OPEN that is decided (R51, R52) -/

theorem refuse_opened (i code : Nat) (s : State) : (refuse i code s).opened = s.opened := by
  simp only [refuse, State.opened, bump_calm, modSide_calm, sendFor_calm]

theorem backBlock_opened (i : Nat) (e : ImgBlock) (p : Bool × State) : (backBlock i e p).2.opened = p.2.opened := by
  unfold backBlock
  dsimp only
  split
  · rfl
  · split
    · simp only [State.opened, appendBlock_opened, modBlk_calm]
    · split
      · rfl
      · next block =>
        simp only [State.opened, appendBlock_opened, modSide_calm, modBlk_calm]
        exact newBlock_opened block

theorem startBack_opened (i : Nat) (m : Image) (s : State) : (startBack i m s).opened = s.opened := by
  simp only [startBack, State.opened, tryBackDone_opened, backBlock_opened, bump_calm, closeSeat_calm, modSide_calm, setFlag_calm,
    each2_opened, implies_true, ite_opened, ite_self]

theorem orderBack_opened (i : Nat) (s : State) : (orderBack i s).opened = s.opened := by
  unfold orderBack
  dsimp only
  repeat' split
  all_goals simp only [State.opened, startBack_opened, bump_calm, closeSeat_calm, fetchHandle_calm, modSide_calm, setFlag_calm]

theorem resumeSeat_opened (i : Nat) (s : State) : (resumeSeat i s).opened = s.opened := by
  unfold resumeSeat
  dsimp only
  repeat' split
  all_goals simp only [State.opened, orderBack_opened, bump_calm, modSeat_calm, modSide_calm, tellFollowers_calm]

theorem sendSplitOpen_opened (i : Nat) (ms : List Member) (self : Nat) (p : Bool × State) :
    (sendSplitOpen i ms self p).2.opened = p.2.opened := by
  unfold sendSplitOpen
  dsimp only
  repeat' split
  all_goals simp only [State.opened, sendN_calm, modKv_opened]

theorem openSplit_opened (i : Nat) (s : State) : (openSplit i s).opened = s.opened := by
  unfold openSplit
  dsimp only
  repeat' split
  all_goals simp only [State.opened, sendSplitOpen_opened, closeSeat_calm, modSeat_calm, modSide_calm, modDeals_opened, each2_opened,
    implies_true]

theorem stopScan_opened (i why : Nat) (s : State) : (stopScan i why s).opened = s.opened := rfl

theorem linkHit_opened (i n : Nat) (s : State) : (linkHit i n s).opened = s.opened := by
  unfold linkHit
  dsimp only
  split
  · simp only [State.opened, modLookup_opened, modBlk_calm, stampIdx, setIdx_calm]
  · split
    · exact stopScan_opened ..
    · split
      · simp only [State.opened, stopScan_opened, setFlag_calm, bump_calm]
      · next block =>
        simp only [State.opened, modLookup_opened, setIdx_calm, modBlk_calm]
        exact newBlock_opened block

theorem hotAdvance_opened (i f : Nat) (s : State) : (hotAdvance i f s).opened = s.opened := by
  induction f generalizing s with
  | zero => rfl
  | succ f ih =>
    unfold hotAdvance
    repeat' split
    all_goals simp only [ih, linkHit_opened, hotTouch, modKv_opened]

theorem closeScan_opened (i : Nat) (s : State) : (closeScan i s).opened = s.opened := by
  unfold closeScan
  split <;> simp only [State.opened, stopScan_opened, ite_opened, ite_self]

theorem advance_opened (i : Nat) (s : State) : (advance i s).opened = s.opened := by
  unfold advance
  split <;> simp only [State.opened, tryEndLookup_opened, hotAdvance_opened, closeScan_opened]

theorem beginLookup_opened (i : Nat) (s : State) : (beginLookup i s).opened = s.opened := by
  simp only [beginLookup, State.opened, endLookup_opened, advance_opened, dropRun_calm, ite_opened, ite_self]

theorem afterAdmit_opened (i : Nat) (s : State) : (afterAdmit i s).opened = s.opened := by
  unfold afterAdmit
  dsimp only
  repeat' split
  all_goals simp only [State.opened, resumeSeat_opened, openSplit_opened, beginLookup_opened, bump_calm, closeSeat_calm, modSeat_calm,
    takeFree_calm]

theorem takePins_opened (i : Nat) (s : State) : (takePins i s).opened = s.opened := by
  simp only [takePins, pinModel, pinObj, State.opened, modModel_calm, modObj_calm, ite_opened, ite_self]

theorem commitAdmit_opened (i : Nat) (s : State) : (commitAdmit i s).opened = s.opened := by
  simp only [commitAdmit, formContext, sendAdmit, State.opened, takePins_opened, modCls_calm, modSide_calm, modTenant_calm,
    sendFor_calm, bump_calm]

theorem decideOpen_opened (i nstop : Nat) (rseed : BitVec 32) (s : State) : (decideOpen i nstop rseed s).opened = s.opened := by
  unfold decideOpen
  dsimp only
  repeat' split
  all_goals simp only [State.opened, refuse_opened, returnOpenCredit, openCreditBut_calm, pinByVersion, admitFields, pinCurrent,
    afterAdmit_opened, commitAdmit_opened, debit_calm, modSeat_calm]

theorem imageArrived_opened (i : Nat) (m : Image) (s : State) : (imageArrived i m s).opened = s.opened := by
  simp only [imageArrived, State.opened, refuse_opened, decideOpen_opened, modSeat_calm, modSide_calm, ite_opened, ite_self]

theorem imageData_opened (tag : Nat) (m : Image) (s : State) : (imageData tag m s).opened = s.opened := by
  unfold imageData
  split <;> simp only [State.opened, endTag_opened, startBack_opened, imageArrived_opened, ite_opened, ite_self]

theorem imageDataIn_opened (tag : Nat) (m : Image) (s : State) : (imageDataIn tag m s).opened = s.opened := by
  simp only [imageDataIn, State.opened, imageData_opened, finish_calm]

/-! ### Shipments (R193, R194) -/

theorem shipFail_opened (i : Nat) (s : State) : (shipFail i s).opened = s.opened := by
  simp only [shipFail, State.opened, bump_calm, closeSeat_calm, setFlag_calm, stretchFail_calm, ite_opened, ite_self]

theorem updPool_opened (n t : Nat) (s : State) : (updPool n t s).opened = s.opened := by
  unfold updPool
  split <;> rfl

theorem shipComplete_opened (i : Nat) (s : State) : (shipComplete i s).opened = s.opened := by
  unfold shipComplete
  split <;> simp only [State.opened, updPool_opened, modSeat_calm, modSide_calm, ite_opened, ite_self]

theorem prefillKvIn_opened (i gen block tag : Nat) (c : BlockTag) (s : State) : (prefillKvIn i gen block tag c s).opened = s.opened := by
  unfold prefillKvIn
  dsimp only
  repeat' split
  all_goals simp only [State.opened, shipFail_opened, shipComplete_opened, bump_calm, finish_calm, mismatch_calm, modBlk_calm,
    modSide_calm]

/-! ### Objects of second sources (R214, R257) -/

theorem modDesc_opened (m v o : Nat) (f : Desc → Desc) (s : State) : (modDesc m v o f s).opened = s.opened := rfl

theorem finishLoads_opened (m v dst : Nat) (s : State) : (finishLoads m v dst s).opened = s.opened := by
  unfold finishLoads
  repeat' split
  all_goals simp only [State.opened, hotRetry_calm, setFld_calm, modModel_calm, modSeq_opened]

theorem objPlaced_opened (f : Fetch) (s : State) : (objPlaced f s).opened = s.opened := by
  simp only [objPlaced, State.opened, finishLoads_opened, modSeq_opened, ite_opened, ite_self]

theorem closeUsers_opened (m v : Nat) (s : State) : (closeUsers m v s).opened = s.opened := by
  simp only [closeUsers, State.opened, failSeat_calm, each_opened, implies_true]

theorem poison_opened (m v o : Nat) (s : State) : (poison m v o s).opened = s.opened := by
  simp only [poison, State.opened, modDesc_opened, closeUsers_opened, bump_calm, modModel_calm, setFlag_calm, setReg_calm]

theorem repairDone_opened (m v o dst epoch : Nat) (ok : Bool) (s : State) : (repairDone m v o dst epoch ok s).opened = s.opened := by
  simp only [repairDone, State.opened, modDesc_opened, finishLoads_opened, objPlaced_opened, poison_opened, bump_calm, setFlag_calm,
    ite_opened, ite_self]

theorem objDataTaken_opened (tag : Nat) (ok : Bool) (s : State) : (objDataTaken tag ok s).opened = s.opened := by
  unfold objDataTaken
  split <;> simp only [State.opened, endTag_opened, repairDone_opened]

theorem objDataIn_opened (tag : Nat) (ok : Bool) (s : State) : (objDataIn tag ok s).opened = s.opened := by
  simp only [objDataIn, State.opened, objDataTaken_opened, drain_calm, holdStep_calm, idleActions_calm]

/-! ### Port F and the exchange (R108, R258) -/

theorem drainFPass_opened (l : List (List Nat × Msg)) (s : State) : (drainFPass l s).1.opened = s.opened := by
  induction l generalizing s with
  | nil => rfl
  | cons e r ih =>
    unfold drainFPass
    split
    · rw [ih, opened_of_calm (depart_calm ..)]
      rfl
    · rfl

theorem drainF_opened (s : State) : (drainF s).opened = s.opened := drainFPass_opened s.ports.fQueue s

theorem sendF_opened (gs : List Nat) (m : Msg) (s : State) : (sendF gs m s).opened = s.opened := drainF_opened _

theorem queryTaken_opened (el layer rows seat gen : Nat) (p : Payload) (s : State) :
    (queryTaken el layer rows seat gen p s).opened = s.opened := by
  simp only [queryTaken, State.opened, sendF_opened, bump_calm, modDeals_opened, ite_opened, ite_self]

theorem partialTaken_opened (el layer seat gen self : Nat) (p : Payload) (s : State) :
    (partialTaken el layer seat gen self p s).opened = s.opened := by
  simp only [partialTaken, State.opened, sendF_opened, bump_calm, modDeals_opened, ite_opened, ite_self]

/-! ### Payloads that wait for a gate (R220) -/

theorem payloadIn_opened (c : Instr) (s : State) : (payloadIn c s).opened = s.opened := by
  unfold payloadIn
  split <;> simp only [State.opened, kvDataIn_opened, imageDataIn_opened, prefillKvIn_opened, objDataIn_opened, queryTaken_opened,
    partialTaken_opened]

theorem freeGated_opened (x : Gated) (s : State) : (freeGated x s).opened = s.opened := by
  simp only [freeGated, State.opened, returnCredit_calm, ite_opened, ite_self]

theorem gatedIn_opened {f : State → State} (h : ∀ s, (f s).opened = s.opened) (x : Gated) (s : State) :
    (gatedIn x f s).opened = s.opened := by
  unfold gatedIn
  split
  · exact (h _).trans (freeGated_opened ..)
  · rfl

theorem releaseGated_opened (s : State) : (releaseGated s).opened = s.opened :=
  each_opened (f := fun x => gatedIn x (payloadIn x.cmd)) (fun x s => gatedIn_opened (payloadIn_opened x.cmd) x s) s.ports.gated _

/-! ### What an opening port brings about (R165, R222, R245, R279) -/

theorem grantFull_opened (p : Port) (peer : Nat) (s : State) : (grantFull p peer s).opened = s.opened := by
  simp only [grantFull, State.opened, modSess_calm, sendCredit_calm]

theorem leaveStart_gateFrame (g : Nat) (s : State) : gateFrame s (leaveStart g s) :=
  ite_gateFrame rfl (gateFrame_trans (modGate_gateFrame ..) (fillCounters_gateFrame ..))

theorem gateClock_gateFrame (g : Nat) (s : State) : gateFrame s (gateClock g s) :=
  ite_gateFrame (modGate_gateFrame ..) (modGate_gateFrame ..)

theorem settlePath_gateFrame (g p : Nat) (s : State) : gateFrame s (settlePath g p s) := by
  unfold settlePath
  dsimp only
  split
  · exact contest_gateFrame ..
  · exact ite_gateFrame (gateFrame_trans (endGrant_gateFrame ..) (contest_gateFrame ..))
      (ite_gateFrame (gateFrame_trans (revokeGrant_gateFrame ..) (contest_gateFrame ..)) (preempt_gateFrame ..))

theorem gateThaw_gateFrame (g : Nat) (s : State) : gateFrame s (gateThaw g s) :=
  gateFrame_trans (gateFrame_trans (leaveStart_gateFrame g s) (gateClock_gateFrame ..)) (each_gateFrame _ (settlePath_gateFrame g) ..)

theorem candCfg_opened (epoch : Nat) (s : State) : (candCfg epoch s).opened = s.opened := by
  simp only [candCfg, State.opened, sendF_opened, modSieve_opened, ite_opened, ite_self]

theorem admissionOpens_opened (s : State) : (admissionOpens s).opened = s.opened := by
  simp only [admissionOpens, State.opened, setFld_calm, modPwr_opened, ite_opened, ite_self]

theorem sendParts_opened (l : List (List SagSeat)) (s : State) : (sendParts l s).opened = s.opened := by
  induction l generalizing s with
  | nil => rfl
  | cons e r ih => exact (ih _).trans (opened_of_calm (send_calm ..))

theorem sagReplay_opened (s : State) : (sagReplay s).opened = s.opened := by
  unfold sagReplay
  split <;> simp only [State.opened, sendParts_opened, ite_opened, ite_self]

/-! ### The opening of a port (R245, R262, R272, R283) -/

/-- A port that opens joins the open ports, and nothing that its opening leads to closes or opens another (R245, R272). -/
theorem openPort_opened (p : Port) (s : State) : (openPort p s).opened = s.opened ++ [portNo p] := by
  have granted (l : List Nat) (x : State) : (each (fun k s => if s.live p k then grantFull p k s else s) l x).opened = x.opened :=
    each_opened (fun _ _ => by rw [ite_opened, grantFull_opened, ite_self]) l x
  have thawed (g : Nat) (x : State) : (releaseGated (gateThaw g (setFld (F.GATE_CTRL_FREEZE g) 0 x))).opened = x.opened := by
    rw [releaseGated_opened, opened_of_gateFrame (gateThaw_gateFrame ..), opened_of_calm (setFld_calm ..)]
  cases p with
  | M | P => exact granted ..
  | C | N | T => exact (thawed ..).trans (granted ..)
  | F => exact (candCfg_opened ..).trans (granted ..)
  | G => exact (admissionOpens_opened _).trans ((sagReplay_opened _).trans (granted ..))

theorem portOpen_of_mayOpen (t : BitVec 64) {p : Port} {s : State} (may : (tick t s).mayOpen p = true) :
    exec (.portOpen t p) s = .next (finish (openPort p (tick t s))) := by
  change execPortOpen t p s = _
  unfold execPortOpen portOpenWrite
  rw [if_pos may]

theorem portOpen_of_not_mayOpen (t : BitVec 64) (p : Port) (s : State) (early : (tick t s).mayOpen p = false) :
    exec (.portOpen t p) s = .next (finish (tick t s)) := by
  change execPortOpen t p s = _
  unfold execPortOpen portOpenWrite
  rw [if_neg (Bool.eq_false_iff.mp early)]

/-- Settles O30: a port that may open joins the open ports, which the end of the command leaves alone; one that may not stays as it is
(that a write too early is ignored is log entry 17). -/
theorem portOpens : Obligations.PortOpens := by
  refine ⟨fun t p s may => ⟨_, portOpen_of_mayOpen t may, ?_, ?_⟩, portOpen_of_not_mayOpen⟩
  · rw [portOpen_eq, opened_of_calm (finish_calm _), openPort_opened]
    simp
  · rw [finish_core, openPort_core, tick_pwr]

end Sys2Proof.Machine

namespace Sys2Proof.Machine

/-! # Starts, power, fallow and wake: soundness, keep-MRAM, and the outcome of every command -/

/-! ## BOOTS, ERA and the forced Bedrock mode in a register write and in the configuration -/

/-- From `s` to `u` ERA stays, and with `b` BOOTS and the forced Bedrock mode stay. -/
structure MramKept (b : Bool) (s u : State) : Prop where
  era : u.keep.era = s.keep.era
  boots : b = true → u.keep.boots = s.keep.boots ∧ u.keep.forced = s.keep.forced

namespace MramKept

variable {b : Bool} {s u : State}

theorem refl : MramKept b s s := ⟨rfl, fun _ => ⟨rfl, rfl⟩⟩

theorem trans {v : State} (h : MramKept b s u) (k : MramKept b u v) : MramKept b s v := by
  refine ⟨k.era.trans h.era, fun e => ?_⟩
  obtain ⟨boots, forced⟩ := h.boots e
  obtain ⟨boots', forced'⟩ := k.boots e
  exact ⟨boots'.trans boots, forced'.trans forced⟩

/-- A core `k` that differs from the core of `s` in none of the three. -/
theorem of_core {k : Core} (h : u.core = k) (hk : (k.era, k.boots, k.forced) = (s.keep.era, s.keep.boots, s.keep.forced)) :
    MramKept b s u := by
  subst h
  simp only [Prod.mk.injEq] at hk
  exact ⟨hk.1, fun _ => hk.2⟩

theorem of_keep (h : u.keep = s.keep) : MramKept b s u := by
  refine ⟨?_, fun _ => ⟨?_, ?_⟩⟩ <;> rw [h]

theorem of_quiet (h : Quiet s u) : MramKept b s u := .of_core h.core rfl

theorem openEffect (off : Nat) (v : Word) (s : State) : MramKept b s (openEffect off v s) := by
  rcases openEffect_core off v s with h | ⟨-, h⟩
  · exact .of_core h rfl
  · exact .of_core h rfl

theorem fieldWrite (img : Bool) (r : RegDef) (v : Word) (s : State) : Leads (MramKept b s) (fieldWrite img r v s) := by
  have stored : MramKept b s (admitNoted r.off (Machine.openEffect r.off v (gateStore r.off (s.newWord r img v) s))) := by
    have gate : MramKept b s (gateStore r.off (s.newWord r img v) s) := .of_core (gateStore_core ..) rfl
    exact (gate.trans (openEffect ..)).trans (.of_core (admitNoted_core ..) rfl)
  have epoch : Leads (MramKept b s) (nextEpochWrite img v s) := fun u e => by
    obtain ⟨f, rfl⟩ := nextEpochWrite_next e
    exact .of_keep rfl
  refine .ite .fault (.ite .fault (.ite .fault ?_))
  split
  · exact .fault
  · exact .ite .fault (.ite epoch (.ite (.next (.of_core (laneWrite_core v s) rfl)) (.guard (.of_keep rfl) stored)))

theorem storeWrite (img : Bool) (off : Nat) (v : Word) (s : State) : Leads (MramKept b s) (storeWrite img off v s) := by
  refine .ite ((tenantWrite_quiet _ v s).imp fun _ => of_quiet) (.ite ((slotWrite_quiet v s).imp fun _ => of_quiet)
    (.ite ((splitWrite_quiet v s).imp fun _ => of_quiet) (.ite ((digWrite_quiet v s).imp fun _ => of_quiet)
      (.ite (.next .refl) (.ite .fault ?_)))))
  split
  · exact fieldWrite img _ v s
  · exact .next .refl

theorem startWake (s : State) : MramKept b s (startWake s) := .of_core (startWake_core s) rfl

theorem wakeWrite (s : State) : MramKept b s (wakeWrite s) := by
  unfold Machine.wakeWrite
  split
  · exact startWake s
  · exact .refl

/-- The command bits of START_BOOT write BOOTS and the forced mode; no other command bit does, and none writes ERA. -/
theorem cmdBit {off : Nat} (h : b = true → off ≠ 0x410) (i : Nat) (s : State) : Leads (MramKept b s) (cmdBit off i s) := by
  have command : ∀ {f : State → State}, (∀ s, (f s).core = s.core) → Leads (MramKept b s) (.next (whenCmd f s)) :=
    fun h => .next (.of_core (whenCmd_core h rfl) rfl)
  unfold Machine.cmdBit
  split
  · exact command acquireLock_core
  · exact .next (.of_core (releaseLock_core s) rfl)
  · exact .next ⟨rfl, fun e => absurd rfl (h e)⟩
  · exact .next ⟨rfl, fun e => absurd rfl (h e)⟩
  · exact command registerObj_core
  · exact command withdrawObj_core
  · exact command popObj_core
  · exact command (modBit_core _)
  · exact command modPop_core
  · exact .next (.of_core (obsBit_core _ s) rfl)
  · exact .ite .fault (command armTrace_core)
  · exact command fireNow_core
  · exact .next (wakeWrite s)
  · exact .ite (command (revokeWrite_core _)) (.next .refl)
  · exact .guard (.of_core (portDropWrite_core _ s) rfl) .refl
  · exact .next .refl

theorem eachDo {α : Type} {f : α → State → Host.Outcome State Fault Refusal} (h : ∀ a s, Leads (MramKept b s) (f a s)) (l : List α)
    (s : State) : Leads (MramKept b s) (eachDo f l s) :=
  eachDo_keeps (P := MramKept b) (fun _ => .refl) (fun _ _ _ => trans) (fun a s u e => h a s u e) l s

theorem commands {off : Nat} (h : b = true → off ≠ 0x410) (v : Word) (s : State) : Leads (MramKept b s) (commands off v s) := by
  unfold Machine.commands
  split
  · exact .next .refl
  · exact .ite .fault (.ite (.next .refl)
      (.ite (.next (.of_core (whenCmd_core (stopBits_core v) rfl) rfl)) (eachDo (cmdBit h) _ s)))

theorem registerWrite {off : Nat} (h : b = true → off ≠ 0x410) (v : Word) (s : State) :
    Leads (MramKept b s) (registerWrite off v s) :=
  .ite .fault (((storeWrite false off v s).andThen fun x hx => (commands h v x).imp fun _ hy => hx.trans hy).andThen
    fun _ hy => .next (hy.trans (.of_core (finish_core _) rfl)))

theorem applySection (x : Section) (s : State) : Leads (MramKept b s) (applySection x s) := by
  unfold Machine.applySection
  split
  · exact .next (.of_keep rfl)
  · exact eachDo (fun e s u h => storeWrite true e.1 e.2 s u (imageEntry_next h)) _ s
  · exact .next (.of_keep rfl)
  · exact .next (.of_keep rfl)

theorem applyConfig (s : State) : Leads (MramKept b s) (applyConfig s) := by
  have done : ∀ p s, MramKept b s (configDone p s) := fun p s => .of_core (configDone_core p s) rfl
  unfold Machine.applyConfig
  split
  · exact .next .refl
  · have defaults : MramKept b s (applyDefaults s) := .of_core (applyDefaults_core s) rfl
    exact .ite (.next (defaults.trans (done ..)))
      ((eachDo applySection _ s).andThen fun x hx => .next (hx.trans (done _ x)))

end MramKept

/-! ## Commands that move the core keep it sound -/

/-- From `s` to `u` soundness is kept, ERA stays, and with `b` BOOTS and the forced Bedrock mode stay. -/
structure Governed (b : Bool) (s u : State) : Prop where
  sound : s.sound → u.sound
  mram : MramKept b s u

namespace Governed

variable {b : Bool} {s x : State}

theorem refl : Governed b s s := ⟨id, .refl⟩

theorem trans {y : State} (h : Governed b s x) (k : Governed b x y) : Governed b s y :=
  ⟨fun w => k.sound (h.sound w), h.mram.trans k.mram⟩

theorem of_kept {f : Bool} (h : Kept f s x) (k : MramKept b s x) : Governed b s x := ⟨h.sound, k⟩

theorem of_core (h : x.core = s.core) : Governed b s x := .of_kept (Kept.of_core (b := true) h) (.of_core h rfl)

/-- STATE moves to 1, 2 or 4. -/
theorem of_state {n : Nat} (h : x.core = { s.core with state := n }) (k : n = 1 ∨ n = 2 ∨ n = 4) : Governed b s x :=
  .of_kept (Kept.of_state (b := true) n h k) (.of_core h rfl)

/-- STATE moves to any of its values as the main domain loses power. -/
theorem of_dark {n : Nat} (h : x.core = { s.core with state := n, mainGood := false }) (k : n ≤ 5) : Governed b s x := by
  refine ⟨fun w => ?_, .of_core h rfl⟩
  simp only [State.core, Core.mk.injEq] at h
  obtain ⟨-, -, -, clock, boots, era, -, recTime, sags, -, state, mode, dark, -⟩ := h
  unfold State.sound at w ⊢
  rw [clock, boots, era, recTime, sags, state, mode, dark]
  obtain ⟨w1, -, w2, -, w3⟩ := w
  exact ⟨w1, k, w2, nofun, w3⟩

theorem finish (h : Governed b s x) : Governed b s (finish x) := h.trans (.of_core (finish_core x))

theorem ite {c : Prop} [Decidable c] {y : State} (h : Governed b s x) (k : Governed b s y) : Governed b s (if c then x else y) := by
  split
  · exact h
  · exact k

end Governed

variable {b : Bool}

theorem applyConfig_governed (s : State) : Leads (Governed b s) (applyConfig s) :=
  fun u e => .of_kept (applyConfig_kept e) (.applyConfig s u e)

theorem execRegisterWrite_governed (t : BitVec 64) {off : BitVec 16} (h : b = true → off ≠ 0x410) (v : Word) (s : State) :
    Leads (Governed b (tick t s)) (execRegisterWrite t off v s) :=
  fun u e => .of_kept (registerWrite_kept (b := true) e)
    (.registerWrite (fun hb k => h hb (BitVec.eq_of_toNat_eq k)) v (tick t s) u e)

theorem execImageReadDone_governed (t : BitVec 64) (bytes : List Byte) (s : State) :
    Leads (Governed b (tick t s)) (execImageReadDone t bytes s) := by
  have noted : ∀ x : State, Governed b x (modPwr (fun p => { p with imgDone := x.nowMs }) x) := fun _ => .of_core rfl
  have checked : ∀ x : State, Governed b x (modPwr (fun q => { q with
      pending := some (readImage bytes), mode := if (readImage bytes).reason = 0 then 0 else 1
      reason := (readImage bytes).reason }) x) := fun x => by
    refine ⟨fun w => ?_, .of_keep rfl⟩
    obtain ⟨w1, w2, -, w3⟩ := w
    refine ⟨w1, w2, ?_, w3⟩
    change (if (readImage bytes).reason = 0 then 0 else 1) ≤ 2
    split <;> decide
  exact .ite (.next .refl) (.ite (.next (noted _)) (.ite
    ((applyConfig_governed _).imp fun _ h => ((noted _).trans (checked _)).trans h) (.next ((noted _).trans (checked _)))))

/-- Main power is good after a start, neither in fallow nor after a sag warning (R263, R265, R276). -/
theorem mainGood_governed {s : State} (started : s.pwr.started = true) (noFallow : s.pwr.state ≠ 3) (noSag : s.pwr.state ≠ 5) :
    Governed b s (modPwr (fun p => { p with mainGood := true }) s) := by
  refine ⟨fun w => ?_, .of_keep rfl⟩
  obtain ⟨w1, w2, w3, -, w4⟩ := w
  exact ⟨w1, w2, w3, fun _ => ⟨started, noFallow, noSag⟩, w4⟩

theorem execMainPowerGood_governed (t : BitVec 64) (s : State) : Leads (Governed b (tick t s)) (execMainPowerGood t s) := by
  unfold execMainPowerGood
  dsimp only
  split
  · exact .next .refl
  · rename_i h
    simp only [Bool.or_eq_true, Bool.not_eq_true', beq_iff_eq, not_or, Bool.not_eq_false] at h
    obtain ⟨⟨⟨started, -⟩, noFallow⟩, noSag⟩ := h
    exact (applyConfig_governed _).andThen fun _ h =>
      .next (((mainGood_governed started noFallow noSag).trans h).trans (.of_core (greetLinks_core _))).finish

theorem execDealComplete_governed (t : BitVec 64) (s : State) : Leads (Governed b (tick t s)) (execDealComplete t s) := by
  have complete : ∀ r done x, Governed b x (dealComplete r done x) := fun r done x =>
    .of_kept (.of_core_force (dealComplete_core r done x)) (.of_core (dealComplete_core r done x) rfl)
  refine .ite (.next .refl) ?_
  dsimp only
  split
  · split
    · exact .guard (complete _ _ _).finish .refl
    · exact .next .refl
  · exact .next .refl

/-- BOOTS is written as 0, 3 or one less; it stays in its field (R270, R271, R278). -/
theorem Governed.of_boots {s x : State} (n : Nat) (h : x.core = { s.core with boots := n, forced := x.keep.forced })
    (k : n ≤ s.keep.boots ∨ n ≤ 3) : Governed false s x := by
  simp only [State.core, Core.mk.injEq] at h
  obtain ⟨-, -, -, clock, boots, era, -, recTime, sags, started, state, mode, main, -⟩ := h
  refine ⟨fun w => ?_, era, nofun⟩
  unfold State.sound at w ⊢
  rw [clock, boots, era, recTime, sags, started, state, mode, main]
  obtain ⟨w1, w2, w3, w4, w5, w6⟩ := w
  exact ⟨w1, w2, w3, w4, by omega, w6⟩

theorem execStartWindowExpiry_governed (t : BitVec 64) (s : State) :
    Leads (Governed false (tick t s)) (execStartWindowExpiry t s) :=
  .guard (.of_boots 0 rfl (.inl (Nat.zero_le _))) .refl

theorem execBootBedrocknext_governed (s : State) : Leads (Governed false s) (execBootBedrocknext s) :=
  .next (.of_boots 3 rfl (.inr (Nat.le_refl 3)))

theorem execBootClear_governed (s : State) : Leads (Governed false s) (execBootClear s) :=
  .next (.of_boots 0 rfl (.inl (Nat.zero_le _)))

theorem sat_le (n v : Nat) : sat n v ≤ n := by unfold sat; split <;> omega

theorem execSagRecordDone_governed (t : BitVec 64) (s : State) : Leads (Governed false (tick t s)) (execSagRecordDone t s) := by
  refine .guard ⟨fun w => ?_, rfl, nofun⟩ .refl
  obtain ⟨w1, w2, w3, w4, w5, w6, -, -⟩ := w
  exact ⟨w1, w2, w3, w4, Nat.le_trans (Nat.sub_le _ 1) w5, w6, Nat.lt_succ_of_le (sat_le ..), sat_le ..⟩

/-- A sag warning takes STATE to 5 and isolates the main domain (R276). -/
theorem sagWarn_core (s : State) : (sagWarn s).core = { s.core with state := 5, mainGood := false } := by
  have isolated : ∀ (x : State) (r : Option SagRec), ({ x with
      keep := { x.keep with sag := r }, pwr := { x.pwr with mainGood := false } } : State).core = { x.core with mainGood := false } :=
    fun _ _ => rfl
  have warned : (bump 0xF3 (modPwr (fun p => { p with
      state := 5, sagWarn := true, warnAt := s.now, recDone := false, busUp := false }) s)).core = { s.core with state := 5 } := by
    rw [bump_core]
    rfl
  unfold sagWarn
  dsimp only
  rw [bumpN_core, isolated]
  split
  · rw [unlock_core, immediateStop_core, warned]
  · rw [warned]

theorem execSagWarning_governed (t : BitVec 64) (s : State) : Leads (Governed b (tick t s)) (execSagWarning t s) :=
  .guard (.of_dark (sagWarn_core _) (Nat.le_refl 5)) .refl

theorem execFallowEntry_governed (t : BitVec 64) (s : State) : Leads (Governed b (tick t s)) (execFallowEntry t s) :=
  .guard (Governed.of_state (fallowEntry_core _) (by decide)).finish .refl

/-- The state in which the main domain is switched off (R274). -/
def poweredOff (s : State) : State :=
  bump 0xF4 (modPwr (fun p => { p with
    state := 3, mainGood := false, cleared := false, replay := false, fallowAt := s.now }) (mainOff s))

theorem poweredOff_core (s : State) : (poweredOff s).core = { s.core with state := 3, mainGood := false } := by
  have off : ∀ x : State, (modPwr (fun p => { p with
      state := 3, mainGood := false, cleared := false, replay := false, fallowAt := s.now }) x).core
        = { x.core with state := 3, mainGood := false } := fun _ => rfl
  unfold poweredOff
  rw [bump_core, off, mainOff_core]

theorem execFallowPowerOff_governed (t : BitVec 64) (s : State) : Leads (Governed b (tick t s)) (execFallowPowerOff t s) :=
  .guard (.of_dark (poweredOff_core _) (by decide)) .refl

theorem execWake_governed (t : BitVec 64) (s : State) : Leads (Governed b (tick t s)) (execWake t s) :=
  .next (.of_kept (wakeWrite_kept (b := true) _) (.wakeWrite _))

theorem deliverHold_governed (s : State) : Governed b s (deliverHold s) := .of_state (deliverHold_core s) (.inl rfl)

theorem execWakeholdExpiry_governed (t : BitVec 64) (s : State) : Leads (Governed b (tick t s)) (execWakeholdExpiry t s) :=
  .next (.ite (deliverHold_governed _) .refl)

theorem execTstatus_governed (t : BitVec 64) (flashUp hbmUp : Bool) (s : State) :
    Leads (Governed b (tick t s)) (execTstatus t flashUp hbmUp s) :=
  have told := (Governed.of_core (taking_core (fun s => tiersChange_core flashUp hbmUp s) rfl)).finish
  .ite (.next .refl) (.next (.ite (told.trans (deliverHold_governed _)) told))

theorem execPortOpen_governed (t : BitVec 64) (p : Port) (s : State) : Leads (Governed b (tick t s)) (execPortOpen t p s) := by
  refine .next (Governed.finish (.of_kept (portOpenWrite_kept (b := true) p _) ?_))
  have h := portOpenWrite_core p (tick t s)
  split at h
  · exact .of_core h rfl
  · exact .of_core h rfl

theorem holdMsg_governed (c : Instr) (cls op : Nat) (word1 : Word) (o : Bool) (s : State) :
    Governed b s (holdMsg c cls op word1 o s) := by
  refine .of_kept (holdMsg_kept (b := true) ..) ?_
  have arrived : MramKept b s (arrive .G 0 cls op word1 0 s).2 := .of_core (arrive_core ..) rfl
  unfold holdMsg
  split <;> rename_i e <;> rw [e] at arrived
  · exact arrived
  · refine MramKept.trans arrived ?_
    dsimp only
    split
    · exact .of_core (fallowAbandon_core _) rfl
    split
    · exact .of_core (startWake_core _) rfl
    · exact .of_keep rfl

theorem execOpenReq_governed (t : BitVec 64) (m : OpenMsg) (s : State) : Leads (Governed b (tick t s)) (execOpenReq t m s) :=
  .ite (.next .refl) (.guard (holdMsg_governed ..) (.of_core (handleOpen_core m _)))

theorem execPrompt_governed (t : BitVec 64) (p : Port) (peer : BitVec 6) (m : PromptMsg) (s : State) :
    Leads (Governed b (tick t s)) (execPrompt t p peer m s) :=
  .ite (.next .refl) (.guard (holdMsg_governed ..) (.of_core (handlePrompt_core p _ m _)))

theorem execCancel_governed (t : BitVec 64) (reqid : BitVec 64) (s : State) :
    Leads (Governed b (tick t s)) (execCancel t reqid s) :=
  .ite (.next .refl) (.guard (holdMsg_governed ..) (.of_core ((sievePump_core _).trans (handleCancel_core reqid _))))

/-- The commands that `movesCore` names, but a start, keep soundness and ERA, and BOOTS and the forced mode where `movesBoots` says. -/
theorem exec_governed_of_movesCore : ∀ (c : Instr), movesCore c = true → (∀ b, c ≠ .powerOnStart b) →
    ∀ s, Leads (Governed (!movesBoots c) (clocked c s)) (exec c s)
  | .powerOnStart b, _, h, _ => absurd rfl (h b)
  | .imageReadDone t bytes, _, _, s => execImageReadDone_governed t bytes s
  | .mainPowerGood t, _, _, s => execMainPowerGood_governed t s
  | .startWindowExpiry t, _, _, s => execStartWindowExpiry_governed t s
  | .sagWarning t, _, _, s => execSagWarning_governed t s
  | .sagRecordDone t, _, _, s => execSagRecordDone_governed t s
  | .fallowEntry t, _, _, s => execFallowEntry_governed t s
  | .fallowPowerOff t, _, _, s => execFallowPowerOff_governed t s
  | .wake t, _, _, s => execWake_governed t s
  | .wakeholdExpiry t, _, _, s => execWakeholdExpiry_governed t s
  | .portOpen t p, _, _, s => execPortOpen_governed t p s
  | .openReq t m, _, _, s => execOpenReq_governed t m s
  | .prompt t p peer m, _, _, s => execPrompt_governed t p peer m s
  | .cancel t reqid, _, _, s => execCancel_governed t reqid s
  | .tstatus t flashUp hbmUp, _, _, s => execTstatus_governed t flashUp hbmUp s
  | .dealComplete t, _, _, s => execDealComplete_governed t s
  | .bootBedrocknext, _, _, s => execBootBedrocknext_governed s
  | .bootClear, _, _, s => execBootClear_governed s
  | .registerWrite t _ v, _, _, s => execRegisterWrite_governed t bne_iff_ne.mp v s

theorem exec_governed (c : Instr) (hc : ∀ b, c ≠ .powerOnStart b) (s : State) :
    Leads (Governed (!movesBoots c) (clocked c s)) (exec c s) := by
  cases h : movesCore c with
  | false => exact (exec_quiet c h s).imp fun _ k => .of_core k.core
  | true => exact exec_governed_of_movesCore c h hc s

/-! ## Every step keeps the state sound -/

/-- A start leaves keep-MRAM within its fields whatever it found of BOOTS and ERA (R270). -/
theorem powerOnStart_sound (readable : Bool) (s : State) (wf : s.sound) : (powerOnStart readable s).sound := by
  obtain ⟨-, -, -, -, -, -, recTime, sags⟩ := wf
  unfold powerOnStart
  extract_lets k r bed reason found prior off p written counted
  have started : (startState written p r.2).sound := by
    refine ⟨rfl, Nat.zero_le 5, ?_, nofun, Nat.min_le_left .., ?_, recTime, sags⟩
    · change (if bed then 2 else 0) ≤ 2
      split <;> decide
    · change (if readable then (k.era + 1) % 65536 else 0xFFFF) < 65536
      split <;> omega
  have h : Quiet (startState written p r.2) counted := startCounted_quiet _ _ _
  split
  · exact sound_of_core (h.bump 0xF2).core started
  · exact sound_of_core h.core started

theorem clocked_sound (c : Instr) (s : State) (wf : s.sound) : (clocked c s).sound := by
  unfold clocked
  split
  · exact (tick_kept _ s).sound wf
  · exact wf

theorem exec_sound (c : Instr) (s u : State) (wf : s.sound) (e : exec c s = .next u) : u.sound := by
  by_cases h : ∃ b, c = .powerOnStart b
  · obtain ⟨b, rfl⟩ := h
    cases e
    exact powerOnStart_sound b s wf
  · exact (exec_governed c (fun b k => h ⟨b, k⟩) s u e).sound (clocked_sound c s wf)

/-- Settles O5: an idle step moves the clock by 16 ns, and every command keeps soundness. -/
theorem soundKept : Obligations.SoundKept := by
  intro s u wf e
  obtain ⟨-, rfl⟩ | ⟨c, rest, -, e⟩ := step_cases e
  · exact (idleStep_kept s).sound wf
  · exact exec_sound c { s with pending := rest } u wf e

/-- Settles O10: `exec_governed` says it of every command but a start. -/
theorem keepMramWriters : Obligations.KeepMramWriters := by
  refine ⟨fun c s u h e => ?_, fun c s u h e => ?_⟩
  · have start : ∀ b, c ≠ .powerOnStart b := by rintro b rfl; cases h
    have kept := (exec_governed c start s u e).mram.boots (by rw [h]; rfl)
    rwa [clocked_eq] at kept
  · have kept := (exec_governed c h s u e).mram.era
    rwa [clocked_eq] at kept

end Sys2Proof.Machine

namespace Sys2Proof.Machine

/-! # Starts, the configuration, main power, and the hold buffer -/

/-! ## The idle step, the state after reset, and what a start keeps -/

/-- Settles O2: both cases are those of `idleStep`. -/
theorem idleStepCounts : Obligations.IdleStepCounts := by
  intro s waiting
  rw [step_nil waiting, idleStep]
  exact ⟨fun started => by rw [if_pos started], fun off => by rw [if_neg (by simp [off])]⟩

/-- Settles O4: the clock, the modes and keep-MRAM after reset are blank, and every indexed store is empty. -/
theorem resetSoundAndTidy : Obligations.ResetSoundAndTidy :=
  ⟨⟨rfl, Nat.zero_le 5, Nat.zero_le 2, nofun, Nat.zero_le 15, by decide, by decide, Nat.zero_le 255⟩,
    rfl, rfl, rfl, rfl, rfl, rfl, rfl, rfl, rfl⟩

/-- A counter of the keep domain belongs to keep-MRAM (R284, R285). -/
theorem bumpN_keep_eq {c : Nat} (h : 0xF0 ≤ c ∧ c ≤ 0xF7) (n : Nat) (s : State) :
    bumpN c n s = { s with keep := { s.keep with cnt := tput 0 s.keep.cnt c (satAdd48 (tget 0 s.keep.cnt c) n) } } := if_pos h

/-- A start keeps what has drained to the trace region (R297), and the rest of the observation unit takes its value at start. -/
theorem powerOnStart_obs (readable : Bool) (s : State) :
    (powerOnStart readable s).obs = { Obs.start with region := s.obs.region } := by
  unfold powerOnStart
  extract_lets k r bed reason found prior off p written counted
  have region : r.2.obs.region = s.obs.region := by cases readable <;> rfl
  have kept : counted.obs = { Obs.start with region := s.obs.region } := by rw [← region]; rfl
  split
  · rw [bump, bumpN_keep_eq (by decide)]
    exact kept
  · exact kept

/-- A block that starts again with a record in its trace region. -/
def tracedBefore : State := { State.reset with obs := { Obs.start with region := [(0, gapRec 0)] } }

/-- Refutes O12: the records that have drained to the trace region outlast a start (R297), so the observation unit does not take its
value at start whole. -/
theorem not_starts : ¬ Obligations.Starts := by
  intro h
  obtain ⟨u, e, -, -, -, -, -, -, -, -, -, -, -, -, -, -, -, -, -, -, -, -, -, -, -, -, -, -, obs, -⟩ := h.1 tracedBefore
  cases e
  have region := congrArg Obs.region ((powerOnStart_obs true tracedBefore).symm.trans obs)
  exact absurd region (List.cons_ne_nil _ _)

/-! ## The image (R266 to R268) -/

@[simp] theorem readImage_reason (bytes : List Byte) : (readImage bytes).reason = imageReason bytes := by
  unfold readImage
  dsimp only
  split
  · rfl
  · rename_i passes
    exact (Decidable.not_not.mp passes).symm

/-- The state in which an image has been read and checked (R268, R271, R282). -/
def imageChecked (bytes : List Byte) (s : State) : State := { s with pwr := { s.pwr with
  imgDone := s.nowMs, pending := some (readImage bytes), mode := if imageReason bytes = 0 then 0 else 1, reason := imageReason bytes } }

/-- An image read outside Bedrock mode is checked; it is applied at once when main power is good (R268). -/
theorem imageReadDone_checked (t : BitVec 64) (bytes : List Byte) (s : State) (started : s.pwr.started = true)
    (unread : s.pwr.imgDone = 0xFFFF) (noSag : s.pwr.state ≠ 5) (noBedrock : s.pwr.mode ≠ 2) :
    exec (.imageReadDone t bytes) s =
      if s.pwr.mainGood then applyConfig (imageChecked bytes (tick t s)) else .next (imageChecked bytes (tick t s)) := by
  change execImageReadDone t bytes s = _
  unfold execImageReadDone
  dsimp only
  rw [if_neg (by simp [started, unread, noSag]), if_neg (by simp [State.bedrock, noBedrock])]
  simp only [readImage_reason, State.mainOn, modPwr_pwr, tick_pwr]
  rfl

/-- Settles O13: without main power the image that has been checked waits. -/
theorem imageWaitsForMainPower : Obligations.ImageWaitsForMainPower := by
  intro t bytes s started unread noSag noBedrock dark
  rw [imageReadDone_checked t bytes s started unread noSag noBedrock, dark, imageChecked, tick_pwr]
  rfl

/-! ## The configuration (R267 to R269, R273) -/

/-- What the table of a list holds for the position `n + k` is the list's element `k`. -/
theorem tget_tableOf {α : Type} [DecidableEq α] (d : α) : ∀ (l : List α) (n k : Nat),
    tget d (tableOf (fun _ => d) n l) (n + k) = l.getD k d
  | [], _, _ => rfl
  | a :: l, n, 0 => by
    unfold tableOf
    split
    · rename_i unlisted
      exact (tget_above d _ (tableOf_above l n (n + 1) (Nat.lt_succ_self n)) (Nat.le_refl n)).trans unlisted.symm
    · exact if_pos rfl
  | a :: l, n, k + 1 => by
    have rest := tget_tableOf d l (n + 1) k
    rw [Nat.add_right_comm, Nat.add_assoc] at rest
    unfold tableOf
    split
    · exact rest
    · rw [tget, if_neg (by omega)]
      exact rest

/-- A table given by position holds for a position what it was given. -/
theorem tget_tableOf_range {α : Type} [DecidableEq α] (d : α) (f : Nat → α) {n i : Nat} (h : i < n) :
    tget d (tableOf (fun _ => d) 0 ((List.range n).map f)) i = f i := by
  have read := tget_tableOf d ((List.range n).map f) 0 i
  rw [Nat.zero_add] at read
  rw [read, List.getD_eq_getElem?_getD, List.getElem?_map, List.getElem?_range h, Option.map_some, Option.getD_some]

/-- The factory defaults (R269). -/
theorem applyDefaults_eq (s : State) : ∃ r l, applyDefaults s = { s with
    regs := r, tenants := l, obs := { s.obs with dig := [] }
    deals := { s.deals with nextEpoch := 1, bankA := [], bankB := [], splits := [] } } ∧
    ∀ i, i < 4096 → tget Tenant.empty l i = factoryTenant i := by
  unfold applyDefaults
  exact ⟨_, _, rfl, fun i h => by rw [modDeals_tenants, tget_tableOf_range _ _ h]⟩

/-- What a tenant's record starts with once its configuration is applied (R40, R64, R273). -/
theorem startTenants_eq (s : State) : ∃ l, startTenants s = { s with tenants := l } ∧
    ∀ i, i < 4096 → tget Tenant.empty l i = { s.tenant i with
      level := s.startLevel i, hitFrac := BitVec.ofNat 16 (s.fld F.ADM_PRIOR1_HITPRIOR), liveSeats := 0 } := by
  unfold startTenants
  exact ⟨_, rfl, fun i h => by rw [tget_tableOf_range _ _ h]⟩

/-- Without a sag record that the start found a tenant's pot starts full (R273). -/
theorem startLevel_of_noSag {s : State} (noRecord : s.pwr.sagFound = false) (i : Nat) :
    s.startLevel i = BitVec.ofInt 48 (s.tenant i).cap.toNat := by
  unfold State.startLevel
  dsimp only
  split
  · rw [noRecord]
    rfl
  · rfl

theorem each_modCls (f : Nat → ClassSt → ClassSt) (l : List Nat) (s : State) :
    ∃ c, each (fun n s => modCls n (f n) s) l s = { s with classes := c } := by
  induction l generalizing s with
  | nil => exact ⟨_, rfl⟩
  | cons n l ih =>
    obtain ⟨c, h⟩ := ih (modCls n (f n) s)
    exact ⟨c, h⟩

/-- The estimators start cold (R54). -/
theorem startEst_eq (s : State) : ∃ e c, startEst s = { s with est := e, classes := c } ∧ e.cold = true := by
  unfold startEst
  obtain ⟨c, h⟩ := each_modCls (fun _ k => { k with tpd := s.fld F.ADM_PRIOR1_TPDPRIOR }) (List.range 8) { s with est := _ }
  exact ⟨_, c, h, rfl⟩

/-- A configuration that has been applied: the deferred fields are in force, pots and estimators start, and APPLIED is set (R268, R273). -/
theorem configDone_eq (p : Pending) (s : State) : ∃ e c k l, configDone p s = { s with
    est := e, classes := c, keep := k, tenants := l, force := s.regs, obs := { s.obs with digForce := s.obs.dig }
    pwr := { s.pwr with applied := true, pending := none, defaults := p.reason != 0, imgLen := p.length, buildId := p.buildId
                        appliedAt := s.nowMs } } ∧ e.cold = true ∧
    ∀ i, i < 4096 → tget Tenant.empty l i = { s.tenant i with
      level := s.startLevel i, hitFrac := BitVec.ofNat 16 (s.fld F.ADM_PRIOR1_HITPRIOR), liveSeats := 0 } := by
  obtain ⟨l, tenants, records⟩ := startTenants_eq s
  obtain ⟨e, c, est, cold⟩ := startEst_eq (startTenants s)
  unfold configDone
  rw [est, tenants]
  dsimp only
  split
  · rw [bump, bumpN_keep_eq (by decide)]
    exact ⟨e, c, _, l, rfl, cold, records⟩
  · exact ⟨e, c, _, l, rfl, cold, records⟩

/-- A configuration that failed a check, or Bedrock mode, brings the factory defaults (R268). -/
theorem applyConfig_defaults {s : State} {p : Pending} (waits : s.pwr.pending = some p) (failed : p.reason ≠ 0) :
    applyConfig s = .next (configDone p (applyDefaults s)) := by
  unfold applyConfig
  rw [waits]
  exact if_pos failed

/-- What a configuration that failed leaves: the factory defaults, in force and with every pot full (R268, R269, R273). -/
theorem configDone_defaults (p : Pending) (s : State) (noRecord : s.pwr.sagFound = false) :
    ∃ u, configDone p (applyDefaults s) = u ∧ u.pwr = { s.pwr with
        applied := true, pending := none, defaults := p.reason != 0, imgLen := p.length, buildId := p.buildId
        appliedAt := s.nowMs } ∧
      u.force = u.regs ∧ u.deals.nextEpoch = 1 ∧ u.est.cold = true ∧ u.led = s.led ∧ u.ports = s.ports ∧ u.egress = s.egress ∧
      ∀ i, i < 4096 → ∃ h, u.tenant i = { factoryTenant i with level := 1000000000, hitFrac := h } := by
  obtain ⟨r, l, defaults, factory⟩ := applyDefaults_eq s
  obtain ⟨e, c, k, m, done, cold, records⟩ := configDone_eq p (applyDefaults s)
  have full : ∀ i, i < 4096 → ∃ h, tget Tenant.empty m i = { factoryTenant i with level := 1000000000, hitFrac := h } := fun i hi => by
    have record := records i hi
    have tenant : (applyDefaults s).tenant i = factoryTenant i := by
      rw [State.tenant, defaults]
      exact factory i hi
    rw [startLevel_of_noSag (by rw [defaults]; exact noRecord), tenant] at record
    exact ⟨_, record⟩
  rw [defaults] at done ⊢
  exact ⟨_, done, rfl, rfl, rfl, cold, rfl, rfl, rfl, full⟩

theorem configDone_pwr (p : Pending) (s : State) : (configDone p s).pwr = { s.pwr with
    applied := true, pending := none, defaults := p.reason != 0, imgLen := p.length, buildId := p.buildId
    appliedAt := s.nowMs } := by
  obtain ⟨e, c, k, l, done, -, -⟩ := configDone_eq p s
  rw [done]

@[simp] theorem applyDefaults_pwr (s : State) : (applyDefaults s).pwr = s.pwr := by
  obtain ⟨r, l, defaults, -⟩ := applyDefaults_eq s
  rw [defaults]

/-- Settles O14: the image that failed a check is replaced by the factory defaults, whose records every tenant then has. -/
theorem badImageBringsDefaults : Obligations.BadImageBringsDefaults := by
  intro t bytes s started unread noSag noBedrock power failed noRecord
  have checked := imageReadDone_checked t bytes s started unread noSag noBedrock
  rw [power, if_pos rfl, applyConfig_defaults (p := readImage bytes) rfl (by rwa [readImage_reason])] at checked
  obtain ⟨u, done, pwr, force, epoch, cold, led, ports, egress, records⟩ :=
    configDone_defaults (readImage bytes) (imageChecked bytes (tick t s)) (by rwa [imageChecked, tick_pwr])
  rw [done] at checked
  refine ⟨u, checked, by rw [pwr], by simp [pwr, failed], by rw [pwr]; exact if_neg failed, by rw [pwr]; rfl, by rw [pwr], force, epoch,
    cold, led.trans (tick_led ..), ports.trans (tick_ports ..), egress.trans (tick_egress ..), fun i hi => ?_⟩
  obtain ⟨h, record⟩ := records i hi
  rw [record]
  exact ⟨rfl, rfl, rfl, rfl, rfl, rfl, rfl, rfl, rfl, rfl⟩

/-! ## Main power (R263, R268) -/

/-- The calm view shows the power state but for REPLAYED. -/
theorem pwr_of_calm {s u : State} (h : u.calm = s.calm) : u.pwr = { s.pwr with replayed := u.pwr.replayed } := by
  have shown : ({ u.pwr with replayed := false } : Power) = { s.pwr with replayed := false } := congrArg State.pwr h
  calc u.pwr = { ({ u.pwr with replayed := false } : Power) with replayed := u.pwr.replayed } := rfl
    _ = { s.pwr with replayed := u.pwr.replayed } := by rw [shown]

/-- HELLO on the links that are up leaves the calm view (R240). -/
theorem greetLinks_calm (s : State) : (greetLinks s).calm = s.calm := by
  have hello : ∀ p peer (s : State), (sendHello p peer s).calm = s.calm := fun p peer s => by
    obtain ⟨m, -, -, -, h⟩ := sendHello_eq p peer s
    rw [h, modSess_calm, depart_calm]
  exact each_calm (fun p s => each_calm (fun k s => ite_calm (hello p k s) rfl) rfl) rfl

theorem mainPowerGood_runs (t : BitVec 64) (s : State) (started : s.pwr.started = true) (dark : s.pwr.mainGood = false)
    (noFallow : s.pwr.state ≠ 3) (noSag : s.pwr.state ≠ 5) : exec (.mainPowerGood t) s =
      andThen (applyConfig (modPwr (fun p => { p with mainGood := true }) (tick t s))) fun s => .next (finish (greetLinks s)) := by
  change execMainPowerGood t s = _
  unfold execMainPowerGood
  dsimp only
  rw [if_neg (by simp [started, dark, noFallow, noSag])]

/-- Settles O15: with nothing that waits the power and the greetings change, and factory defaults that wait are applied. -/
theorem mainPowerGood : Obligations.MainPowerGood := by
  intro t s started dark noFallow noSag
  rw [mainPowerGood_runs t s started dark noFallow noSag]
  have greeted : ∀ x : State, (finish (greetLinks x)).core = x.core ∧ (finish (greetLinks x)).calm = x.calm := fun x =>
    ⟨(finish_core _).trans (greetLinks_core x), (finish_calm _).trans (greetLinks_calm x)⟩
  refine ⟨fun nothing => ?_, fun p waits failed => ?_⟩
  · have idle : applyConfig (modPwr (fun p => { p with mainGood := true }) (tick t s))
        = .next (modPwr (fun p => { p with mainGood := true }) (tick t s)) := by
      unfold applyConfig
      simp only [modPwr_pwr, tick_pwr, nothing]
    obtain ⟨core, calm⟩ := greeted (modPwr (fun p => { p with mainGood := true }) (tick t s))
    rw [idle]
    exact ⟨_, rfl, congrArg Core.mainGood core, core, calm⟩
  · rw [applyConfig_defaults (p := p) (by rw [modPwr_pwr, tick_pwr]; exact waits) failed]
    obtain ⟨core, calm⟩ := greeted (configDone p (applyDefaults (modPwr (fun p => { p with mainGood := true }) (tick t s))))
    have pwr := pwr_of_calm calm
    rw [configDone_pwr, applyDefaults_pwr] at pwr
    exact ⟨_, rfl, by rw [pwr]; rfl, by rw [pwr], by rw [pwr]; exact bne_iff_ne.mpr failed, by rw [pwr]⟩

/-! ## The signals of a start (R270 to R272) -/

/-- Settles O16: each signal by the guard of its command. -/
theorem startSignals : Obligations.StartSignals := by
  refine ⟨⟨fun t s power applied => ?_, fun t s started noFallow noSag => ?_, fun t s started unwritten ended => ?_⟩,
    fun s => ⟨rfl, rfl⟩⟩
  · change execStartClearingDone t s = _
    unfold execStartClearingDone
    dsimp only
    rw [if_pos (by simp [power, applied]), modPwr, tick_pwr]
  · change execFabricReady t s = _
    unfold execFabricReady
    dsimp only
    rw [if_neg (by simp [started, noFallow, noSag]), modPorts, tick_ports]
  · change execStartWindowExpiry t s = _
    unfold execStartWindowExpiry
    dsimp only
    rw [if_pos (by simp [started, unwritten, ended]), tick_keep, tick_pwr]

end Sys2Proof.Machine

namespace Sys2Proof.Machine

/-! # The outcome of every command (R308, R309) -/

/-! ## Commands that always complete -/

theorem goesOn.next {x : State} : goesOn (.next x) := ⟨x, rfl⟩

theorem goesOn.ite {c : Prop} [Decidable c] {a b : Host.Outcome State Fault Refusal} (ha : goesOn a) (hb : goesOn b) :
    goesOn (if c then a else b) := by
  split
  · exact ha
  · exact hb

theorem goesOn.guard {c : Prop} [Decidable c] {x y : State} : goesOn (if c then .next x else .next y) := .ite .next .next

section
variable (t : BitVec 64) (s : State)

theorem execPrefillShip_completes (seat : BitVec 16) : goesOn (execPrefillShip t seat s) := by
  refine .ite .next ?_
  dsimp only
  split
  · exact .guard
  · exact .next

theorem execShipwaitExpiry_completes (seat : BitVec 16) : goesOn (execShipwaitExpiry t seat s) := by
  refine .ite .next ?_
  dsimp only
  split
  · exact .guard
  · exact .next

/-- Every use of a tag has its own answer to a wait that expires (R182, R191). -/
theorem execFetchwaitExpiry_completes (tag : BitVec 24) : goesOn (execFetchwaitExpiry t tag s) := by
  refine .ite .next (.ite ?_ .next)
  split <;> exact .next

theorem execPeerwaitLeadExpiry_completes (seat : BitVec 16) : goesOn (execPeerwaitLeadExpiry t seat s) := by
  refine .ite .next ?_
  dsimp only
  split
  · exact .next
  · exact .next

theorem execPeerwaitFollowerExpiry_completes (seat : BitVec 16) : goesOn (execPeerwaitFollowerExpiry t seat s) := by
  refine .ite .next ?_
  dsimp only
  split
  · exact .next
  · exact .next

theorem execDrafts_completes (m : DraftsMsg) : goesOn (execDrafts t m s) := by
  refine .ite .next (.ite .next ?_)
  dsimp only
  split
  · exact .next
  · exact .guard

theorem execLayerDone_completes (layer : BitVec 12) : goesOn (execLayerDone t layer s) := by
  refine .ite .next ?_
  dsimp only
  split
  · exact .next
  · exact .next

theorem execLayerRelease_completes : goesOn (execLayerRelease t s) := by
  refine .ite .next ?_
  dsimp only
  split
  · exact .next
  · exact .next

theorem execLaunch_completes : goesOn (execLaunch t s) := by
  refine .ite .next ?_
  dsimp only
  split
  · exact .guard
  · exact .next

theorem execDealComplete_completes : goesOn (execDealComplete t s) := by
  refine .ite .next ?_
  dsimp only
  split
  · split
    · exact .guard
    · exact .next
  · exact .next

theorem execLockExpiry_completes : goesOn (execLockExpiry t s) := by
  refine .ite .next ?_
  dsimp only
  split
  · exact .guard
  · exact .next

end

/-- Every command but those that `mayStop` names completes. -/
theorem exec_completes : ∀ (c : Instr), mayStop c = false → ∀ s, goesOn (exec c s)
  | .powerOnStart _, _, _ => .next
  | .startClearingDone _, _, _ => .guard
  | .fabricReady _, _, _ => .guard
  | .startWindowExpiry _, _, _ => .guard
  | .sagWarning _, _, _ => .guard
  | .sagRecordDone _, _, _ => .guard
  | .busRecovered _, _, _ => .guard
  | .fallowEntry _, _, _ => .guard
  | .fallowPowerOff _, _, _ => .guard
  | .wake _, _, _ => .next
  | .wakeholdExpiry _, _, _ => .next
  | .linkUp _ _ _, _, _ => .guard
  | .linkDown _ _ _, _, _ => .guard
  | .hello _ _ _ _ _ _, _, _ => .guard
  | .credit _ _ _ _ _ _, _, _ => .guard
  | .unknownMessage _ _ _ _ _ _, _, _ => .guard
  | .portOpen _ _, _, _ => .next
  | .portDrop _ _, _, _ => .next
  | .openReq _ _, _, _ => .ite .next .guard
  | .prompt _ _ _ _, _, _ => .ite .next .guard
  | .promptwaitExpiry _ _, _, _ => .ite .next .guard
  | .cancel _ _, _, _ => .ite .next .guard
  | .prefillShip _ _, _, s => execPrefillShip_completes _ s _
  | .prefillKv _ _ _ _ _ _, _, _ => .guard
  | .prefillFail _ _ _ _, _, _ => .guard
  | .shipwaitExpiry _ _, _, s => execShipwaitExpiry_completes _ s _
  | .kvData _ _ _ _, _, _ => .guard
  | .kvMiss _ _ _, _, _ => .guard
  | .putAck _ _ _, _, _ => .guard
  | .putDecline _ _, _, _ => .guard
  | .imageData _ _ _ _, _, _ => .guard
  | .dirAdd _ _, _, _ => .guard
  | .dirDrop _ _, _, _ => .guard
  | .replayEnd _ _, _, _ => .guard
  | .fetchwaitExpiry _ _, _, s => execFetchwaitExpiry_completes _ s _
  | .splitOpen _ _ _, _, _ => .guard
  | .splitOpened _ _ _ _ _ _ _ _, _, _ => .guard
  | .splitClose _ _ _ _ _, _, _ => .guard
  | .splitPause _ _ _ _, _, _ => .guard
  | .splitResume _ _ _ _, _, _ => .guard
  | .jointOffer _ _ _ _ _ _, _, _ => .guard
  | .jointBind _ _ _ _ _ _ _, _, _ => .guard
  | .jointGo _ _ _ _ _ _ _ _, _, _ => .guard
  | .query _ _ _ _ _ _ _, _, _ => .guard
  | .partialMsg _ _ _ _ _ _ _, _, _ => .guard
  | .clusterExchangeOut _ _ _ _ _ _ _ _, _, _ => .ite .next .guard
  | .lease _ _ _ _ _ _, _, _ => .guard
  | .peerwaitLeadExpiry _ _, _, s => execPeerwaitLeadExpiry_completes _ s _
  | .peerwaitFollowerExpiry _ _, _, s => execPeerwaitFollowerExpiry_completes _ s _
  | .leaseIdleExpiry _ _, _, _ => .guard
  | .objFetch _ _ _ _ _, _, _ => .guard
  | .objData _ _ _ _, _, _ => .guard
  | .secwaitExpiry _ _, _, _ => .ite .next .guard
  | .tfetch _, _, _ => .ite .next .guard
  | .tdone _ _ _ _, _, _ => .guard
  | .terr _ _, _, _ => .guard
  | .tstatus _ _ _, _, _ => .guard
  | .candList _ _, _, _ => .ite .next .guard
  | .refillRoomFreed _ _, _, _ => .guard
  | .drafts _ _, _, s => execDrafts_completes _ s _
  | .epochDone _ _ _ _ _, _, _ => .guard
  | .layerDone _ _, _, s => execLayerDone_completes _ s _
  | .composeBegin _, _, _ => .ite .next .guard
  | .idleComposeStart _, _, _ => .ite .next (.ite .guard .next)
  | .dealHandOff _, _, _ => .guard
  | .dealComplete _, _, s => execDealComplete_completes _ s
  | .launch _, _, s => execLaunch_completes _ s
  | .layerRelease _, _, s => execLayerRelease_completes _ s
  | .stopBoundary _ _, _, _ => .guard
  | .stopImmediate _, _, _ => .guard
  | .stopGo _, _, _ => .guard
  | .blockHashDone _ _, _, _ => .guard
  | .indexProbeDone _ _, _, _ => .guard
  | .pkvRegister, _, _ => .guard
  | .pkvWithdraw, _, _ => .guard
  | .pkvRetirePop, _, _ => .guard
  | .modRegisterDone _, _, _ => .guard
  | .modRetirePop, _, _ => .guard
  | .gateRequest _ _ _ _ _ _, _, _ => .guard
  | .gateRequestDrop _ _ _ _ _ _, _, _ => .guard
  | .gateBurstLimit _ _ _, _, _ => .guard
  | .gateWindowEdge _ _ _ _, _, _ => .guard
  | .gateWatchdog _ _ _ _, _, _ => .guard
  | .gateRevoke _ _ _ _, _, _ => .guard
  | .windowEdge _, _, _ => .ite .next .guard
  | .scrubTick _ _, _, _ => .next
  | .lockAcquire _, _, _ => .guard
  | .lockRelease _, _, _ => .next
  | .lockExpiry _, _, s => execLockExpiry_completes _ s
  | .bootBedrocknext, _, _ => .next
  | .bootClear, _, _ => .next
  | .obsSnapnow, _, _ => .guard
  | .obsSnap, _, _ => .guard
  | .obsClear, _, _ => .guard
  | .obsClearkeep, _, _ => .next
  | .trcFire _, _, _ => .guard
  | .opsQueueRoom _, _, _ => .guard
  | .traceStagingDrain, _, _ => .guard
  | .residentBlockVerified _ _, _, _ => .guard
  | .fabricEgressCredit _ _ _, _, _ => .guard

/-! ## Commands that may stop -/

/-- The outcome is a next state or a misuse. -/
def Answers (o : Host.Outcome State Fault Refusal) : Prop := ∀ r, o ≠ .refused r

namespace Answers

theorem next {x : State} : Answers (.next x) := nofun

theorem fault {f : Fault} : Answers (.fault f) := nofun

theorem ite {c : Prop} [Decidable c] {a b : Host.Outcome State Fault Refusal} (ha : Answers a) (hb : Answers b) :
    Answers (if c then a else b) := by
  split
  · exact ha
  · exact hb

theorem of_goesOn {o : Host.Outcome State Fault Refusal} (h : goesOn o) : Answers o := by
  obtain ⟨u, rfl⟩ := h
  exact next

theorem andThen {o : Host.Outcome State Fault Refusal} {f : State → Host.Outcome State Fault Refusal} (ho : Answers o)
    (hf : ∀ s, Answers (f s)) : Answers (andThen o f) := by
  cases o with
  | next s => exact hf s
  | fault r => exact fault
  | refused r => exact absurd rfl (ho r)

theorem eachDo {α : Type} {f : α → State → Host.Outcome State Fault Refusal} (hf : ∀ a s, Answers (f a s)) :
    ∀ (l : List α) (s : State), Answers (eachDo f l s)
  | [], _ => next
  | a :: l, s => andThen (hf a s) (eachDo hf l)

theorem tenantWrite (i : Nat) (v : Word) (s : State) : Answers (tenantWrite i v s) := .ite .fault .next

theorem slotWrite (v : Word) (s : State) : Answers (slotWrite v s) := .ite .fault (.ite .fault .next)

theorem splitWrite (v : Word) (s : State) : Answers (splitWrite v s) := .ite .next (.ite .fault .next)

theorem digWrite (v : Word) (s : State) : Answers (digWrite v s) := .ite .fault .next

theorem nextEpochWrite (img : Bool) (v : Word) (s : State) : Answers (nextEpochWrite img v s) := .ite .fault (.ite .fault .next)

theorem fieldWrite (img : Bool) (r : RegDef) (v : Word) (s : State) : Answers (fieldWrite img r v s) := by
  refine .ite .fault (.ite .fault (.ite .fault ?_))
  split
  · exact .fault
  · exact .ite .fault (.ite (nextEpochWrite img v s) (.ite .next (.ite .next .next)))

theorem storeWrite (img : Bool) (off : Nat) (v : Word) (s : State) : Answers (storeWrite img off v s) := by
  refine .ite (tenantWrite _ v s) (.ite (slotWrite v s) (.ite (splitWrite v s) (.ite (digWrite v s) (.ite .next (.ite .fault ?_)))))
  split
  · exact fieldWrite img _ v s
  · exact .next

theorem cmdBit (off i : Nat) (s : State) : Answers (cmdBit off i s) := by
  unfold Machine.cmdBit
  split
  case h_11 => exact .ite .fault .next
  case h_14 => exact .ite .next .next
  case h_15 => exact .ite .next .next
  all_goals exact .next

theorem commands (off : Nat) (v : Word) (s : State) : Answers (commands off v s) := by
  unfold Machine.commands
  split
  · exact .next
  · exact .ite .fault (.ite .next (.ite .next (eachDo (cmdBit off) _ s)))

theorem registerWrite (off : Nat) (v : Word) (s : State) : Answers (registerWrite off v s) :=
  .ite .fault (((storeWrite false off v s).andThen (commands off v)).andThen fun _ => .next)

theorem applySection (x : Section) (s : State) : Answers (applySection x s) := by
  unfold Machine.applySection
  split
  · exact .next
  · exact eachDo (fun (e : Nat × Word) s => .ite .fault (.ite .fault (storeWrite true e.1 e.2 s))) _ s
  · exact .next
  · exact .next

theorem applyConfig (s : State) : Answers (applyConfig s) := by
  unfold Machine.applyConfig
  split
  · exact .next
  · exact .ite .next ((eachDo applySection _ s).andThen fun _ => .next)

theorem imageReadDone (t : BitVec 64) (bytes : List Byte) (s : State) : Answers (execImageReadDone t bytes s) :=
  .ite .next (.ite .next (.ite (applyConfig _) .next))

theorem mainPowerGood (t : BitVec 64) (s : State) : Answers (execMainPowerGood t s) :=
  .ite .next ((applyConfig _).andThen fun _ => .next)

theorem modRegister (f : ModelFields) (ds : List Desc) (s : State) : Answers (execModRegister f ds s) := by
  refine .ite .next ?_
  split
  · exact .fault
  · exact .next

end Answers

/-- The commands that `mayStop` names complete or are a misuse. -/
theorem exec_answers_of_mayStop : ∀ (c : Instr), mayStop c = true → ∀ s, Answers (exec c s)
  | .imageReadDone t bytes, _, s => .imageReadDone t bytes s
  | .mainPowerGood t, _, s => .mainPowerGood t s
  | .modRegister f ds, _, s => .modRegister f ds s
  | .modWithdraw, _, _ => .ite .next (.ite .fault .next)
  | .modHotload _, _, _ => .ite .next (.ite .fault .next)
  | .modReobj _, _, _ => .ite .next (.ite .fault .next)
  | .trcArm, _, _ => .ite .next (.ite .next .fault)
  | .tenantDataWrite i v, _, s => .tenantWrite i.toNat v s
  | .slotDataWrite v, _, s => .slotWrite v s
  | .splitDataWrite v, _, s => .splitWrite v s
  | .digDataWrite v, _, s => .digWrite v s
  | .registerWrite t off v, _, s => .registerWrite off.toNat v (tick t s)

/-- Settles O11: a command completes unless `mayStop` names it, and those it names complete or are a misuse. -/
theorem everyCommandHasAMeaning : Obligations.EveryCommandHasAMeaning := by
  refine ⟨fun c s => (?_ : Answers (exec c s)), fun c s h => exec_completes c h s⟩
  cases h : mayStop c with
  | false => exact .of_goesOn (exec_completes c h s)
  | true => exact exec_answers_of_mayStop c h s

end Sys2Proof.Machine

namespace Sys2Proof.Machine

/-! # Fallow, wake, and the hold buffer (R274, R275, R321) -/

/-! ## What a wake and an abandoned entry leave of the power state -/

/-- A wake begins: STATE reads 4, fallow's time and the wake are counted, and the window's edge moves on past fallow (R42, R275). -/
theorem startWake_eq (s : State) : ∃ c e, startWake s = { s with
    pwr := { s.pwr with state := 4, wakeAt := s.now }, keep := { s.keep with cnt := c }, est := e } ∧
    tget 0 c 0xF5 = satAdd48 (tget 0 s.keep.cnt 0xF5) 1 ∧ e.winNum = s.est.winNum := by
  unfold startWake
  rw [bump, bumpN_keep_eq (c := 0xF5) (by decide), bumpN_keep_eq (c := 0xF6) (by decide)]
  have counted : ∀ n, tget 0 (tput 0 (tput 0 s.keep.cnt 0xF6 n) 0xF5 (satAdd48 (tget 0 (tput 0 s.keep.cnt 0xF6 n) 0xF5) 1)) 0xF5
      = satAdd48 (tget 0 s.keep.cnt 0xF5) 1 := fun n => by
    rw [tget_tput_self, tget_tput_other _ _ _ _ (by decide)]
  dsimp only
  split
  · exact ⟨_, _, rfl, counted _, rfl⟩
  · exact ⟨_, _, rfl, counted _, rfl⟩

/-- The abandoned entry takes the power state to a wake that begins now (R274). -/
theorem fallowAbandon_pwr (s : State) : ∃ b, (fallowAbandon s).pwr = { s.pwr with state := 4, wakeAt := s.now, replayed := b } :=
  ⟨_, pwr_of_calm (greetLinks_calm _)⟩

/-! ## A message that joins the hold buffer -/

/-- A message of port G that the port takes joins the hold buffer last; it abandons an entry, and an OPEN ends fallow (R274, R275). -/
theorem holdMsg_joins {cls : Nat} {s : State} (taken : s.accepts .G 0 cls 0 = true) (c : Instr) (op : Nat) (word1 : Word)
    (isOpen : Bool) : (holdMsg c cls op word1 isOpen s).pwr.hold = s.pwr.hold ++ [c] ∧
      (holdMsg c cls op word1 isOpen s).pwr.state = if s.pwr.state = 2 ∨ s.pwr.state = 3 ∧ isOpen = true then 4 else s.pwr.state := by
  have arrived := (arrive_fst .G 0 cls op word1 0 s).trans taken
  have pwr := pwr_of_calm (arrive_calm .G 0 cls op word1 0 s)
  unfold holdMsg
  split <;> rename_i x e <;> rw [e] at arrived pwr
  · cases arrived
  · have state : x.pwr.state = s.pwr.state := by rw [pwr]
    have hold : x.pwr.hold = s.pwr.hold := by rw [pwr]
    dsimp only
    rw [modPwr_pwr]
    dsimp only
    rw [state]
    split
    · rename_i entering
      obtain ⟨b, abandoned⟩ := fallowAbandon_pwr (modPwr (fun p => { p with hold := p.hold ++ [c] }) x)
      rw [abandoned, if_pos (.inl entering), ← hold]
      exact ⟨rfl, rfl⟩
    · rename_i notEntering
      split
      · rename_i woken
        obtain ⟨k, e, wake, -, -⟩ := startWake_eq (modPwr (fun p => { p with hold := p.hold ++ [c] }) x)
        rw [wake, if_pos (.inr woken), ← hold]
        exact ⟨rfl, rfl⟩
      · rename_i asleep
        rw [if_neg (not_or.mpr ⟨notEntering, asleep⟩), ← hold]
        exact ⟨rfl, state⟩

section
variable (t : BitVec 64) {s : State} (power : s.powered .G = true) (held : s.holding = true)
include power held

theorem openReq_held (m : OpenMsg) :
    exec (.openReq t m) s = .next (holdMsg (.openReq t m) 0 0x10 m.reqid true (tick t s)) := by
  change execOpenReq t m s = _
  unfold execOpenReq
  simp only [tick_powered, power, tick_holding, held, Bool.not_true, Bool.false_eq_true, if_false, if_true]

theorem prompt_held (peer : BitVec 6) (m : PromptMsg) :
    exec (.prompt t .G peer m) s = .next (holdMsg (.prompt t .G peer m) 1 0x11 m.reqid false (tick t s)) := by
  change execPrompt t .G peer m s = _
  unfold execPrompt
  dsimp only
  rw [if_neg (by simp [power]), if_pos (by simp [held])]

theorem cancel_held (r : BitVec 64) :
    exec (.cancel t r) s = .next (holdMsg (.cancel t r) 2 0x16 r false (tick t s)) := by
  change execCancel t r s = _
  unfold execCancel
  simp only [tick_powered, power, tick_holding, held, Bool.not_true, Bool.false_eq_true, if_false, if_true]

end

/-- Settles O20: port G holds while STATE is 2, 3 or 4, and each message that it takes joins the buffer. -/
theorem heldArrivals : Obligations.HeldArrivals := by
  intro t s power held
  have joins : ∀ (c : Instr) (cls op : Nat) (word1 : Word) (isOpen : Bool), s.accepts .G 0 cls 0 = true →
      (holdMsg c cls op word1 isOpen (tick t s)).pwr.hold = s.pwr.hold ++ [c] ∧
      (holdMsg c cls op word1 isOpen (tick t s)).pwr.state =
        if s.pwr.state = 2 ∨ s.pwr.state = 3 ∧ isOpen = true then 4 else s.pwr.state := fun c cls op word1 isOpen taken => by
    have h := holdMsg_joins ((tick_accepts t s .G 0 cls 0).trans taken) c op word1 isOpen
    rwa [tick_pwr] at h
  refine ⟨fun m taken => ?_, fun peer m taken => ?_, fun r taken => ?_⟩
  · obtain ⟨hold, state⟩ := joins (.openReq t m) 0 0x10 m.reqid true taken
    refine ⟨_, openReq_held t power held m, hold, state.trans ?_⟩
    have states : s.pwr.state = 2 ∨ s.pwr.state = 3 ∨ s.pwr.state = 4 := by simpa [State.holding, or_assoc] using held
    obtain entering | asleep | waking := states
    · exact if_pos (.inl entering)
    · exact if_pos (.inr ⟨asleep, rfl⟩)
    · simp [waking]
  · obtain ⟨hold, state⟩ := joins (.prompt t .G peer m) 1 0x11 m.reqid false taken
    exact ⟨_, prompt_held t power held peer m, hold, by simpa using state⟩
  · obtain ⟨hold, state⟩ := joins (.cancel t r) 2 0x16 r false taken
    exact ⟨_, cancel_held t power held r, hold, by simpa using state⟩

/-! ## Fallow (R265, R274, R284, R321) -/

theorem fallowEntry_enters (t : BitVec 64) (s : State) (on : s.pwr.state = 1) (fallow : s.on F.PWR_CTRL_FALLOW = true)
    (free : s.allFree = true) : exec (.fallowEntry t) s = .next (finish (fallowEntry (tick t s))) := by
  have free : (tick t s).allFree = true := by
    simpa only [State.allFree, State.seatIdx, tick_led, tick_seat] using free
  change execFallowEntry t s = _
  unfold execFallowEntry
  dsimp only
  rw [if_pos (by simp [on, fallow, free])]

theorem fallowPowerOff_switches (t : BitVec 64) (s : State) (entering : s.pwr.state = 2) (stopped : s.deals.stopped = true)
    (drained : s.obs.staging = []) (empty : s.pwr.hold = []) :
    exec (.fallowPowerOff t) s = .next (poweredOff (tick t s)) := by
  change execFallowPowerOff t s = _
  unfold execFallowPowerOff
  dsimp only
  rw [if_pos (by simp [entering, stopped, drained, empty])]
  rfl

/-- What the main domain loses, the ledger and the tenants do not (R265). -/
theorem poweredOff_eq (s : State) : poweredOff s = { mainOff s with
    pwr := { s.pwr with state := 3, mainGood := false, cleared := false, replay := false, fallowAt := s.now }
    keep := { s.keep with cnt := tput 0 s.keep.cnt 0xF4 (satAdd48 (tget 0 s.keep.cnt 0xF4) 1) } } := by
  unfold poweredOff
  rw [bump, bumpN_keep_eq (by decide)]
  rfl

section
variable (s : State)

@[simp] theorem mainOff_led : (mainOff s).led = s.led := by
  simp only [mainOff, setReg_led, modSieve_led, modObs_led, modPorts_led, modSeq_led, modKv_led]

@[simp] theorem mainOff_tenants : (mainOff s).tenants = s.tenants := by
  simp only [mainOff, setReg_tenants, modSieve_tenants, modObs_tenants, modPorts_tenants, modSeq_tenants, modKv_tenants]

@[simp] theorem mainOff_classes : (mainOff s).classes = s.classes := by
  simp only [mainOff, setReg_classes, modSieve_classes, modObs_classes, modPorts_classes, modSeq_classes, modKv_classes]

@[simp] theorem mainOff_est : (mainOff s).est = s.est := by
  simp only [mainOff, setReg_est, modSieve_est, modObs_est, modPorts_est, modSeq_est, modKv_est]

@[simp] theorem mainOff_deals : (mainOff s).deals = s.deals := by
  simp only [mainOff, setReg_deals, modSieve_deals, modObs_deals, modPorts_deals, modSeq_deals, modKv_deals]

@[simp] theorem mainOff_egress : (mainOff s).egress = s.egress := by
  simp only [mainOff, setReg_egress, modSieve_egress, modObs_egress, modPorts_egress, modSeq_egress, modKv_egress]

end

/-- Only the ports of the keep domain stay open as the main domain switches off (R265, R321). -/
theorem mainOff_open {n : Nat} {s : State} (h : n ∈ (mainOff s).ports.open_) : n ∈ s.ports.open_ ∧ (n = 0 ∨ n = 6) := by
  have h : n ∈ s.ports.open_.filter fun n => n == 0 || n == 6 := h
  simpa using h

/-- Settles O18: the entry by its core, and the switch-off by what `mainOff` leaves. -/
theorem fallow : Obligations.Fallow := by
  refine ⟨fun t s on fallow free => ?_, fun t s entering stopped drained empty => ?_⟩
  · exact ⟨_, fallowEntry_enters t s on fallow free, (finish_core _).trans (fallowEntry_core _)⟩
  · refine ⟨_, fallowPowerOff_switches t s entering stopped drained empty, poweredOff_core _, ?_⟩
    rw [poweredOff_eq]
    simp only [mainOff_led, mainOff_tenants, mainOff_classes, mainOff_est, mainOff_deals, mainOff_egress, tick_led, tick_tenants,
      tick_classes, tick_est, tick_deals, tick_egress, true_and]
    refine ⟨rfl, rfl, rfl, fun n open_ => ?_, ?_⟩
    · have kept := mainOff_open open_
      rwa [tick_ports] at kept
    · rw [tick_keep]
      exact tget_tput_self ..

/-! ## Wake (R275, R321) -/

theorem wakeholdExpiry_delivers (t : BitVec 64) (s : State) (waking : s.pwr.state = 4)
    (elapsed : s.pwr.wakeAt + 1000000 * s.fld F.PWR_FALLOW_WAKEHOLD ≤ (tick t s).now) :
    exec (.wakeholdExpiry t) s = .next (deliverHold (tick t s)) := by
  change execWakeholdExpiry t s = _
  unfold execWakeholdExpiry
  dsimp only
  rw [if_pos (by simp [waking, elapsed])]

/-- With nothing held only STATE and LASTWAKE change, and GO is written where fallow's entry stopped the node (R275, R321). -/
theorem deliverHold_empty {s x : State} (empty : s.pwr.hold = []) (hx : x = { s with pwr := { s.pwr with
    state := 1, hold := [], lastWake := sat 4294967295 ((s.now - s.pwr.wakeAt) / 1000) } }) : deliverHold s = wakeGo x := by
  subst hx
  unfold deliverHold
  rw [empty]
  rfl

/-- Settles O19: a wake by `startWake_eq`, and the delivery by what waits in the buffer. -/
theorem wakeAndHold : Obligations.WakeAndHold := by
  refine ⟨fun t s asleep => ?_, fun t s awake => ?_, wakeholdExpiry_delivers, fun s x empty hx => ?_⟩
  · have begins : exec (.wake t) s = .next (startWake (tick t s)) := by
      change Host.Outcome.next (wakeWrite (tick t s)) = _
      rw [wakeWrite, if_pos (by rw [tick_pwr]; exact asleep)]
    obtain ⟨c, e, wake, counted, window⟩ := startWake_eq (tick t s)
    refine ⟨_, begins, startWake_core _, ?_⟩
    rw [wake, window, counted]
    simp only [tick_led, tick_tenants, tick_est, tick_regs, tick_ports, tick_egress, tick_keep, and_self]
  · change Host.Outcome.next (wakeWrite (tick t s)) = _
    rw [wakeWrite, if_neg (by rw [tick_pwr]; exact awake)]
  · have same : x.deals = s.deals := by rw [hx]
    rw [deliverHold_empty empty hx, wakeGo, same]
    exact ⟨fun going => by rw [if_neg (by simp [going])], fun stopped => if_pos stopped⟩

end Sys2Proof.Machine

namespace Sys2Proof.Machine

/-! # Counters, snapshots and the trace (R284 to R293), and OPENs past the length limits (R309, R310) -/

/-! ## Running grants that an event meets (R220, R286) -/

/-- From `s` to `u` the observation unit moves in its counters alone, and counters of 48 bits stay so (R284). -/
structure Counted (s u : State) : Prop where
  obs : u.obs = { s.obs with cnt := u.obs.cnt }
  fit : (∀ n, s.cnt n < 2 ^ 48) → ∀ n, u.cnt n < 2 ^ 48

namespace Counted

variable {s u v : State}

theorem refl : Counted s s := ⟨rfl, id⟩

theorem trans (h : Counted s u) (k : Counted u v) : Counted s v :=
  ⟨by rw [k.obs, h.obs], fun fits => k.fit (h.fit fits)⟩

theorem of_same (ho : u.obs = s.obs) (hk : u.keep = s.keep) : Counted s u := by
  have cnt : ∀ n, u.cnt n = s.cnt n := fun n => by rw [State.cnt, State.cnt, ho, hk]
  exact ⟨by rw [ho], fun fits n => by rw [cnt]; exact fits n⟩

theorem bumpN (c n : Nat) (s : State) : Counted s (bumpN c n s) := by
  refine ⟨?_, fun fits d => ?_⟩
  · unfold Machine.bumpN
    split <;> rfl
  · by_cases same : d = c
    · rw [same, bumpN_cnt_self]
      exact Nat.lt_of_le_of_lt (sat_le ..) (by decide)
    · rw [bumpN_cnt_other same]
      exact fits d

theorem moveBeats (g p n : Nat) (s : State) : Counted s (moveBeats g p n s) := by
  unfold Machine.moveBeats
  dsimp only
  split
  · exact refl
  · refine trans ?_ (bumpN ..)
    exact of_same rfl rfl

theorem freeBeats (g p : Nat) (s : State) : Counted s (freeBeats g p s) := by
  unfold Machine.freeBeats
  dsimp only
  split
  · exact refl
  · refine trans ?_ (moveBeats ..)
    exact of_same rfl rfl

theorem each {α : Type} {f : α → State → State} (h : ∀ a s, Counted s (f a s)) : ∀ (l : List α) (s : State), Counted s (each f l s)
  | [], _ => refl
  | a :: l, s => (h a s).trans (each h l (f a s))

theorem syncAll (s : State) : Counted s (syncAll s) := each (fun _ s => each (fun _ s => freeBeats _ _ s) _ s) _ s

end Counted

theorem each_fixed {α : Type} {f : α → State → State} {s : State} (h : ∀ a, f a s = s) : ∀ l : List α, each f l s = s
  | [] => rfl
  | a :: l => by rw [each, h a, each_fixed h l]

theorem freeBeats_of_noGrant {s : State} (idle : s.noGrant) (g p : Nat) : freeBeats g p s = s := by
  have unowned : ((s.gate g).path p).owner = none := by
    by_cases first : p = 0
    · rw [first]
      exact (idle g).1
    · rw [GateSt.path, if_neg first]
      exact (idle g).2
  unfold freeBeats
  dsimp only
  rw [unowned]
  rfl

theorem syncAll_of_noGrant {s : State} (idle : s.noGrant) : syncAll s = s :=
  each_fixed (fun _ => each_fixed (fun _ => freeBeats_of_noGrant idle _ _) _) _

theorem modObs_gateFrame (f : Obs → Obs) (s : State) : gateFrame s (modObs f s) := rfl

/-! ## Snapshots (R286) -/

theorem tget_each_tput (f : Nat → Nat) (n : Nat) : ∀ (l : List Nat) (t : List (Nat × Nat)),
    tget 0 (each (fun k t => tput 0 t k (f k)) l t) n = if n ∈ l then f n else tget 0 t n
  | [], t => by simp [each]
  | k :: l, t => by
    rw [each, tget_each_tput f n l]
    by_cases later : n ∈ l
    · rw [if_pos later, if_pos (List.mem_cons_of_mem k later)]
    · by_cases here : n = k
      · subst here
        rw [if_neg later, tget_tput_self, if_pos List.mem_cons_self]
      · rw [if_neg later, tget_tput_other _ _ _ _ here, if_neg (by simp [here, later])]

theorem tget_allCounters (s : State) {n : Nat} (h : n < 256) : tget 0 s.allCounters n = s.cnt n :=
  (tget_each_tput s.cnt n (List.range 256) []).trans (if_pos (List.mem_range.mpr h))

/-- What a snapshot leaves: every counter copied, under the next SNAPSEQ (R286). -/
theorem takeSnap_spec (s : State) : (takeSnap s).obs.snapSeq = (s.obs.snapSeq + 1) % 65536 ∧
    (takeSnap s).obs.bankSeq = (s.obs.snapSeq + 1) % 65536 ∧ (takeSnap s).obs.snapPend = s.obs.snapPend ∧
    (∀ n, (takeSnap s).cnt n = (syncAll s).cnt n) ∧ ∀ n, n < 256 → tget 0 (takeSnap s).obs.snap n = (takeSnap s).cnt n := by
  have seq : (syncAll s).obs.snapSeq = s.obs.snapSeq := by rw [(Counted.syncAll s).obs]
  have pend : (syncAll s).obs.snapPend = s.obs.snapPend := by rw [(Counted.syncAll s).obs]
  have copied : ∀ n, n < 256 → tget 0 (syncAll s).allCounters n = (syncAll s).cnt n := fun _ h => tget_allCounters _ h
  unfold takeSnap
  dsimp only
  generalize (syncAll s).allCounters = l at copied
  rw [← seq, ← pend]
  exact ⟨rfl, rfl, rfl, fun _ => rfl, copied⟩

/-- A snapshot register reads its counter and SNAPSEQ (R286, R299). -/
theorem read_snapshot (s : State) {n : Nat} (h : n < 256) :
    s.read (0x5800 + 8 * n) = pack [(16, s.obs.bankSeq), (48, tget 0 s.obs.snap n)] := by
  unfold State.read
  rw [if_neg (by omega), if_pos (by omega), show (0x5800 + 8 * n - 0x5800) / 8 = n by omega]

theorem takeSnap_gateFrame (s : State) : gateFrame s (takeSnap s) := by
  unfold takeSnap
  exact gateFrame_trans (syncAll_gateFrame s) (modObs_gateFrame ..)

theorem takeSnap_of_noGrant {s : State} (idle : s.noGrant) : takeSnap s = { s with obs := (takeSnap s).obs } := by
  unfold takeSnap
  rw [syncAll_of_noGrant idle]
  rfl

/-! ## A snapshot at step 8 (R286) -/

/-- SNAPPEND and SNAPSEQ. -/
def State.snapState (s : State) : Bool × Nat := (s.obs.snapPend, s.obs.snapSeq)

theorem snapState_of_calm {s u : State} (h : u.calm = s.calm) : u.snapState = s.snapState :=
  congrArg (fun x => (x.obs.snapPend, x.obs.snapSeq)) h

theorem drainFPass_snapState : ∀ (l : List (List Nat × Msg)) (s : State), (drainFPass l s).1.snapState = s.snapState
  | [], _ => rfl
  | (gs, m) :: l, s => by
    unfold drainFPass
    split
    · exact (drainFPass_snapState l _).trans ((snapState_of_calm (depart_calm ..)).trans rfl)
    · rfl

@[simp] theorem setFld_cnt (f : Fld) (v : Nat) (s : State) (n : Nat) : (setFld f v s).cnt n = s.cnt n := rfl

theorem candCfg_snapState (e : Nat) (s : State) : (candCfg e s).snapState = s.snapState := by
  unfold candCfg
  split
  · exact drainFPass_snapState _ (modPorts _ s)
  · rfl

theorem beforeSnap_snapState (e : Nat) (s : State) : (applyDeferred (swapBanks (traceMarker e s))).snapState = s.snapState := by
  have marked : (traceMarker e s).snapState = s.snapState := by
    unfold traceMarker
    dsimp only
    split
    · rfl
    · exact snapState_of_calm (trace_calm ..)
  have swapped : ∀ x : State, (swapBanks x).snapState = x.snapState := fun x => by
    unfold swapBanks
    split <;> rfl
  have deferred : ∀ x : State, (applyDeferred x).snapState = x.snapState := fun x => by
    unfold applyDeferred
    extract_lets cfg y
    have same : y.snapState = x.snapState := by
      unfold y
      split <;> rfl
    split
    · exact (candCfg_snapState ..).trans same
    · exact same
  rw [deferred, swapped, marked]

/-- A snapshot that was due has been taken when the boundary's registers are written (R27, R286). -/
theorem boundaryWrites_snap (e : Nat) (s : State) (due : s.obs.snapPend = true) :
    (boundaryWrites e s).obs.snapPend = false ∧ (boundaryWrites e s).obs.snapSeq = (s.obs.snapSeq + 1) % 65536 ∧
    ∀ n, n < 256 → tget 0 (boundaryWrites e s).obs.snap n = (boundaryWrites e s).cnt n := by
  have before := beforeSnap_snapState e s
  unfold boundaryWrites
  generalize applyDeferred (swapBanks (traceMarker e s)) = x at before
  obtain ⟨pend, seq⟩ := Prod.mk.inj before
  have taken : snapDue x = takeSnap (modObs (fun o => { o with snapPend := false }) x) := by
    rw [snapDue, if_pos (pend.trans due)]
  obtain ⟨spec, -, cleared, -, copied⟩ := takeSnap_spec (modObs (fun o => { o with snapPend := false }) x)
  rw [modObs_obs] at spec cleared
  dsimp only
  rw [taken, ← seq]
  generalize takeSnap (modObs (fun o => { o with snapPend := false }) x) = y at spec cleared copied
  simp only [setFld_obs, setFld_cnt]
  exact ⟨cleared, spec, copied⟩

/-- Settles O56: SNAPNOW by what `takeSnap` leaves, SNAP by its command and by the boundary that takes it. -/
theorem snapshots : Obligations.Snapshots := by
  refine ⟨fun s on fits => ?_, fun s on => ?_, boundaryWrites_snap⟩
  · have now : exec .obsSnapnow s = .next (takeSnap s) := by
      change execObsSnapnow s = _
      rw [execObsSnapnow, if_neg (by simp [on])]
    obtain ⟨seq, bank, -, counters, copied⟩ := takeSnap_spec s
    refine ⟨_, now, takeSnap_gateFrame s, seq, fun idle => ?_, fun n h => ?_⟩
    · exact ⟨takeSnap_of_noGrant idle, fun n => by rw [counters, syncAll_of_noGrant idle]⟩
    · have small : (takeSnap s).cnt n < 2 ^ 48 := by
        rw [counters]
        exact (Counted.syncAll s).fit fits n
      rw [read_snapshot _ h, copied n h, bank, seq]
      exact ⟨bitsOf_pack 1 rfl rfl (by decide) small, bitsOf_pack 0 rfl rfl (by decide) (Nat.mod_lt _ (by decide))⟩
  · change execObsSnap s = _
    rw [execObsSnap, if_neg (by simp [on])]
    rfl

/-! ## The commands of the counters and of the trace (R284, R292, R293, R300) -/

@[simp] theorem stageRec_trcState (n : Nat) (r : TraceRec) (o : Obs) : (stageRec n r o).trcState = o.trcState := by
  unfold stageRec
  split <;> rfl

/-- An armed trace that fires is triggered, or frozen where nothing is to follow (R293). -/
theorem fireNow_of_armed {s : State} (armed : s.obs.trcState = 1) :
    (fireNow s).obs.trcState = 2 ∨ (fireNow s).obs.trcState = 3 := by
  have fired : ∀ o : Obs, o.trcState = 2 → (if o.postMax = 0 then freezeTrace o else o).trcState = 2 ∨
      (if o.postMax = 0 then freezeTrace o else o).trcState = 3 := fun o h => by
    split
    · exact .inr (stageRec_trcState ..)
    · exact .inl h
  unfold fireNow
  dsimp only
  rw [if_neg (fun idle => idle armed)]
  split
  · exact fired _ (stageRec_trcState ..)
  · exact fired { s.obs with trcState := 2, post := 0, trigAt := s.now } rfl

/-- FIRE changes the observation unit alone. -/
theorem fireNow_eq (s : State) : fireNow s = { s with obs := (fireNow s).obs } := by
  unfold fireNow
  dsimp only
  split
  · rfl
  · split <;> rfl

/-- Records that are added to the table leave the queue and the ledger (R288). -/
theorem addAll_frame (d : Deal) (l : List OpsRec) (s : State) : (addAll d l s).obs.opsHeld = s.obs.opsHeld ∧
    (addAll d l s).obs.opsQueue = s.obs.opsQueue ∧ (addAll d l s).led = s.led := by
  unfold addAll
  induction l generalizing s with
  | nil => exact ⟨rfl, rfl, rfl⟩
  | cons r l ih => exact ih (addOps d r s)

theorem applyOps_frame (s : State) : (applyOps s).obs.opsQueue = [] ∧ (applyOps s).led = s.led := by
  unfold applyOps
  split
  · obtain ⟨-, queue, led⟩ := addAll_frame _ (s.obs.opsQueue.map (·.2)) (modObs (fun o => { o with opsQueue := [] }) s)
    exact ⟨queue, led⟩
  · exact ⟨rfl, rfl⟩

/-- The held report's records are taken with those that the queue holds (R288). -/
theorem opsRoom_spec {s : State} {e since : Nat} {l : List OpsRec} {r : Running} (held : s.obs.opsHeld = some (e, since, l))
    (running : s.deals.running = some r) : (opsRoom s).obs.opsHeld = none ∧ (opsRoom s).obs.opsQueue = [] ∧ (opsRoom s).led = s.led := by
  obtain ⟨emptied, ledger⟩ := applyOps_frame s
  obtain ⟨released, queue, led⟩ := addAll_frame r.deal l (modObs (fun o => { o with opsHeld := none }) (applyOps s))
  unfold opsRoom
  rw [held, running]
  dsimp only
  generalize addAll r.deal l (modObs (fun o => { o with opsHeld := none }) (applyOps s)) = x at released queue led
  have traced : ∀ c, (takeDone (trace c x)).obs.opsHeld = x.obs.opsHeld ∧ (takeDone (trace c x)).obs.opsQueue = x.obs.opsQueue ∧
      (takeDone (trace c x)).led = x.led := fun c =>
    ⟨congrArg (·.obs.opsHeld) (trace_calm c x), congrArg (·.obs.opsQueue) (trace_calm c x), trace_led c x⟩
  obtain ⟨traceHeld, traceQueue, traceLed⟩ := traced (mkTrc 0x06 e (s.obs.opsQueue.length + l.length) 0 0xFFF since (x.now - since) false 0)
  exact ⟨traceHeld.trans released, traceQueue.trans (queue.trans emptied), traceLed.trans (led.trans ledger)⟩

theorem opsQueueRoom_of_power (t : BitVec 64) (s : State) (power : s.mainOn = true) :
    exec (.opsQueueRoom t) s = .next (opsRoom (tick t s)) := by
  change execOpsQueueRoom t s = _
  rw [execOpsQueueRoom, if_neg (by simp [power])]

theorem obsClear_clears (s : State) (on : s.cmdOn = true) : exec .obsClear s = .next (clearCounters s) := by
  change execObsClear s = _
  rw [execObsClear, if_neg (by simp [on])]

theorem trcArm_arms (s : State) (on : s.cmdOn = true) :
    exec .trcArm s = if s.trcCfgOk then .next (armTrace s) else .fault (.misuse 293) := by
  change execTrcArm s = _
  rw [execTrcArm, if_neg (by simp [on])]

theorem trcFire_fires (t : BitVec 64) (s : State) (on : s.cmdOn = true) : exec (.trcFire t) s = .next (fireNow (tick t s)) := by
  change execTrcFire t s = _
  rw [execTrcFire, if_neg (by simp [on])]

/-- Settles O57: each command by what its operation leaves. -/
theorem countersAndTrace : Obligations.CountersAndTrace := by
  refine ⟨fun s on => ?_, fun s => rfl, fun s on fits => ?_, fun s on misfit => ?_, fun t s on => ?_, fun s n r l power staged => ?_,
    fun t s e since l r power held running => ?_⟩
  · refine ⟨_, obsClear_clears s on, rfl, gateFrame_trans (syncAll_gateFrame s) (modObs_gateFrame ..), fun idle => ?_⟩
    rw [clearCounters, syncAll_of_noGrant idle]
    rfl
  · exact ⟨_, (trcArm_arms s on).trans (if_pos fits), rfl, rfl, rfl, rfl, rfl, rfl, rfl, rfl⟩
  · rw [isMisuse, trcArm_arms s on, misfit]
    rfl
  · refine ⟨_, trcFire_fires t s on, fireNow_eq _, fun unarmed => if_pos (by rwa [tick_obs]), fun armed => ?_⟩
    have fired := fireNow_of_armed (s := tick t s) (by rwa [tick_obs])
    omega
  · change execTraceStagingDrain s = _
    rw [execTraceStagingDrain, if_neg (by simp [power]), drainStaging, staged]
    rfl
  · obtain ⟨none, empty, led⟩ := opsRoom_spec (s := tick t s) (by rwa [tick_obs]) (by rwa [tick_deals])
    exact ⟨_, opsQueueRoom_of_power t s power, none, empty, opsRoom_core _, led.trans (tick_led ..)⟩

/-! ## OPENs past the length limits (R309, R310) -/

@[simp] theorem setSide_side (i : Nat) (d : Side) (s : State) : (setSide i d s).side i = d := tget_tput_self ..

@[simp] theorem modSide_side (i : Nat) (f : Side → Side) (s : State) : (modSide i f s).side i = f (s.side i) := setSide_side ..

/-- The seat that an OPEN takes is marked where the OPEN breaks a "must" (R248, R310). -/
theorem takeOpen_misuse (i : Nat) (m : OpenMsg) (s : State) (long : openTooLong m = true) : ((takeOpen i m s).side i).misuse = true := by
  unfold takeOpen
  extract_lets taken fields marked
  have mark : (marked.side i).misuse = true := by
    unfold marked
    rw [modSide_side, long]
    exact Bool.or_true _
  split
  · rw [startLookup, modSide_side]
    exact mark
  · exact mark

theorem openTooLong_of_single {m : OpenMsg} (single : m.kind = 0) (long : 8388608 < m.promptLen.toNat + m.maxTok.toNat) :
    openTooLong m = true := by
  simp [openTooLong, single, long]

theorem openTooLong_of_split {m : OpenMsg} {x : Member} (split : m.kind = 2) (own : m.members.getLast? = some x)
    (long : 1048576 - x.len.toNat < m.maxTok.toNat) : openTooLong m = true := by
  rw [openTooLong, if_pos split, own]
  exact decide_eq_true (show 1048576 < m.maxTok.toNat + x.len.toNat by omega)

section
variable {i : Nat} {s : State} (marked : (s.side i).misuse = true) (wanted : (s.seat i).cancel = false)
  (stays : (s.side i).closeAfter = 0)
include marked wanted stays

/-- A marked single seat that nothing else closes takes a free value after its admission: it closes with 0x7F, or its lookup begins
(R309; log entry 52). -/
theorem afterAdmit_of_misuse_single (single : (s.side i).kind = 0) : afterAdmit i s =
    if Config.freeNat s.free % 2 = 1 then closeSeat i 0x7F { s with free := s.free + 1 }
    else beginLookup i { s with free := s.free + 1 } := by
  have seat : ({ s with free := s.free + 1 } : State).seat i = s.seat i := rfl
  unfold afterAdmit
  simp only [marked, if_true, takeFree, seat, wanted, Bool.false_eq_true, if_false, stays, ne_eq, not_true_eq_false, single]

/-- A marked split seat closes with 0x7F, or opens, by the same free value. -/
theorem afterAdmit_of_misuse_split (split : (s.side i).kind = 2) : afterAdmit i s =
    if Config.freeNat s.free % 2 = 1 then closeSeat i 0x7F { s with free := s.free + 1 }
    else openSplit i { s with free := s.free + 1 } := by
  have seat : ({ s with free := s.free + 1 } : State).seat i = s.seat i := rfl
  unfold afterAdmit
  simp only [marked, if_true, takeFree, seat, wanted, Bool.false_eq_true, if_false, stays, ne_eq, not_true_eq_false, split]

end

/-- Settles O31: the mark by `takeOpen_misuse`, and what becomes of the seat by its KIND. -/
theorem openPastLimits : Obligations.OpenPastLimits := by
  refine ⟨fun i m s long => takeOpen_misuse i m s ?_, fun i s x marked wanted stays hx => ?_⟩
  · obtain ⟨single, long⟩ | ⟨split, y, own, long⟩ := long
    · exact openTooLong_of_single single long
    · exact openTooLong_of_split split own long
  · subst hx
    exact ⟨afterAdmit_of_misuse_single marked wanted stays, afterAdmit_of_misuse_split marked wanted stays⟩

end Sys2Proof.Machine


namespace Sys2Proof.Machine

/-! ## What an immediate stop leaves of the sag warning (R115, R276)

The sag warning is recorded first and the node is stopped after it, so the stop has to leave the record as it is. -/

/-- The notes of a sag warning in the state: the warning, the bus, the record, its time and the count of sags (R276 to R278). -/
def State.warned (s : State) : Bool × Bool × Bool × Nat × Nat :=
  (s.pwr.sagWarn, s.pwr.busUp, s.pwr.recDone, s.pwr.warnAt, tget 0 s.keep.cnt 0xF3)

theorem each_warned {α : Type} {f : α → State → State} {l : List α} {s : State}
    (h : ∀ a s, (f a s).warned = s.warned) : (each f l s).warned = s.warned := by
  induction l generalizing s with
  | nil => rfl
  | cons a l ih => exact ih.trans (h a s)

theorem ite_warned {c : Prop} [Decidable c] {a b : State} {x : Bool × Bool × Bool × Nat × Nat} (ha : a.warned = x)
    (hb : b.warned = x) : (if c then a else b).warned = x := by
  split
  · exact ha
  · exact hb

@[simp] theorem bumpN_warned {c : Nat} (h : c ≠ 0xF3) (n : Nat) (s : State) : (bumpN c n s).warned = s.warned := by
  unfold bumpN
  split
  · simp only [State.warned, tget_tput_other _ _ _ _ h.symm]
  · rfl

@[simp] theorem bump_warned {c : Nat} (h : c ≠ 0xF3) (s : State) : (bump c s).warned = s.warned := bumpN_warned h ..

/-- A seat's close counts under its own reason (R285). -/
@[simp] theorem closeCnt_ne_sags (r : Nat) : closeCnt r ≠ 0xF3 := by
  unfold closeCnt
  split <;> decide

/-- A gate's beats and revocations are counters 1 and 2 of five (R285). -/
@[simp] theorem gateCnt_ne_sags (g r : Nat) {k : Nat} (h : k ≤ 2) : gateCnt g r k ≠ 0xF3 := by
  unfold gateCnt
  omega

/-! The writes of the state do not reach the notes. -/

@[simp] theorem setReg_warned (off : Nat) (w : Word) (s : State) : (setReg off w s).warned = s.warned := rfl

@[simp] theorem setFld_warned (f : Fld) (v : Nat) (s : State) : (setFld f v s).warned = s.warned := rfl

@[simp] theorem setFlag_warned (f : Fld) (s : State) : (setFlag f s).warned = s.warned := rfl

@[simp] theorem takeFree_warned (s : State) : (takeFree s).2.warned = s.warned := rfl

@[simp] theorem emit_warned (m : Msg) (s : State) : (emit m s).warned = s.warned := rfl

@[simp] theorem setSeat_warned (i : Nat) (a : Seat) (s : State) : (setSeat i a s).warned = s.warned := rfl

@[simp] theorem modSeat_warned (i : Nat) (f : Seat → Seat) (s : State) : (modSeat i f s).warned = s.warned := rfl

@[simp] theorem setSide_warned (i : Nat) (a : Side) (s : State) : (setSide i a s).warned = s.warned := rfl

@[simp] theorem modSide_warned (i : Nat) (f : Side → Side) (s : State) : (modSide i f s).warned = s.warned := rfl

@[simp] theorem modTenant_warned (t : Nat) (f : Tenant → Tenant) (s : State) : (modTenant t f s).warned = s.warned := rfl

@[simp] theorem modCls_warned (c : Nat) (f : ClassSt → ClassSt) (s : State) : (modCls c f s).warned = s.warned := rfl

@[simp] theorem modDeals_warned (f : Deals → Deals) (s : State) : (modDeals f s).warned = s.warned := rfl

@[simp] theorem modSieve_warned (f : SieveSt → SieveSt) (s : State) : (modSieve f s).warned = s.warned := rfl

@[simp] theorem modKv_warned (f : Kv → Kv) (s : State) : (modKv f s).warned = s.warned := rfl

@[simp] theorem modSeq_warned (f : Seq → Seq) (s : State) : (modSeq f s).warned = s.warned := rfl

@[simp] theorem modPorts_warned (f : Ports → Ports) (s : State) : (modPorts f s).warned = s.warned := rfl

@[simp] theorem modObs_warned (f : Obs → Obs) (s : State) : (modObs f s).warned = s.warned := rfl

@[simp] theorem trace_warned (r : TraceRec) (s : State) : (trace r s).warned = s.warned := by
  unfold trace
  dsimp only
  repeat' apply ite_warned
  all_goals rfl

@[simp] theorem traceWait_warned (kind epoch wf waiter layer start : Nat) (detail : Nat) (s : State) :
    (traceWait kind epoch wf waiter layer start detail s).warned = s.warned := by
  unfold traceWait
  dsimp only
  split <;> simp

@[simp] theorem modGate_warned (g : Nat) (f : GateSt → GateSt) (s : State) : (modGate g f s).warned = s.warned := rfl

@[simp] theorem modPath_warned (g p : Nat) (f : PathSt → PathSt) (s : State) : (modPath g p f s).warned = s.warned := rfl

@[simp] theorem modReq_warned (g p r : Nat) (f : Req → Req) (s : State) : (modReq g p r f s).warned = s.warned := rfl

/-! Objects, models and the charges of a seat (R43, R208). -/

@[simp] theorem modObj_warned (kind id slot : Nat) (f : ObjSlot → ObjSlot) (s : State) :
    (modObj kind id slot f s).warned = s.warned := rfl

@[simp] theorem retireObj_warned (kind id slot : Nat) (s : State) : (retireObj kind id slot s).warned = s.warned := by
  unfold retireObj
  dsimp only
  split <;> simp

@[simp] theorem unpinObj_warned (kind id slot : Nat) (s : State) : (unpinObj kind id slot s).warned = s.warned := by simp [unpinObj]

@[simp] theorem modModel_warned (m v : Nat) (f : ModelSlot → ModelSlot) (s : State) :
    (modModel m v f s).warned = s.warned := rfl

@[simp] theorem dropFetches_warned (m v : Nat) (s : State) : (dropFetches m v s).warned = s.warned := rfl

@[simp] theorem retireModel_warned (m v : Nat) (s : State) : (retireModel m v s).warned = s.warned := by
  unfold retireModel
  dsimp only
  split <;> simp

@[simp] theorem unpinModel_warned (m v : Nat) (s : State) : (unpinModel m v s).warned = s.warned := by simp [unpinModel]

@[simp] theorem dropPins_warned (i : Nat) (s : State) : (dropPins i s).warned = s.warned := by
  unfold dropPins
  dsimp only
  repeat' split
  all_goals simp

@[simp] theorem debit_warned (i : Nat) (n : Int) (s : State) : (debit i n s).warned = s.warned := rfl

@[simp] theorem settle_warned (i reason : Nat) (s : State) : (settle i reason s).warned = s.warned := by
  unfold settle
  split <;> simp

/-! Closing seats and what leaves on the ports. -/

@[simp] theorem freeSeat_warned (i : Nat) (s : State) : (freeSeat i s).warned = s.warned := by
  unfold freeSeat
  split <;> simp

@[simp] theorem releaseIndex_warned (i : Nat) (s : State) : (releaseIndex i s).warned = s.warned := by
  unfold releaseIndex
  split <;> simp

@[simp] theorem closeLeaves_warned (i : Nat) (s : State) : (closeLeaves i s).2.warned = s.warned := by
  unfold closeLeaves
  dsimp only
  split <;> simp

@[simp] theorem modSess_warned (p : Port) (peer : Nat) (f : Sess → Sess) (s : State) :
    (modSess p peer f s).warned = s.warned := rfl

@[simp] theorem portCnt_warned (p : Port) {k : Nat} (h : k ≤ 2) (n : Nat) (s : State) : (portCnt p k n s).warned = s.warned := by
  unfold portCnt
  split
  · exact bumpN_warned (by omega) ..
  · rfl

@[simp] theorem keptAlive_warned (peer : Nat) (s : State) : (keptAlive peer s).warned = s.warned := rfl

@[simp] theorem depart_warned (m : Msg) (s : State) : (depart m s).warned = s.warned := by
  unfold depart
  dsimp only
  repeat' split
  all_goals simp

@[simp] theorem sendCredit_warned (p : Port) (peer : Nat) (opened : Bool) (beats : Nat) (es : List (Nat × Nat)) (s : State) :
    (sendCredit p peer opened beats es s).warned = s.warned := by simp [sendCredit]

@[simp] theorem useCredit_warned (i : OutItem) (s : State) : (useCredit i s).warned = s.warned := by
  unfold useCredit
  split <;> simp

@[simp] theorem countTokens_warned (seat k : Nat) (s : State) : (countTokens seat k s).warned = s.warned := by
  unfold countTokens
  dsimp only
  repeat' split
  all_goals simp

@[simp] theorem recordConsumed_warned (s : State) : (recordConsumed s).warned = s.warned := by
  unfold recordConsumed
  exact bump_warned (by decide) _

@[simp] theorem returnCredit_warned (p : Port) (peer cls n beats : Nat) (s : State) :
    (returnCredit p peer cls n beats s).warned = s.warned := by
  unfold returnCredit
  dsimp only
  repeat' split
  all_goals simp

@[simp] theorem giveBack_warned (p : Port) (n : Nat) (s : State) : (giveBack p n s).warned = s.warned := by
  unfold giveBack
  split <;> simp

@[simp] theorem openCreditBut_warned (n : Nat) (s : State) : (openCreditBut n s).warned = s.warned := by
  unfold openCreditBut
  dsimp only
  split <;> simp

@[simp] theorem queryLeft_warned (seat layer : Nat) (s : State) : (queryLeft seat layer s).warned = s.warned := rfl

@[simp] theorem partialLeft_warned (seat more : Nat) (s : State) : (partialLeft seat more s).warned = s.warned := rfl

@[simp] theorem leave_warned (i : OutItem) (waited : Bool) (s : State) : (leave i waited s).warned = s.warned := by
  unfold leave
  dsimp only
  repeat' split
  all_goals simp

@[simp] theorem send_warned (i : OutItem) (s : State) : (send i s).warned = s.warned := by
  unfold send
  dsimp only
  repeat' split
  all_goals simp

@[simp] theorem sendMsg_warned (m : Msg) (cls : Nat) (s : State) : (sendMsg m cls s).warned = s.warned := by simp [sendMsg]

@[simp] theorem sendFor_warned (m : Msg) (cls i kind ntok : Nat) (s : State) :
    (sendFor m cls i kind ntok s).warned = s.warned := by simp [sendFor]

@[simp] theorem sendN_warned (peer op cls : Nat) (w0 : List (Nat × Nat)) (rest : List Word) (beats : Nat) (pay : List Word)
    (s : State) : (sendN peer op cls w0 rest beats pay s).warned = s.warned := by simp [sendN]

/-! Blocks, chains and the way of a seat to Closed (R176, R179). -/

@[simp] theorem modBlk_warned (b : Nat) (f : Blk → Blk) (s : State) : (modBlk b f s).warned = s.warned := rfl

@[simp] theorem setIdx_warned (n : Nat) (e : IdxEnt) (s : State) : (setIdx n e s).warned = s.warned := rfl

@[simp] theorem clearLocal_warned (b : Nat) (s : State) : (clearLocal b s).warned = s.warned := by
  unfold clearLocal
  dsimp only
  split <;> simp

@[simp] theorem setChain_warned (i : Nat) (l : List Nat) (s : State) : (setChain i l s).warned = s.warned := rfl

@[simp] theorem dropRef_warned (i b : Nat) (s : State) : (dropRef i b s).warned = s.warned := by
  unfold dropRef
  dsimp only
  split <;> simp

@[simp] theorem dropChain_warned (i : Nat) (s : State) : (dropChain i s).warned = s.warned :=
  (setChain_warned ..).trans (each_warned (dropRef_warned i))

@[simp] theorem newTag_warned (u : TagUse) (s : State) : (newTag u s).2.warned = s.warned := rfl

@[simp] theorem putBlock_warned (u : TagUse) (b : Nat) (s : State) : (putBlock u b s).warned = s.warned := by simp [putBlock]

@[simp] theorem dropImage_warned (handle : Nat) (s : State) : (dropImage handle s).warned = s.warned := by simp [dropImage]

@[simp] theorem closeOut_warned (i : Nat) (s : State) : (closeOut i s).warned = s.warned := by
  unfold closeOut
  dsimp only
  repeat' split
  all_goals simp

@[simp] theorem closeFollowers_warned (i reason : Nat) (s : State) : (closeFollowers i reason s).warned = s.warned := by
  unfold closeFollowers
  dsimp only
  split
  · rfl
  · exact each_warned fun m s => by split <;> simp

@[simp] theorem endSplit_warned (i : Nat) (s : State) : (endSplit i s).warned = s.warned := by
  unfold endSplit
  dsimp only
  split <;> simp

@[simp] theorem dropRun_warned (i : Nat) (s : State) : (dropRun i s).warned = s.warned := by
  unfold dropRun
  split <;> simp [each_warned]

@[simp] theorem closedToFree_warned (i : Nat) (s : State) : (closedToFree i s).warned = s.warned := by
  unfold closedToFree
  dsimp only
  have put : ∀ (b : Nat) (s : State), (putBlock (.putPublish b) b s).warned = s.warned := fun b s => putBlock_warned ..
  split <;> split <;> simp [each_warned put]

@[simp] theorem enterClosed_warned (i : Nat) (s : State) : (enterClosed i s).warned = s.warned := by
  unfold enterClosed
  dsimp only
  repeat' split
  all_goals simp

@[simp] theorem enterDraining_warned (i reason : Nat) (s : State) : (enterDraining i reason s).warned = s.warned := rfl

@[simp] theorem finishDraining_warned (i : Nat) (s : State) : (finishDraining i s).warned = s.warned := by
  unfold finishDraining
  split <;> simp

@[simp] theorem tellFollowers_warned (op i : Nat) (s : State) : (tellFollowers op i s).warned = s.warned := by
  unfold tellFollowers
  dsimp only
  split
  · rfl
  · exact each_warned fun m s => by split <;> simp

@[simp] theorem pauseSeat_warned (i epoch : Nat) (s : State) : (pauseSeat i epoch s).warned = s.warned := by simp [pauseSeat]

@[simp] theorem atOnceSeat_warned (i : Nat) (s : State) : (atOnceSeat i s).warned = s.warned := by
  unfold atOnceSeat
  dsimp only
  repeat' split
  all_goals simp

@[simp] theorem idleActions_warned (s : State) : (idleActions s).warned = s.warned := by
  unfold idleActions
  split <;> simp [each_warned]

@[simp] theorem stray_warned {c : Nat} (h : c ≠ 0xF3) (s : State) : (stray c s).warned = s.warned := bump_warned h s

/-! Holds, gates and leases that a stop ends (R117). -/

@[simp] theorem endHold_warned (cut : Bool) (s : State) : (endHold cut s).warned = s.warned := by
  unfold endHold
  dsimp only
  repeat' split
  all_goals simp

@[simp] theorem endBindings_warned (gone : Nat → Bool) (s : State) : (endBindings gone s).warned = s.warned := rfl

@[simp] theorem moveBeats_warned (g p moved : Nat) (s : State) : (moveBeats g p moved s).warned = s.warned := by
  unfold moveBeats
  dsimp only
  split <;> simp

@[simp] theorem freeBeats_warned (g p : Nat) (s : State) : (freeBeats g p s).warned = s.warned := by
  unfold freeBeats
  dsimp only
  split <;> simp

@[simp] theorem returnKept_warned (g tag : Nat) (s : State) : (returnKept g tag s).warned = s.warned := by
  unfold returnKept
  split
  · split <;> simp
  · rfl

@[simp] theorem endGrant_warned (g p : Nat) (s : State) : (endGrant g p s).warned = s.warned := by
  unfold endGrant
  dsimp only
  repeat' split
  all_goals simp

@[simp] theorem revokeGrant_warned (g p : Nat) (s : State) : (revokeGrant g p s).warned = s.warned := by
  unfold revokeGrant
  split <;> simp

@[simp] theorem markFrozen_warned (g : Nat) (s : State) : (markFrozen g s).warned = s.warned := by
  unfold markFrozen
  dsimp only
  split <;> simp

@[simp] theorem gateClock_warned (g : Nat) (s : State) : (gateClock g s).warned = s.warned := by
  unfold gateClock
  split <;> simp

@[simp] theorem freezeGates_warned (s : State) : (freezeGates s).warned = s.warned :=
  each_warned fun g s => by simp

@[simp] theorem revokeAll_warned (s : State) : (revokeAll s).warned = s.warned :=
  each_warned fun g s => (markFrozen_warned ..).trans (each_warned fun p s => by simp)

@[simp] theorem launchWord_warned (op : Nat) (w : List (Nat × Nat)) (s : State) : (launchWord op w s).warned = s.warned := rfl

@[simp] theorem herWord_warned (kind epoch through : Nat) (s : State) :
    (herWord kind epoch through s).warned = s.warned := rfl

@[simp] theorem lapseOwner_warned (g : Nat) (s : State) : (lapseOwner g s).warned = s.warned := by
  unfold lapseOwner
  split
  · split <;> simp
  · rfl

@[simp] theorem lapseLeases_warned (s : State) : (lapseLeases s).warned = s.warned := by
  unfold lapseLeases
  extract_lets held busy n c own out back
  have owned : own.warned = s.warned := ite_warned (lapseOwner_warned ..) rfl
  have left : out.warned = s.warned := ite_warned ((lapseOwner_warned ..).trans owned) owned
  have returned : back.warned = out.warned := each_warned fun i s => modSide_warned ..
  simp [returned, left]

@[simp] theorem discardHanded_warned (s : State) : (discardHanded s).2.warned = s.warned := by
  unfold discardHanded
  split <;> simp

@[simp] theorem cutDealerWait_warned (s : State) : (cutDealerWait s).warned = s.warned := by
  unfold cutDealerWait
  split
  · split <;> simp
  · rfl

@[simp] theorem setStopped_warned (mode discarded : Nat) (s : State) : (setStopped mode discarded s).warned = s.warned := by
  have other : (if mode = 1 then 0x59 else 0x5A : Nat) ≠ 0xF3 := by split <;> decide
  simp [setStopped, other]

@[simp] theorem pauseSplits_warned (epoch : Nat) (s : State) : (pauseSplits epoch s).warned = s.warned :=
  each_warned fun _ _ => tellFollowers_warned ..

@[simp] theorem haltCut_warned (mode : Nat) (s : State) : (haltCut mode s).warned = s.warned := by
  unfold haltCut
  extract_lets e cut r frozen dealt ready words lanes
  have readied : ready.warned = s.warned := (each_warned fun i s => modSeat_warned ..).trans (by simp [dealt, frozen, r, cut])
  split <;> simp [lanes, words, readied]

/-! The stop itself (R115, R117). -/

@[simp] theorem traceCut_warned (kind epoch waitFor waiter layer start detail : Nat) (s : State) :
    (traceCut kind epoch waitFor waiter layer start detail s).warned = s.warned := by
  unfold traceCut
  dsimp only
  split <;> simp

@[simp] theorem cutOpen_warned (s : State) : (cutOpen s).warned = s.warned := by
  unfold cutOpen
  extract_lets gates queue tags
  have gated : gates.warned = s.warned :=
    each_warned fun g s => each_warned fun p s => each_warned fun r s => traceCut_warned ..
  have queued : queue.warned = gates.warned := each_warned fun i s => by split <;> simp
  have tagged : tags.warned = queue.warned := each_warned fun e s => by
    split
    · exact each_warned fun i s => by split <;> simp
    · rfl
  split <;> simp [tagged, queued, gated]

@[simp] theorem cutWaits_warned (r : Running) (s : State) : (cutWaits r s).warned = s.warned := by
  unfold cutWaits
  dsimp only
  rw [cutOpen_warned]
  split <;> split <;> simp

@[simp] theorem recordLanes_warned (epoch : Nat) (s : State) : (recordLanes epoch s).warned = s.warned := by
  unfold recordLanes
  dsimp only
  split <;> simp

@[simp] theorem dropRows_warned (s : State) : (dropRows s).warned = s.warned := rfl

@[simp] theorem unlock_warned (s : State) : (unlock s).warned = s.warned := rfl

@[simp] theorem stray_sieve (c : Nat) (s : State) : (stray c s).sieve = s.sieve := by
  unfold stray
  simp

/-- With no row of any run left, a list that port F kept back is a stray one (R129, R142). -/
theorem candIn_without_rows (m : CandMsg) {s : State} (h : s.sieve.rows = []) : candIn m s = stray 0x63 s := by
  have none : s.row m.seat.toNat m.row.toNat = none := by simp [State.row, h]
  simp [candIn, State.laneFull, candTaken, none]

theorem candBack_dropRows_warned (s : State) : (candBack (dropRows s)).warned = s.warned := by
  have strays : ∀ (l : List CandMsg) (u : State), u.sieve.rows = [] → (each candIn l u).warned = u.warned := by
    intro l
    induction l with
    | nil => exact fun _ _ => rfl
    | cons m l ih =>
      intro u h
      rw [each, candIn_without_rows m h, ih _ (by simpa using h)]
      exact stray_warned (by decide) u
  exact strays _ _ rfl

/-- Once the sag warning stands no acknowledgement of an earlier deal is made up for: the stop only abandons the deal (R117, R276). -/
theorem stopRunning_warned (r : Running) {s : State} (h : s.pwr.state = 5) : (stopRunning r s).warned = s.warned := by
  unfold stopRunning
  extract_lets e recs done d words back ab stopping last
  have open_ : done = false := by simp [done, h]
  have waits : d.2.warned = s.warned := by simp [d]
  have backed : back.warned = s.warned := by
    simp [back, candBack_dropRows_warned, words, waits]
  rw [open_]
  simp [last, stopping, backed]

theorem immediateStop_warned {s : State} (h : s.pwr.state = 5) : (immediateStop s).warned = s.warned := by
  unfold immediateStop
  split
  · simp
  · split
    · exact stopRunning_warned _ h
    · simp

/-! ## The sag warning (R276 to R280) -/

/-- The sag warning is noted and counted, and the stop it asks for leaves the notes as they are (R276, R277). -/
theorem sagWarn_warned (s : State) :
    (sagWarn s).warned = (true, false, false, s.now, satAdd48 (tget 0 s.keep.cnt 0xF3) 1) := by
  unfold sagWarn
  extract_lets record on noted stopped n
  have counted : noted.warned = (true, false, false, s.now, satAdd48 (tget 0 s.keep.cnt 0xF3) 1) := by
    simp only [noted, bump, bumpN_keep_eq (c := 0xF3) (by decide), State.warned, modPwr, tget_tput_self]
  have state : noted.pwr.state = 5 := by
    simp only [noted, bump, bumpN_keep_eq (c := 0xF3) (by decide), modPwr]
  have left : stopped.warned = noted.warned :=
    ite_warned ((unlock_warned _).trans (immediateStop_warned state)) rfl
  rw [bumpN_warned (by decide)]
  exact left.trans counted

/-- A sag record begins when a configuration was applied, and the one of an earlier sag stays otherwise (R278). -/
theorem sagWarn_sag (s : State) :
    (sagWarn s).keep.sag = if s.pwr.applied = true then some (sagRecord s) else s.keep.sag := rfl

/-- The write lock ends with the main domain (R280). -/
theorem sagWarn_locked {s : State} (good : s.pwr.mainGood = true) : (sagWarn s).pwr.locked = none := by
  unfold sagWarn
  extract_lets record on noted stopped n
  have unlocked : stopped.pwr.locked = none := by
    simp only [stopped, on, good, if_true]
    rfl
  exact unlocked

/-- Settles O17: the warning by its notes, which the stop leaves alone; the record and the bus by the guards of their commands. -/
theorem sagWarning : Obligations.SagWarning := by
  refine ⟨fun t s started calm => ⟨sagWarn (tick t s), ?_, sagWarn_core _, ?_⟩, fun t s sag applied open_ => ?_, fun t s sag => ?_⟩
  · change execSagWarning t s = _
    unfold execSagWarning
    dsimp only
    rw [if_pos (by simp [started, calm])]
  · have notes := sagWarn_warned (tick t s)
    simp only [State.warned, Prod.mk.injEq, tick_keep] at notes
    obtain ⟨warn, bus, rec_, at_, count⟩ := notes
    exact ⟨warn, bus, rec_, at_, fun good => sagWarn_locked (by simpa using good), by simpa using sagWarn_sag (tick t s), count⟩
  · change execSagRecordDone t s = _
    unfold execSagRecordDone
    dsimp only
    rw [if_pos (by simp [State.writingSag, sag, applied, open_])]
    simp
  · change execBusRecovered t s = _
    unfold execBusRecovered
    dsimp only
    rw [if_pos (by simp [sag])]
    simp [modPwr]

end Sys2Proof.Machine
